-- ==== Sys2Proof/Word.lean ====
section
/-! DEFINITION. The word types of the node's messages and lines, and the record of four channels. -/

namespace Sys2Proof

/-- One octet of a message, a sensor exchange or the configuration image. -/
abbrev Byte := BitVec 8

/-- A field of two octets: a track value, a size, a water mark. -/
abbrev U16 := BitVec 16

/-- A field of three octets: a sample index, a cursor, a position in counts. -/
abbrev U24 := BitVec 24

/-- A frame number, counted modulo 2^32 (R28). -/
abbrev FrameNo := BitVec 32

/-- A set of the channels 0 to 3, bit n standing for channel n (R204). -/
abbrev ChanSet := BitVec 4

/-- One value for each of the node's four channel positions. -/
structure Quad (α : Type) where
  c0 : α
  c1 : α
  c2 : α
  c3 : α
deriving DecidableEq, Repr

namespace Quad

/-- The same value on every channel. -/
def fill {α : Type} (a : α) : Quad α := ⟨a, a, a, a⟩

/-- The value of channel `i`; no channel has a number above 3. -/
def get {α : Type} (q : Quad α) (i : Nat) : α :=
  match i with
  | 0 => q.c0
  | 1 => q.c1
  | 2 => q.c2
  | _ => q.c3

/-- The record with channel `i` set to `a`; a number above 3 names no channel and changes nothing. -/
def set {α : Type} (q : Quad α) (i : Nat) (a : α) : Quad α :=
  match i with
  | 0 => { q with c0 := a }
  | 1 => { q with c1 := a }
  | 2 => { q with c2 := a }
  | 3 => { q with c3 := a }
  | _ => q

/-- The function applied to every channel. -/
def map {α β : Type} (f : α → β) (q : Quad α) : Quad β := ⟨f q.c0, f q.c1, f q.c2, f q.c3⟩

/-- The four values in channel order. -/
def toList {α : Type} (q : Quad α) : List α := [q.c0, q.c1, q.c2, q.c3]

end Quad

/-- One more, but never above `top`: the counters that saturate. -/
def satSucc (top n : Nat) : Nat := min top (n + 1)

end Sys2Proof
end

