-- ==== Sys2Proof/Config.lean ====
section
/-! DEFINITION. The values one node's configuration image fixes (chapters 2 to 7 and 12), and the sizes the
manual gives every node.  There is no free value: the manual leaves no result of a command undefined. -/

namespace Sys2Proof

/-- The kind of a channel (R50). -/
inductive ChanKind where
  | swing | boom | reach | pan | tilt | roll | focus | iris | zoom | aux
deriving DecidableEq, Repr

/-- A lens channel has no brake and no limit lines (R50). -/
def ChanKind.isLens : ChanKind → Bool
  | .focus | .iris | .zoom => true
  | _ => false

/-- One channel record of the image (R50, R51).  `table` is the list of the K calibration points. -/
structure ChanCfg where
  kind : ChanKind
  brake : Bool
  lowLimit : Bool
  highLimit : Bool
  lo : Int
  hi : Int
  vmax : Nat
  vcue : Nat
  ferrMax : Nat
  ferrTicks : Nat
  devTol : Nat
  amax : Nat
  astop : Nat
  table : List (Nat × Int)
deriving DecidableEq, Repr

/-- The record of a channel position that the node does not have. -/
def ChanCfg.absent : ChanCfg :=
  { kind := .aux, brake := false, lowLimit := false, highLimit := false, lo := 0, hi := 0, vmax := 0, vcue := 0,
    ferrMax := 0, ferrTicks := 0, devTol := 0, amax := 0, astop := 0, table := [] }

/-- The class of a zone line (R116). -/
inductive ZoneClass where
  | none | stop | slow
deriving DecidableEq, Repr

/-- One zone record (R116).  `high` is the POLARITY: the level HIGH counts as active. -/
structure ZoneCfg where
  cls : ZoneClass
  factor : Nat
  high : Bool
deriving DecidableEq, Repr

/-- One watch entry (R40). -/
structure WatchCfg where
  station : Nat
  channel : Nat
deriving DecidableEq, Repr

/-- One cross-limit entry (R129): while the travel in `slot` lies in `srcLow … srcHigh`, `channel` is confined to
`limLow … limHigh`. -/
structure CrossCfg where
  channel : Nat
  slot : Nat
  srcLow : Nat
  srcHigh : Nat
  limLow : Int
  limHigh : Int
deriving DecidableEq, Repr

/-- The timing values the Frame Timer uses (R20, R21): `n` is the nominal period in eighth-cycles. -/
structure Timing where
  refUse : Bool
  n : Nat
  s : Nat
deriving DecidableEq, Repr

/-- The fallback timing of a FAULTED node (R20). -/
def Timing.fallback : Timing := { refUse := false, n := 4000000, s := 4 }

/-- Everything the configuration image gives the node (R199, R201).  `controlsKnown` says that the control-station
list has passed validation (R189, R200). -/
structure NodeCfg where
  station : Nat
  crane : BitVec 32
  bitRate : Nat
  timing : Timing
  lossTimeout : Nat
  liveTimeout : Nat
  paceStep : Nat
  zoneClearTime : Nat
  enableSettle : Nat
  brakeRelease : Nat
  brakeSet : Nat
  controls : List Nat
  controlsKnown : Bool
  nChans : Nat
  chan : Quad ChanCfg
  zones : List ZoneCfg
  peers : List Nat
  watch : List WatchCfg
  cross : List CrossCfg
deriving DecidableEq, Repr

/-- No configuration: before the first image has been read, and while one is being read. -/
def NodeCfg.none : NodeCfg :=
  { station := 0, crane := 0, bitRate := 0, timing := { refUse := false, n := 0, s := 0 }, lossTimeout := 0,
    liveTimeout := 0, paceStep := 0, zoneClearTime := 0, enableSettle := 0, brakeRelease := 0, brakeSet := 0,
    controls := [], controlsKnown := false, nChans := 0, chan := Quad.fill ChanCfg.absent, zones := [], peers := [],
    watch := [], cross := [] }

namespace Config

/-- The channel positions of every node (R199: C is 1 to 4). -/
def maxChans : Nat := 4
/-- The entries of each transmit queue (R11, R12). -/
def queueSize : Nat := 16
/-- The entries of the roster (R33). -/
def rosterSize : Nat := 24
/-- The watch slots (chapter 3). -/
def watchSlots : Nat := 8
/-- The entries of the claims list (R93). -/
def claimsSize : Nat := 32
/-- The entries of the pace list (R122). -/
def paceListSize : Nat := 32
/-- The zone lines (R116). -/
def zoneLines : Nat := 8
/-- The E-stop inputs (R120). -/
def estopInputs : Nat := 2
/-- The whole inactive frames after which an E-stop input is clear (R120). -/
def estopClearTime : Nat := 2
/-- The records of the sample store (R134). -/
def storeSize : Nat := 8192
/-- The entries of the take directory (R135). -/
def dirSize : Nat := 8
/-- The learning window in frames (R39). -/
def learningFrames : Nat := 32
/-- The frames of the overflow condition and of the pace floor, and the count of a duplicate's absence
(R102, R125, R7). -/
def quietFrames : Nat := 32
/-- Full pace (00_scope.md section 5.1). -/
def fullPace : Nat := 16
/-- The largest sample index (R135). -/
def maxIndex : Nat := 16777215
/-- The consecutive transmit failures that raise LINK (R16). -/
def linkFailures : Nat := 16
/-- The quiet frames that raise LINK-QUIET (R17). -/
def linkQuietFrames : Nat := 8
/-- The largest LENGTH of a message (R2, R5). -/
def maxLength : Nat := 48

end Config

end Sys2Proof
end

