-- ==== Sys2Proof/Syntax.lean ====
section
/-! DEFINITION. The commands of the block: one constructor per row of spec/opcode_table.json, with the fields that
the row's rule reads. -/

namespace Sys2Proof

/-- The header fields of a received message that its kind does not fix (R2): SOURCE, DEST and LENGTH, six bits each. -/
structure Header where
  source : BitVec 6
  dest : BitVec 6
  length : BitVec 6
deriving DecidableEq, Repr

/-- The levels of the lines a servo tick samples: the zone lines (bit set: level HIGH, R116), the E-stop inputs (bit
set: circuit open, R120), the drive-fault lines (bit set: active, R89) and the limit lines (bit set: active, R90). -/
structure LineLevels where
  zone : BitVec 8
  estop : BitVec 2
  fault : BitVec 4
  low : BitVec 4
  high : BitVec 4
deriving DecidableEq, Repr

/-- The pieces of work of one tick whose order the manual leaves open (00_scope.md section 5.3).  A frame tick has all of
them, a later servo tick those after `start`. -/
inductive TickWork where
  /-- The STATE of the frame that ends is composed (R42, R195).  An order without it has it composed first. -/
  | report
  /-- The Roster Unit raises PEER for the stations lost at this frame tick (R38). -/
  | peers
  /-- The Interlock Unit checks the entries that have become active, and raises CROSS (R132). -/
  | cross
  /-- The Interlock Unit raises CROSS for the empty ranges (R131). -/
  | conflict
  /-- The Safety Supervisor's brake timer (R107, R111). -/
  | brake
  /-- The pending START acts (R161). -/
  | start
  /-- The autopoll round ends and the next begins (R78). -/
  | poll
  /-- The drive-fault lines are sampled (R89). -/
  | faults
  /-- The limit lines are sampled (R90). -/
  | limits
  /-- The zone lines and the E-stop pair are sampled (R116, R120). -/
  | zones
  /-- UNDERRUN is raised for an index that the tick needs and the ring does not hold (R164). -/
  | underrun
  /-- The cursor is formed and the channels are computed (R59, R162), with the tests made after it, as one piece (log entry 54). -/
  | compute
deriving DecidableEq, Repr

/-- Why a message is bad (R5). -/
inductive BadReason where
  /-- The CHECK is not good. -/
  | check
  /-- LENGTH above 48. -/
  | length
  /-- A recessive bit in the place of a framing bit. -/
  | framing
  /-- The line fell idle before the last CHECK bit. -/
  | early
  /-- The CLASS is not that of the KIND. -/
  | kindClass
deriving DecidableEq, Repr

/-- What a response on the sensor line is to its request (R77, R78; log entry 52). -/
inductive Answer where
  /-- The check is good, and the request it answers has not been given up. -/
  | good
  /-- The check is bad. -/
  | badCheck
  /-- The request it answers has been given up (R78, R85). -/
  | givenUp
deriving DecidableEq, Repr

/-- A sample record: a track value for each channel position and a MARK (R134).  A node with fewer than four channels
leaves the values of the others 0. -/
structure Sample where
  v0 : U16
  v1 : U16
  v2 : U16
  v3 : U16
  mark : Byte
deriving DecidableEq, Repr

/-- The fields of a received STATE (R43, R44, R204).  `chans` holds U_REP and the flags octet of each record. -/
structure StateFields where
  safety : Byte
  activity : Byte
  take : Byte
  cursor : U24
  applied : Byte
  target : Byte
  claims : Byte
  attention : Byte
  zones : Byte
  flags : Byte
  count : Byte
  chans : List (U16 × Byte)
deriving DecidableEq, Repr

/-- The arguments of TAKE-OPEN (R137, R204).  `size` is SIZE or R. -/
structure TakeOpenArgs where
  id : Byte
  kind : Byte
  chanSet : Byte
  editSet : Byte
  size : U16
  high : U16
  low : U16
deriving DecidableEq, Repr

/-- The commands of the node. -/
inductive Instr where
  /-- RESET (R197). -/
  | reset
  /-- RESET_RELEASE (R197). -/
  | resetRelease
  /-- NO_IMAGE (R198): the memory has not answered. -/
  | noImage
  /-- LEAVING_LOADING (R201), with the octets the read has given. -/
  | leavingLoading (image : List Byte)
  /-- FAULTED (R200), with the octets the read has given. -/
  | faulted (image : List Byte)
  /-- REFERENCE_EDGE (R23). -/
  | referenceEdge (lines : LineLevels) (order : List TickWork)
  /-- FLYWHEEL_TICK (R22). -/
  | flywheelTick (lines : LineLevels) (order : List TickWork)
  /-- REF_LOST (R24). -/
  | refLost
  /-- SERVO_TICK (R26). -/
  | servoTick (lines : LineLevels) (order : List TickWork)
  /-- ROSTER_REMOVAL (R35). -/
  | rosterRemoval
  /-- PEER_LOST (R38). -/
  | peerLost
  /-- WATCH_SLOT_UNKNOWN (R41). -/
  | watchSlotUnknown
  /-- LEARNING_WINDOW_END (R39). -/
  | learningWindowEnd
  /-- PACE_FLOOR_RETURN (R125). -/
  | paceFloorReturn
  /-- OVERFLOW_CLEAR (R102). -/
  | overflowClear
  /-- ZONE_CLEAR (R117). -/
  | zoneClear
  /-- ESTOP_CLEAR (R120). -/
  | estopClear
  /-- LIVE_TIMEOUT (R175). -/
  | liveTimeout
  /-- LINK_QUIET (R17). -/
  | linkQuiet
  /-- ENABLE_SETTLE_END (R107). -/
  | enableSettleEnd
  /-- BRAKE_RELEASE_END (R107). -/
  | brakeReleaseEnd
  /-- BRAKE_SET_END (R111). -/
  | brakeSetEnd
  /-- START_ACTION (R161). -/
  | startAction
  /-- ABORT_ACTION (R167). -/
  | abortAction
  /-- PARK_TIMEOUT (R45). -/
  | parkTimeout
  /-- RESTART_TIMEOUT (R202). -/
  | restartTimeout
  /-- WAKE_FRAME_TICK (R48). -/
  | wakeFrameTick
  /-- ATTEMPT (R14). -/
  | attempt
  /-- ARBITRATION_LOST (R3). -/
  | arbitrationLost
  /-- TRANSMIT_FAILURE (R15). -/
  | transmitFailure
  /-- ATTEMPT_SUCCESS (R15). -/
  | attemptSuccess
  /-- BAD_MESSAGE (R5). -/
  | badMessage (reason : BadReason)
  /-- IMPOSTOR_MESSAGE (R7). -/
  | impostorMessage
  /-- STOP (R97). -/
  | stop (h : Header) (cause detail : Byte)
  /-- CLEAR (R98). -/
  | clear (h : Header) (cause : Byte)
  /-- ROLL (R99): MORE, COUNT, the pace factor and the pairs of CAUSE and DETAIL. -/
  | roll (h : Header) (more : Bool) (count : BitVec 5) (factor : Byte) (pairs : List (Byte × Byte))
  /-- PACE (R123). -/
  | pace (h : Header) (factor : Byte)
  /-- ABORT (R167). -/
  | abort (h : Header) (take : Byte)
  /-- START (R160). -/
  | start (h : Header) (take lead : Byte)
  /-- LIVE (R171): ENABLE, MASK, MARK and one value for each bit of MASK in channel order. -/
  | live (h : Header) (enable : Bool) (mask : ChanSet) (mark : Byte) (values : List U16)
  /-- STATE (R36). -/
  | state (h : Header) (fields : StateFields)
  /-- SAMPLES (R143): ID, START, END, COUNT and the records. -/
  | samples (h : Header) (take : Byte) (first : U24) (last : Bool) (count : Byte) (records : List Sample)
  /-- WAKE (R47): MASK and the four copies of CRANE. -/
  | wake (h : Header) (mask : BitVec 64) (crane0 crane1 crane2 crane3 : BitVec 32)
  /-- PRESENCE_ONLY (R8). -/
  | presenceOnly (h : Header)
  /-- COMMAND_NOT_IN_CATALOGUE (R189): a COMMAND with its CODE and the octets of its arguments. -/
  | commandNotInCatalogue (h : Header) (serial code : Byte) (args : List Byte)
  /-- ARM (R106). -/
  | arm (h : Header) (serial : Byte)
  /-- DISARM (R112). -/
  | disarm (h : Header) (serial : Byte)
  /-- RELEASE (R103). -/
  | release (h : Header) (serial : Byte)
  /-- PARK (R45). -/
  | park (h : Header) (serial : Byte)
  /-- TAKE_OPEN (R137). -/
  | takeOpen (h : Header) (serial : Byte) (args : TakeOpenArgs)
  /-- TAKE_DELETE (R139). -/
  | takeDelete (h : Header) (serial take : Byte)
  /-- TAKE_REWIND (R140). -/
  | takeRewind (h : Header) (serial take : Byte)
  /-- CUE (R155). -/
  | cue (h : Header) (serial take rate mask : Byte)
  /-- CUE_CANCEL (R159). -/
  | cueCancel (h : Header) (serial : Byte)
  /-- RECORD (R177). -/
  | record (h : Header) (serial take : Byte)
  /-- RECORD_END (R180). -/
  | recordEnd (h : Header) (serial : Byte)
  /-- PUNCH (R182). -/
  | punch (h : Header) (serial take mask : Byte)
  /-- SENSOR_READ (R83). -/
  | sensorRead (h : Header) (serial channel item : Byte)
  /-- READ_TAKES_LINE (R84). -/
  | readTakesLine
  /-- POLL_RESPONSE (R79): what it is to its request, its ADDRESS, STATUS and POSITION. -/
  | pollResponse (answer : Answer) (address status : Byte) (position : U24)
  /-- READ_RESPONSE (R85): what it is to its request, its ADDRESS, STATUS and VALUE. -/
  | readResponse (answer : Answer) (address status : Byte) (value : BitVec 32)
  /-- SENSOR_TIMEOUT (R85). -/
  | sensorTimeout
  /-- ATTENTION (R193): STATUS-QUERY with that ITEM, its START and its CLEAR octet. -/
  | attention (h : Header) (serial start clear : Byte)
  /-- COUNTERS (R193). -/
  | counters (h : Header) (serial start clear : Byte)
  /-- CLAIMS (R194). -/
  | claims (h : Header) (serial start clear : Byte)
  /-- ROSTER (R194). -/
  | roster (h : Header) (serial start clear : Byte)
  /-- DIRECTORY (R194). -/
  | directory (h : Header) (serial start clear : Byte)
  /-- LATCH (R194). -/
  | latch (h : Header) (serial start clear : Byte)
  /-- RESTART (R202). -/
  | restart (h : Header) (serial : Byte)
  /-- LINE_IDLE (R5). -/
  | lineIdle
deriving DecidableEq, Repr

end Sys2Proof
end

