-- ==== Sys2Proof/Decode.lean ====
section
/-! DEFINITION. The command a table word spells.  No row of spec/opcode_table.json gives bits, so no word spells one; the
command that a received message spells is in Machine/Wire.lean. -/

namespace Sys2Proof

/-- The command whose bits are `_w`: none, since no row of the table gives bits. -/
def decodeTableWord (_nbits _w : Nat) : Option Instr := none

end Sys2Proof
end

