-- ==== Sys2Proof/Machine/Arith.lean ====
section
/-! DEFINITION. The exact integer arithmetic of chapter 4: the two roundings, the calibration map and its inverse, the
discrete stopping distance, the brake speed and the limiter. -/

namespace Sys2Proof.Machine

open Sys2Proof

/-- `n / d` rounded to the nearest integer, ties away from zero (00_scope.md section 5.2). -/
def nearest (n d : Int) : Int :=
  let m : Int := ((2 * n.natAbs + d.natAbs) / (2 * d.natAbs) : Nat)
  if decide (n < 0) != decide (d < 0) then -m else m

/-- The half-up interpolation between `a` and `b` at `f` 4096ths (R60, R62). -/
def interpolate (a b f : Nat) : Nat :=
  ((a : Int) + (((b : Int) - a) * f + 2048) / 4096).toNat

/-- The forward calibration map (R64); the table is that of R51. -/
def cal : List (Nat × Int) → Nat → Int
  | [], _ => 0
  | [(_, y)], _ => y
  | (x0, y0) :: (x1, y1) :: rest, u =>
    if u ≤ x0 then y0
    else if u < x1 then y0 + nearest ((y1 - y0) * ((u : Int) - x0)) ((x1 : Int) - x0)
    else cal ((x1, y1) :: rest) u

/-- The inverse calibration map (R71). -/
def inverse : List (Nat × Int) → Int → Nat
  | [], _ => 0
  | [(x, _)], _ => x
  | (x0, y0) :: (x1, y1) :: rest, r =>
    if (y0 < y1 ∧ r ≤ y0) ∨ (¬ y0 < y1 ∧ y0 ≤ r) then x0
    else if (y0 < y1 ∧ r < y1) ∨ (¬ y0 < y1 ∧ y1 < r) then
      x0 + (nearest ((r - y0) * ((x1 : Int) - x0)) (y1 - y0)).toNat
    else inverse ((x1, y1) :: rest) r

/-- The discrete stopping distance D_a(w) (R66). -/
def stopDistance (a w : Nat) : Nat :=
  let n := w / a
  (n + 1) * w - a * (n * (n + 1) / 2)

/-- The largest speed below `w + 2 ^ k` whose stopping distance is at most `d`, found bit by bit from `w` up; D_a grows
with its speed (R66). -/
def brakeSearch (a d : Nat) : Nat → Nat → Nat
  | 0, w => w
  | k + 1, w => if stopDistance a (w + 2 ^ k) ≤ d then brakeSearch a d k (w + 2 ^ k) else brakeSearch a d k w

/-- The brake speed vb_a(d) for the distance `d` (R66): the largest `w` with D_a(w) ≤ |d|.  D_a(w) is at least `w`, so
`w` has no more bits than |d|. -/
def brakeSpeed (a : Nat) (d : Int) : Nat := brakeSearch a d.natAbs (d.natAbs.log2 + 1) 0

/-- `v` limited to `lo … hi`. -/
def clampInt (lo hi v : Int) : Int := max lo (min hi v)

/-- The velocity of a tick in a mode with a target (R67): `d` is T - x_prev and `limit` the speed limit. -/
def limiter (amax limit : Nat) (d vPrev : Int) : Int :=
  let want : Int := d.sign * (min limit (brakeSpeed amax d) : Nat)
  vPrev + clampInt (-(amax : Int)) amax (want - vPrev)

/-- The velocity of a tick in HALT (`a` = amax) or STOP (`a` = astop) (R68). -/
def decelerate (a : Nat) (vPrev : Int) : Int := vPrev - vPrev.sign * (min vPrev.natAbs a : Nat)

/-- The speed limit `max(1, floor(speed × p / 16))` of HOLD, LIVE and CUE (R53). -/
def pacedSpeed (speed pace : Nat) : Nat := max 1 (speed * pace / 16)

end Sys2Proof.Machine
end

