-- ==== Sys2Proof/Machine/State.lean ====
section
/-! DEFINITION. The state of the node as plain data, block by block, and its value at RESET. -/

namespace Sys2Proof.Machine

open Sys2Proof

/-- Why the machine stops with a fault.  The manual gives every command an effect, or says that it has none, so no
command ends in a fault and the type has no constructor. -/
inductive Fault : Type
deriving DecidableEq, Repr

/-- Why a command is refused by the model. -/
inductive Refusal where
  /-- Raised by `exec`'s own arm for a command that has no meaning yet; safe. -/
  | notModelled (mnemonic : String)
deriving DecidableEq, Repr

/-! ### The names of the state machines (00_scope.md section 6) -/

/-- The safety states (R104). -/
inductive Safety where
  | loading | faulted | disarmed | arming | armed | stopping | securing | parked
deriving DecidableEq, Repr

/-- The safety state a STATE message publishes: a node's, or CONTROL for a control station (R43). -/
inductive Published where
  | node (s : Safety)
  | control
deriving DecidableEq, Repr

/-- The activities of the Take Player and Recorder (R153). -/
inductive Activity where
  | idle | live | recording | cueing | cued | playing | easing
deriving DecidableEq, Repr

/-- The modes of a channel (R53). -/
inductive Mode where
  | off | hold | halt | live | cue | play | stop
deriving DecidableEq, Repr

/-- The causes of a claim (R94). -/
inductive Cause where
  | estop | zone | limit | follow | encoder | drive | peer | underrun | deviation | cross | duplicate | link | operator
deriving DecidableEq, Repr

/-- The attention codes (R195). -/
inductive Attention where
  | claimOverflow | refLost | staleReading | liveStale | tickSlip | txDrop | linkQuiet | rosterFull | sampleRange
  | takeFull | sensorTimeout
deriving DecidableEq, Repr

/-- The status codes of a REPLY (chapter 11, section 11.3). -/
inductive Status where
  | done | accepted | refused | busy | badArg | notControl | noTake | exists_ | noRoom | dirFull | inUse | unreachable
  | stopped | cancelled | missing | learning | claims | sensor | gap | full | timeout | moving
deriving DecidableEq, Repr

/-! ### Claims, roster and takes -/

/-- One entry of the claims list (R93). -/
structure Claim where
  origin : Nat
  cause : Cause
  detail : Nat
  latched : Bool
deriving DecidableEq, Repr

/-- The ROLE of a roster entry (R33). -/
inductive Role where
  | node | control
deriving DecidableEq, Repr

/-- LAST SAFETY STATE, LAST ACTIVITY and LAST TAKE (R33). -/
structure LastFields where
  safety : Published
  activity : Activity
  take : Nat
deriving DecidableEq, Repr

/-- One entry of the roster (R33). -/
structure RosterEntry where
  station : Nat
  role : Role
  pinned : Bool
  heard : Bool
  age : Nat
  last : Option LastFields
deriving DecidableEq, Repr

/-- The KIND of a take (R135). -/
inductive TakeKind where
  | resident | stream
deriving DecidableEq, Repr

/-- The STATE of a take (R136). -/
inductive TakeState where
  | loading | ready | recording | spent
deriving DecidableEq, Repr

/-- One directory entry in use (R135).  `length` belongs to a resident take; `fill`, `retired`, `endReceived`, `high`,
`low` and `held` to a stream take. -/
structure Take where
  id : Nat
  kind : TakeKind
  state : TakeState
  chanSet : ChanSet
  editSet : ChanSet
  base : Nat
  size : Nat
  loader : Nat
  length : Nat
  fill : Nat
  retired : Nat
  endReceived : Bool
  high : Nat
  low : Nat
  held : Bool
  latch : Option Nat
deriving DecidableEq, Repr

/-! ### Messages the node sends -/

/-- One channel record of the node's STATE (R44). -/
structure ChanReport where
  uRep : Nat
  moving : Bool
  clamped : Bool
  halted : Bool
  stale : Bool
  driveOff : Bool
deriving DecidableEq, Repr

/-- The content of the node's STATE (R43).  `attention` is the fault code in FAULTED. -/
structure StateReport where
  safety : Safety
  activity : Activity
  take : Nat
  cursor : Nat
  applied : Nat
  target : Nat
  claims : Nat
  attention : Nat
  zones : BitVec 8
  refPresent : Bool
  learning : Bool
  overflow : Bool
  peerMissing : Bool
  chans : List ChanReport
deriving DecidableEq, Repr

/-- The DATA of a REPLY (R190, section 13.2). -/
inductive ReplyData where
  /-- No DATA. -/
  | none
  /-- RELEASE: the causes that remain (R103). -/
  | causes (cs : List Cause)
  /-- TAKE-OPEN: the entry number and BASE (R138). -/
  | opened (entry base : Nat)
  /-- RECORD-END: LENGTH (R180). -/
  | length (n : Nat)
  /-- SENSOR-READ: the value (R85). -/
  | value (v : BitVec 32)
  /-- An error reply of sample loading: ID, START and the expected index, 0 when there is none (R142). -/
  | loading (take first expected : Nat)
  /-- ATTENTION: the set, the fault code and the item index (R193). -/
  | attention (codes : BitVec 16) (fault item : Nat)
  /-- COUNTERS (R193). -/
  | counters (bad failures drops : Nat)
  /-- CLAIMS: the count, the overflow condition and up to 8 entries (R194). -/
  | claims (count : Nat) (overflow : Bool) (entries : List Claim)
  /-- ROSTER: the count and the entry at START, if there is one (R194). -/
  | roster (count : Nat) (entry : Option RosterEntry)
  /-- DIRECTORY: the entry, or free (R194). -/
  | directory (entry : Option Take)
  /-- LATCH: empty or an index (R194). -/
  | latch (index : Option Nat)
deriving DecidableEq, Repr

/-- The kind and content of a message the node sends (section 1.3). -/
inductive Body where
  | stop (cause : Cause) (detail : Nat)
  | clear (cause : Cause)
  | pace (factor : Nat)
  | abort (take : Nat)
  | state (report : StateReport)
  | reply (serial : Byte) (code : Nat) (status : Status) (data : ReplyData)
  | hold (take fill : Nat)
  | resume (take fill : Nat)
  | mark (take index code : Nat)
  /-- The node's own ROLL: its pace factor and its pairs, MORE clear (R101). -/
  | roll (factor : Nat) (pairs : List (Cause × Nat))
deriving DecidableEq, Repr

/-- A message of the node: its DEST and its content.  SOURCE is the node's own number and CLASS that of the kind (R2). -/
structure Msg where
  dest : Nat
  body : Body
deriving DecidableEq, Repr

/-- One entry of a transmit queue (R10, R13); its place in the list is its place in the order.  `active`: its attempt is
in progress. -/
structure QEntry where
  msg : Msg
  succ : Option Msg
  active : Bool
deriving DecidableEq, Repr

/-! ### The blocks -/

/-- Link Interface (R19). -/
structure Lif where
  urgent : List QEntry
  ordinary : List QEntry
  /-- An attempt is in progress whose entry was dropped on entering PARKED (R18). -/
  orphan : Bool
  failRun : Nat
  txFailures : Nat
  badMessages : Nat
  txDrops : Nat
  quiet : Nat
  dupQuiet : Nat
  linkRelease : Bool
  parkFilter : Bool
  /-- The line is idle (R1). -/
  lineIdle : Bool
  /-- The receiver waits for the line to fall idle before it receives again (R5). -/
  rxWait : Bool
deriving DecidableEq, Repr

/-- Frame Timer (R32). -/
structure Ft where
  running : Bool
  /-- Frame 0 is in progress (R20). -/
  frame0 : Bool
  frame : FrameNo
  tick : Nat
  guard : Bool
  acc : Nat
  watch : Nat
  refPresent : Bool
deriving DecidableEq, Repr

/-- One watch slot (R40); `value` none is UNKNOWN. -/
structure WatchSlot where
  value : Option Nat
  age : Nat
  pend : List (FrameNo × Nat)
deriving DecidableEq, Repr

/-- Roster Unit (R49). -/
structure Ru where
  roster : List RosterEntry
  learning : Nat
  slots : List WatchSlot
  parkPending : Bool
  /-- Frame ticks since the PARK was accepted (R45). -/
  parkTicks : Nat
  /-- The frame at whose tick a matching WAKE wakes the node (R47). -/
  wake : Option FrameNo
deriving DecidableEq, Repr

/-- One channel of the Setpoint Pipeline (R75). -/
structure Chan where
  mode : Mode
  x : Int
  v : Int
  u : Nat
  tRaw : Option Int
  t : Option Int
  held : Int
  gPrev : Nat
  gCur : Nat
  gPend : Option Nat
  halt : Bool
  clamped : Bool
  dev : Nat
  uRep : Nat
  /-- The settled report of the last computation (R69). -/
  settled : Bool
  /-- The at-rest report of the last computation (R69). -/
  atRest : Bool
  /-- The last computation was that of HALT and left V at 0, so that the next is made in HOLD (R57; log entry 9). -/
  rested : Bool
  /-- The channel record that the next STATE carries: the channel as it stood after the last servo tick (R42, R44). -/
  shown : ChanReport
deriving DecidableEq, Repr

/-- The STATUS an encoder reports (R76). -/
inductive ReadStatus where
  | ok | warn | fail
deriving DecidableEq, Repr

/-- One setpoint handed to the Sensor Poller, with the mode of its tick (R76). -/
structure SetpointRecord where
  x : Int
  mode : Mode
deriving DecidableEq, Repr

/-- One reading record (R76); `status` none is NONE.  `hist` holds the setpoints of the two most recent computed ticks,
the latest first. -/
structure Reading where
  position : Int
  status : Option ReadStatus
  valid : Bool
  stale : Nat
  ferr : Nat
  received : Bool
  hist : List SetpointRecord
deriving DecidableEq, Repr

/-- A round in progress (R78): the channel whose POLL is outstanding, and whether the round was deferred (R84). -/
structure Round where
  channel : Nat
  late : Bool
deriving DecidableEq, Repr

/-- A command whose completion is pending: its serial and the station it came from (R191). -/
structure Slot where
  serial : Byte
  station : Nat
deriving DecidableEq, Repr

/-- The explicit-read slot (R83). -/
structure ReadSlot where
  slot : Slot
  channel : Nat
  item : Nat
deriving DecidableEq, Repr

/-- Sensor Poller (R76, R83). -/
structure Spl where
  readings : Quad Reading
  round : Option Round
  read : Option ReadSlot
  /-- The read holds the line: its request is outstanding (R84). -/
  readActive : Bool
  /-- A round is deferred (R84). -/
  deferred : Bool
deriving DecidableEq, Repr

/-- The filtered state of one limit line (R90). -/
structure LimitLine where
  active : Bool
  run : Nat
deriving DecidableEq, Repr

/-- One channel of the Drive and Line Unit (R92). -/
structure DriveLine where
  enable : Bool
  /-- The brake output is released; otherwise it is set. -/
  released : Bool
  faultOff : Bool
  fault : Bool
  low : LimitLine
  high : LimitLine
  /-- The one further record with ENABLE off is still to be sent (R73). -/
  offDue : Bool
  /-- Every sample of the low limit line since the node left LOADING has been active: it was pressed before (R91). -/
  lowHeld : Bool
  /-- The same for the high limit line. -/
  highHeld : Bool
deriving DecidableEq, Repr

/-- One record of the drive port (R73). -/
structure DriveRecord where
  channel : Nat
  x : Int
  v : Int
  enable : Bool
deriving DecidableEq, Repr

/-- Drive and Line Unit (R92); `port` holds the records of the last computed tick. -/
structure Dlu where
  lines : Quad DriveLine
  port : List DriveRecord
deriving DecidableEq, Repr

/-- The phase the brake timer times (R107, R110). -/
inductive BrakePhase where
  | enable | release | set
deriving DecidableEq, Repr

/-- The brake timer (R107, R110). -/
structure BrakeTimer where
  phase : BrakePhase
  frames : Nat
deriving DecidableEq, Repr

/-- Safety Supervisor (R115); `timer` none is stopped. -/
structure Ss where
  safety : Safety
  claims : List Claim
  overflow : Bool
  overflowQuiet : Nat
  timer : Option BrakeTimer
  armPending : Option Slot
  disarmPending : Option Slot
deriving DecidableEq, Repr

/-- One entry of the pace list (R122); `factor` none is NONE. -/
structure PaceEntry where
  origin : Nat
  factor : Option Nat
  pend : List (FrameNo × Nat)
deriving DecidableEq, Repr

/-- Pace Unit (R128). -/
structure Pu where
  entries : List PaceEntry
  floor : Nat
  floorPend : List (FrameNo × Nat)
  floorQuiet : Nat
  ease : Bool
  easePend : List (FrameNo × Bool)
  target : Nat
  applied : Nat
deriving DecidableEq, Repr

/-- Interlock Unit (R133): the active flag of each configured entry and the effective range of each channel. -/
structure Iu where
  active : List Bool
  ranges : Quad (Int × Int)
deriving DecidableEq, Repr

/-- The filter of one zone line or E-stop input (R116, R120). -/
structure LineFilter where
  active : Bool
  run : Nat
  seen : Bool
  clear : Nat
deriving DecidableEq, Repr

/-- Zone Unit (R121). -/
structure Zu where
  lines : List LineFilter
  estop : List LineFilter
  ownFactor : Nat
deriving DecidableEq, Repr

/-- The sample store: the records that differ from the blank one, with their positions (R134). -/
abbrev Memory := List (Nat × Sample)

/-- Take Store (R152). -/
structure Ts where
  store : Memory
  dir : List (Option Take)
  width : Option Nat
deriving DecidableEq, Repr

/-- The live state of one channel (R171). -/
structure LiveChan where
  age : Nat
  pend : List (FrameNo × Nat)
deriving DecidableEq, Repr

/-- A take and the frame in which a START or an ABORT for it acts (R160, R167). -/
structure Action where
  take : Nat
  frame : FrameNo
deriving DecidableEq, Repr

/-- Take Player and Recorder (R170, R188). -/
structure Tpr where
  activity : Activity
  take : Option Nat
  rate : Option Nat
  override : ChanSet
  cueSet : ChanSet
  base : Nat
  cursor : Nat
  markIdx : Option Nat
  cueCompletion : Option Slot
  startPend : Option Action
  abortPend : Option Action
  liveSet : ChanSet
  live : Quad LiveChan
  markCur : Nat
  markPrev : Nat
  markPend : List (FrameNo × Nat)
  punch : Bool
  punchMask : ChanSet
  punchIdx : Option Nat
deriving DecidableEq, Repr

/-- The read state of the Configuration Loader (R197). -/
inductive ReadState where
  | idle | reading | done
deriving DecidableEq, Repr

/-- Configuration Loader (R203). -/
structure Cl where
  read : ReadState
  fault : Nat
  item : Nat
  spineId : Bool
  restartPending : Bool
  /-- Frame ticks since the RESTART was accepted (R202). -/
  restartTicks : Nat
deriving DecidableEq, Repr

/-- The input lines as last seen: the RESET line and the levels of the last sampling. -/
structure Pins where
  resetLine : Bool
  lines : LineLevels
deriving DecidableEq, Repr

/-- The state of the node.  `attention` is the Command Unit's attention set, bit n-1 standing for code n (R195, section
13.2); `cfg` holds the values of the configuration image; `pending` is the queue of commands that wait. -/
structure State where
  lif : Lif
  ft : Ft
  ru : Ru
  chans : Quad Chan
  spl : Spl
  dlu : Dlu
  ss : Ss
  pu : Pu
  iu : Iu
  zu : Zu
  ts : Ts
  tpr : Tpr
  attention : BitVec 16
  cl : Cl
  cfg : NodeCfg
  pins : Pins
  pending : List Instr
deriving DecidableEq, Repr

/-! ### The values at RESET -/

/-- R19, RESET column; the line is not yet known to be idle. -/
def Lif.reset : Lif :=
  { urgent := [], ordinary := [], orphan := false, failRun := 0, txFailures := 0, badMessages := 0, txDrops := 0,
    quiet := 0, dupQuiet := 32, linkRelease := true, parkFilter := false, lineIdle := false, rxWait := false }

/-- R32, RESET column. -/
def Ft.reset : Ft :=
  { running := false, frame0 := false, frame := 0, tick := 0, guard := false, acc := 0, watch := 0,
    refPresent := false }

/-- R49: UNKNOWN, AGE 0, no pending value. -/
def WatchSlot.reset : WatchSlot := { value := none, age := 0, pend := [] }

/-- R49, RESET column. -/
def Ru.reset : Ru :=
  { roster := [], learning := 0, slots := List.replicate Config.watchSlots WatchSlot.reset, parkPending := false,
    parkTicks := 0, wake := none }

/-- The record of a channel without a servo tick, a valid reading or a drive (R42, R44). -/
def ChanReport.reset : ChanReport :=
  { uRep := 0, moving := false, clamped := false, halted := false, stale := true, driveOff := true }

/-- R75, RESET column. -/
def Chan.reset : Chan :=
  { mode := .off, x := 0, v := 0, u := 0, tRaw := none, t := none, held := 0, gPrev := 0, gCur := 0, gPend := none,
    halt := false, clamped := false, dev := 0, uRep := 0, settled := false, atRest := true, rested := false,
    shown := ChanReport.reset }

/-- R76, RESET column. -/
def Reading.reset : Reading :=
  { position := 0, status := none, valid := false, stale := 0, ferr := 0, received := false, hist := [] }

/-- R76 and R92: no reading, no round, the explicit-read slot empty. -/
def Spl.reset : Spl :=
  { readings := Quad.fill Reading.reset, round := none, read := none, readActive := false, deferred := false }

/-- R92, RESET column. -/
def DriveLine.reset : DriveLine :=
  { enable := false, released := false, faultOff := false, fault := false, low := { active := false, run := 0 },
    high := { active := false, run := 0 }, offDue := false, lowHeld := true, highHeld := true }

/-- R92, RESET column. -/
def Dlu.reset : Dlu := { lines := Quad.fill DriveLine.reset, port := [] }

/-- R115, RESET column. -/
def Ss.reset : Ss :=
  { safety := .loading, claims := [], overflow := false, overflowQuiet := 0, timer := none, armPending := none,
    disarmPending := none }

/-- R128, RESET column. -/
def Pu.reset : Pu :=
  { entries := [], floor := 16, floorPend := [], floorQuiet := 0, ease := false, easePend := [], target := 16,
    applied := 16 }

/-- R133, RESET column: no entry and no range. -/
def Iu.reset : Iu := { active := [], ranges := Quad.fill (0, 0) }

/-- R121: clear, run count 0, frame-seen flag clear, clear count 0. -/
def LineFilter.reset : LineFilter := { active := false, run := 0, seen := false, clear := 0 }

/-- R121, RESET column. -/
def Zu.reset : Zu :=
  { lines := List.replicate Config.zoneLines LineFilter.reset,
    estop := List.replicate Config.estopInputs LineFilter.reset, ownFactor := 16 }

/-- R150: every record blank, the directory empty, the store width NONE. -/
def Ts.reset : Ts := { store := [], dir := List.replicate Config.dirSize none, width := none }

/-- R188: no pending goal, LIVE AGE 0. -/
def LiveChan.reset : LiveChan := { age := 0, pend := [] }

/-- R170 and R188, RESET column. -/
def Tpr.reset : Tpr :=
  { activity := .idle, take := none, rate := none, override := 0, cueSet := 0, base := 0, cursor := 0, markIdx := none,
    cueCompletion := none, startPend := none, abortPend := none, liveSet := 0, live := Quad.fill LiveChan.reset,
    markCur := 0, markPrev := 0, markPend := [], punch := false, punchMask := 0, punchIdx := none }

/-- R203, RESET column, with the RESET line still asserted. -/
def Cl.reset : Cl :=
  { read := .idle, fault := 0, item := 0, spineId := false, restartPending := false, restartTicks := 0 }

/-- The RESET line asserted; no line has been sampled. -/
def Pins.reset : Pins := { resetLine := true, lines := { zone := 0, estop := 0, fault := 0, low := 0, high := 0 } }

/-- The node under RESET (R197): every block at the RESET column of its own table, and no command waiting. -/
def State.reset : State :=
  { lif := Lif.reset, ft := Ft.reset, ru := Ru.reset, chans := Quad.fill Chan.reset, spl := Spl.reset,
    dlu := Dlu.reset, ss := Ss.reset, pu := Pu.reset, iu := Iu.reset, zu := Zu.reset, ts := Ts.reset,
    tpr := Tpr.reset, attention := 0, cl := Cl.reset, cfg := NodeCfg.none, pins := Pins.reset, pending := [] }

end Sys2Proof.Machine
end

