-- ==== Sys2Proof/Machine/Flags.lean ====
section
/-! DEFINITION. The codes of causes, attention codes, statuses, states and kinds (chapters 6, 11 and 13), and the
attention set. -/

namespace Sys2Proof.Machine

open Sys2Proof

/-- The code of a cause (R94). -/
def Cause.code : Cause → Nat
  | .estop => 1 | .zone => 2 | .limit => 3 | .follow => 4 | .encoder => 5 | .drive => 6 | .peer => 7 | .underrun => 8
  | .deviation => 9 | .cross => 10 | .duplicate => 11 | .link => 12 | .operator => 13

/-- The cause with a code, none outside 1 … 13 (R97). -/
def Cause.ofCode (n : Nat) : Option Cause :=
  match n with
  | 1 => some .estop | 2 => some .zone | 3 => some .limit | 4 => some .follow | 5 => some .encoder | 6 => some .drive
  | 7 => some .peer | 8 => some .underrun | 9 => some .deviation | 10 => some .cross | 11 => some .duplicate
  | 12 => some .link | 13 => some .operator | _ => none

/-- The causes in increasing order of code. -/
def Cause.all : List Cause :=
  [.estop, .zone, .limit, .follow, .encoder, .drive, .peer, .underrun, .deviation, .cross, .duplicate, .link, .operator]

/-- An own entry of this cause is latched (R94). -/
def Cause.isLatched : Cause → Bool
  | .estop | .zone | .operator => false
  | _ => true

/-- The code of an attention code, 1 the highest priority (R195). -/
def Attention.code : Attention → Nat
  | .claimOverflow => 1 | .refLost => 2 | .staleReading => 3 | .liveStale => 4 | .tickSlip => 5 | .txDrop => 6
  | .linkQuiet => 7 | .rosterFull => 8 | .sampleRange => 9 | .takeFull => 10 | .sensorTimeout => 11

/-- The attention set with a code made present (R195). -/
def attentionRaise (set : BitVec 16) (a : Attention) : BitVec 16 := set ||| (1#16 <<< (a.code - 1))

/-- Whether a code is present. -/
def attentionHas (set : BitVec 16) (a : Attention) : Bool := set.getLsbD (a.code - 1)

/-- The ATTENTION field of STATE: the lowest-numbered code present, 0 when the set is empty (R195). -/
def attentionTop (set : BitVec 16) : Nat :=
  ((List.range 11).find? fun i => set.getLsbD i).elim 0 (· + 1)

/-- The code of a status (section 11.3). -/
def Status.code : Status → Nat
  | .done => 0 | .accepted => 1 | .refused => 2 | .busy => 3 | .badArg => 4 | .notControl => 5 | .noTake => 6
  | .exists_ => 7 | .noRoom => 8 | .dirFull => 9 | .inUse => 10 | .unreachable => 11 | .stopped => 12 | .cancelled => 13
  | .missing => 14 | .learning => 15 | .claims => 16 | .sensor => 17 | .gap => 18 | .full => 19 | .timeout => 20
  | .moving => 21

/-- The code of a safety state in STATE (section 13.2). -/
def Safety.code : Safety → Nat
  | .loading => 0 | .faulted => 1 | .disarmed => 2 | .arming => 3 | .armed => 4 | .stopping => 5 | .securing => 6
  | .parked => 7

/-- The code of a published safety state (section 13.2). -/
def Published.code : Published → Nat
  | .node s => s.code
  | .control => 8

/-- The published safety state with a code, none above 8 (R205). -/
def Published.ofCode (n : Nat) : Option Published :=
  match n with
  | 0 => some (.node .loading) | 1 => some (.node .faulted) | 2 => some (.node .disarmed) | 3 => some (.node .arming)
  | 4 => some (.node .armed) | 5 => some (.node .stopping) | 6 => some (.node .securing) | 7 => some (.node .parked)
  | 8 => some .control | _ => none

/-- The code of an activity in STATE (section 13.2). -/
def Activity.code : Activity → Nat
  | .idle => 0 | .live => 1 | .recording => 2 | .cueing => 3 | .cued => 4 | .playing => 5 | .easing => 6

/-- The activity with a code, none above 6 (R205). -/
def Activity.ofCode (n : Nat) : Option Activity :=
  match n with
  | 0 => some .idle | 1 => some .live | 2 => some .recording | 3 => some .cueing | 4 => some .cued | 5 => some .playing
  | 6 => some .easing | _ => none

/-- The five safety states in which the claims list, the pace list and the roster are kept (R93, R122, R34). -/
def Safety.isOpen : Safety → Bool
  | .disarmed | .arming | .armed | .stopping | .securing => true
  | _ => false

/-- The safety states in which a claim brings the node to STOPPING (R108). -/
def Safety.canStop : Safety → Bool
  | .arming | .armed => true
  | _ => false

/-- The safety states in which drive-enable outputs may be on (R104). -/
def Safety.driven : Safety → Bool
  | .arming | .armed | .stopping | .securing => true
  | _ => false

/-- The activities in which a take is being cued or played (R154, R169). -/
def Activity.hasTake : Activity → Bool
  | .cueing | .cued | .playing | .easing => true
  | _ => false

/-- The activities in which the cursor advances (R162). -/
def Activity.plays : Activity → Bool
  | .playing | .easing => true
  | _ => false

end Sys2Proof.Machine
end

