-- ==== Sys2Proof/Machine/Operands.lean ====
section
/-! DEFINITION. What the operands of a message say: the length its kind asks for (R205), the channels a mask names
(R204), a value of two's complement, the fields of a STATE. -/

namespace Sys2Proof.Machine

open Sys2Proof

/-- The channel set an octet names; bits 7 … 4 are ignored on receipt (R204). -/
def chanSetOf (b : Byte) : ChanSet := b.setWidth 4

/-- A set names channels below `n` only. -/
def chanSetBelow (m : ChanSet) (n : Nat) : Bool :=
  (List.range Config.maxChans).all fun c => !m.getLsbD c || decide (c < n)

/-- The channels of a set, in channel order. -/
def chanList (m : ChanSet) : List Nat := (List.range Config.maxChans).filter fun c => m.getLsbD c

/-- The number of bits of a MASK. -/
def maskCount (m : ChanSet) : Nat := (chanList m).length

/-- The value a LIVE carries for channel `c`: values stand in channel order, one for each bit of MASK (R171). -/
def liveValue (m : ChanSet) (values : List U16) (c : Nat) : Nat :=
  (values.getD ((chanList m).idxOf c) 0).toNat

/-- The lengths of chapter 13's payload table, by kind. -/
def stopLength : Nat := 2
def clearLength : Nat := 1
def paceLength : Nat := 1
def abortLength : Nat := 1
def startLength : Nat := 2
def rollLength (count : BitVec 5) : Nat := 2 + 2 * count.toNat
def liveLength (m : ChanSet) : Nat := 2 + 2 * maskCount m
def stateLength (count : Byte) : Nat := 13 + 3 * count.toNat
def samplesLength (nChans : Nat) (count : Byte) : Nat := 6 + count.toNat * (2 * nChans + 1)
def wakeLength : Nat := 24

/-- The largest COUNT of a ROLL (R99, R205). -/
def maxRollCount : Nat := 20

/-- The largest COUNT of a SAMPLES (R141). -/
def maxSamplesCount (nChans : Nat) : Nat := 42 / (2 * nChans + 1)

/-- The argument octets of a command of the catalogue, none for a code outside it (sections 11.3 and 13.2). -/
def argOctets (code : Nat) : Option Nat :=
  match code with
  | 1 | 2 | 3 | 4 | 9 | 11 | 15 => some 0
  | 5 => some 10
  | 6 | 7 | 10 => some 1
  | 8 | 14 => some 3
  | 12 | 13 => some 2
  | _ => none

/-- The codes of the catalogue (section 11.3). -/
def codeArm : Nat := 1
def codeDisarm : Nat := 2
def codeRelease : Nat := 3
def codePark : Nat := 4
def codeTakeOpen : Nat := 5
def codeTakeDelete : Nat := 6
def codeTakeRewind : Nat := 7
def codeCue : Nat := 8
def codeCueCancel : Nat := 9
def codeRecord : Nat := 10
def codeRecordEnd : Nat := 11
def codePunch : Nat := 12
def codeSensorRead : Nat := 13
def codeStatusQuery : Nat := 14
def codeRestart : Nat := 15
/-- The CODE of the error replies of sample loading (section 13.2). -/
def codeLoading : Nat := 32

/-- The READING-STALE flag of a received channel record (section 13.2). -/
def recordStale (flags : Byte) : Bool := flags.getLsbD 3

/-- The CLEAR argument of STATUS-QUERY (section 13.2: bit 0). -/
def clearFlag (b : Byte) : Bool := b.getLsbD 0

end Sys2Proof.Machine
end

