-- ==== Sys2Proof/Machine/Ops.lean ====
section
/-! DEFINITION. The operations every block uses: raising an attention code, placing a message in the transmit queues,
replying, dating, and the values that wait for a frame. -/

namespace Sys2Proof.Machine

open Sys2Proof

/-! ### Attention, stations, channels -/

/-- An attention code made present (R195). -/
def raise (a : Attention) (s : State) : State := { s with attention := attentionRaise s.attention a }

/-- The channels the node has, in channel order. -/
def State.channels (s : State) : List Nat := List.range s.cfg.nChans

/-- The set of all the node's channels. -/
def State.allChans (s : State) : ChanSet := BitVec.ofNat 4 (2 ^ s.cfg.nChans - 1)

/-- A station is one of the configured control stations. -/
def State.isControl (s : State) (station : Nat) : Bool := s.cfg.controls.contains station

/-- The node is silent: it sends nothing, and a message offered to the LIF is discarded (R10). -/
def State.silent (s : State) : Bool :=
  match s.ss.safety with
  | .loading | .parked => true
  | .faulted => !s.cl.spineId
  | _ => false

/-! ### Frames and values that wait for one -/

/-- The date of an arrival at this instant (R29). -/
def State.dateNow (s : State) : FrameNo := if s.ft.guard then s.ft.frame + 1 else s.ft.frame

/-- A value placed for a date; it replaces a value of the same date. -/
def setPend {α : Type} (l : List (FrameNo × α)) (d : FrameNo) (v : α) : List (FrameNo × α) :=
  if l.any (fun e => e.1 == d) then l.map (fun e => if e.1 == d then (d, v) else e) else l ++ [(d, v)]

/-- The value that waits for a date. -/
def getPend {α : Type} (l : List (FrameNo × α)) (d : FrameNo) : Option α :=
  (l.find? fun e => e.1 == d).map (·.2)

/-- The waiting values without that of a date. -/
def dropPend {α : Type} (l : List (FrameNo × α)) (d : FrameNo) : List (FrameNo × α) := l.filter fun e => e.1 != d

/-! ### The transmit queues -/

/-- What makes two queued messages the same statement: the keys of R11 and the latest-only kinds of R12. -/
inductive Key where
  | cause (c : Cause)
  | pace
  | abort (take : Nat)
  | state
  | roll
deriving DecidableEq, Repr

/-- The key of a message; none for a message that always takes an entry of its own. -/
def Body.key : Body → Option Key
  | .stop c _ => some (.cause c)
  | .clear c => some (.cause c)
  | .pace _ => some .pace
  | .abort t => some (.abort t)
  | .state _ => some .state
  | .roll _ _ => some .roll
  | .reply _ _ _ _ | .hold _ _ | .resume _ _ | .mark _ _ _ => none

/-- The CLASS of a message of the node (section 1.3). -/
def Body.cls : Body → Nat
  | .stop _ _ | .clear _ => 0
  | .pace _ | .abort _ => 1
  | .state _ => 3
  | .reply _ _ _ _ | .hold _ _ | .resume _ _ => 4
  | .mark _ _ _ => 5
  | .roll _ _ => 6

/-- The messages the LIF takes in FAULTED: STATE and REPLY (R10). -/
def Body.sentFaulted : Body → Bool
  | .state _ | .reply _ _ _ _ => true
  | _ => false

/-- An entry has the key of a message. -/
def QEntry.hasKey (e : QEntry) (k : Key) : Bool := e.msg.body.key == some k

/-- An entry takes the newer message of its key: in its place, or as its successor while its attempt is in progress
(R11, R12, R13). -/
def QEntry.renew (e : QEntry) (m : Msg) : QEntry := if e.active then { e with succ := some m } else { e with msg := m }

/-- A queue with a message placed in it (R11, R12, R13), none when every entry is in use. -/
def enqueue (q : List QEntry) (m : Msg) : Option (List QEntry) :=
  match m.body.key with
  | some k =>
    if q.any (·.hasKey k) then some (q.map fun e => if e.hasKey k then e.renew m else e)
    else if q.length < Config.queueSize then some (q ++ [{ msg := m, succ := none, active := false }])
    else none
  | none =>
    if q.length < Config.queueSize then some (q ++ [{ msg := m, succ := none, active := false }]) else none

/-- A message dropped at a full queue (R11, R12). -/
def txDrop (s : State) : State := raise .txDrop { s with lif.txDrops := satSucc 65535 s.lif.txDrops }

/-- A message offered to the LIF: classes 0 and 1 go to the urgent queue, the others to the ordinary queue (R10). -/
def place (m : Msg) (s : State) : State :=
  if s.silent then s
  else if s.ss.safety = .faulted ∧ m.body.sentFaulted = false then s
  else if m.body.cls ≤ 1 then
    match enqueue s.lif.urgent m with
    | some q => { s with lif.urgent := q }
    | none => txDrop s
  else
    match enqueue s.lif.ordinary m with
    | some q => { s with lif.ordinary := q }
    | none => txDrop s

/-- A message to all stations. -/
def broadcast (b : Body) (s : State) : State := place { dest := 0, body := b } s

/-- A REPLY to the station of a command (R190). -/
def reply (who : Slot) (code : Nat) (status : Status) (data : ReplyData) (s : State) : State :=
  place { dest := who.station, body := .reply who.serial code status data } s

/-- The entry whose attempt is in progress, in either queue. -/
def Lif.inAttempt (l : Lif) : Option QEntry := (l.urgent ++ l.ordinary).find? (·.active)

/-- An attempt is in progress (R13, R18). -/
def Lif.busy (l : Lif) : Bool := l.orphan || l.inAttempt.isSome

/-! ### The node's own ROLL (R101) -/

/-- The node's own entries, in increasing cause order since the list is kept so (R93). -/
def State.ownClaims (s : State) : List Claim := s.ss.claims.filter fun c => c.origin == s.cfg.station

/-- The ROLL of the own claims and the own pace factor as they stand. -/
def State.rollBody (s : State) : Body := .roll s.zu.ownFactor (s.ownClaims.map fun c => (c.cause, c.detail))

/-- A composed ROLL stands in the ordinary queue. -/
def Lif.rollQueued (l : Lif) : Bool := l.ordinary.any (·.hasKey .roll)

/-- The ROLL composed afresh while one stands in the queue. -/
def recomposeRoll (s : State) : State := if s.lif.rollQueued then broadcast s.rollBody s else s

end Sys2Proof.Machine
end

