-- ==== Sys2Proof/Machine/Channels.lean ====
section
/-! DEFINITION. Mode requests, the seeding at ARM and the passage to OFF of one channel (R54, R55), and the enable and
brake outputs of the Drive and Line Unit (R88). -/

namespace Sys2Proof.Machine

open Sys2Proof

/-- One channel of the Setpoint Pipeline changed. -/
def modChan (i : Nat) (f : Chan → Chan) (s : State) : State := { s with chans := s.chans.set i (f (s.chans.get i)) }

/-- One reading record changed. -/
def modReading (i : Nat) (f : Reading → Reading) (s : State) : State :=
  { s with spl.readings := s.spl.readings.set i (f (s.spl.readings.get i)) }

/-- One channel of the Drive and Line Unit changed. -/
def modLine (i : Nat) (f : DriveLine → DriveLine) (s : State) : State :=
  { s with dlu.lines := s.dlu.lines.set i (f (s.dlu.lines.get i)) }

/-- The state of a channel on entry to a mode (the second table of R54); a HALT entered is still to be computed (R57, R68). -/
def Chan.enter (table : List (Nat × Int)) (m : Mode) (c : Chan) : Chan :=
  { c with
    mode := m
    held := if m = .hold then c.x else c.held
    halt := if m = .halt then true else if m = .hold ∧ c.mode = .halt then c.halt else false
    gPrev := if m = .live then inverse table c.x else c.gPrev
    gCur := if m = .live then inverse table c.x else c.gCur
    gPend := if c.mode = .live ∧ m ≠ .live then none else c.gPend
    dev := if m = .play then c.dev else 0
    rested := false }

/-- The mode a request leads to: HOLD asked for while V is not 0 becomes HALT (R54). -/
def Chan.modeFor (c : Chan) (m : Mode) : Mode := if m = .hold ∧ c.v ≠ 0 then .halt else m

/-- A request for a mode: discarded while the drive-enable output is off, and for the mode the channel is already in
(R54). -/
def requestMode (m : Mode) (i : Nat) (s : State) : State :=
  let c := s.chans.get i
  if (s.dlu.lines.get i).enable = false then s
  else if c.mode = m ∨ c.mode = c.modeFor m then s
  else modChan i (Chan.enter (s.cfg.chan.get i).table (c.modeFor m)) s

/-- A request of the Take Player, which the SP discards in STOPPING and SECURING (R109). -/
def requestByPlayer (m : Mode) (i : Nat) (s : State) : State :=
  match s.ss.safety with
  | .stopping | .securing => s
  | _ => requestMode m i s

/-- The request made for every channel of a list. -/
def requestEach (m : Mode) (is : List Nat) (s : State) : State := is.foldl (fun s i => requestByPlayer m i s) s

/-- Entry to OFF of a channel not already OFF (R54, R55, R75), with the FERR COUNT of R76. -/
def enterOff (i : Nat) (s : State) : State :=
  if (s.chans.get i).mode = .off then s
  else
    modReading i (fun r => { r with ferr := 0 }) <|
      modChan i (fun c => { c with mode := .off, v := 0, tRaw := none, t := none, gPend := none, halt := false,
                                   clamped := false, dev := 0, rested := false }) s

/-- A drive-enable output turned off: the brake is set in the same event, the channel goes to OFF and one record with
ENABLE off becomes due (R73, R88). -/
def driveOff (i : Nat) (s : State) : State :=
  enterOff i (modLine i (fun l => { l with enable := false, released := false, offDue := l.offDue || l.enable }) s)

/-- Every drive-enable output turned off. -/
def allDrivesOff (s : State) : State := s.channels.foldl (fun s i => driveOff i s) s

/-- A request to release a brake: discarded unless the channel has one and its drive is enabled (R88). -/
def releaseBrake (i : Nat) (s : State) : State :=
  modLine i (fun l => { l with released := l.released || ((s.cfg.chan.get i).brake && l.enable) }) s

/-- Every brake released that can be. -/
def releaseBrakes (s : State) : State := s.channels.foldl (fun s i => releaseBrake i s) s

/-- Every brake set. -/
def setBrakes (s : State) : State := s.channels.foldl (fun s i => modLine i (fun l => { l with released := false }) s) s

/-- The seeding of a channel whose drive is enabled at ARM (R55, R75), with the FERR COUNT and the history of R76. -/
def seed (i : Nat) (s : State) : State :=
  let r := (s.spl.readings.get i).position
  modReading i (fun q => { q with ferr := 0, hist := [] }) <|
    modChan i (fun c => { c with mode := .hold, x := r, v := 0, u := inverse (s.cfg.chan.get i).table r, tRaw := none,
                                 t := none, held := r, gPend := none, halt := false, clamped := false, dev := 0,
                                 rested := false }) s

/-- A request to enable a channel, discarded while its fault-off flag is set (R88), with the seeding that goes with it
(R106). -/
def enableAndSeed (i : Nat) (s : State) : State :=
  if (s.dlu.lines.get i).faultOff then s else seed i (modLine i (fun l => { l with enable := true }) s)

/-- Every channel enabled and seeded (R106). -/
def enableAll (s : State) : State := s.channels.foldl (fun s i => enableAndSeed i s) s

/-- The Safety Supervisor's request for STOP on every channel not in OFF (R58, R108, R112). -/
def stopAll (s : State) : State :=
  s.channels.foldl (fun s i => if (s.chans.get i).mode = .off then s else requestMode .stop i s) s

/-- A channel is at rest: its last report says so, or it stands in OFF (R69). -/
def Chan.resting (c : Chan) : Bool := c.atRest || c.mode == .off

/-- Every channel is at rest. -/
def State.allAtRest (s : State) : Bool := s.channels.all fun i => (s.chans.get i).resting

end Sys2Proof.Machine
end

