-- ==== Sys2Proof/Machine/Memory.lean ====
section
/-! DEFINITION. The sample store as a list of positions and records in one canonical form (R134, R150). -/

namespace Sys2Proof.Machine

open Sys2Proof

/-- The record of channel values 0 and MARK 0: what every position holds at RESET and after allocation (R134, R150). -/
def blank : Sample := { v0 := 0, v1 := 0, v2 := 0, v3 := 0, mark := 0 }

namespace Memory

/-- The record at a position; an unlisted position holds the blank record. -/
def read : Memory → Nat → Sample
  | [], _ => blank
  | (q, w) :: rest, p => if p = q then w else read rest p

/-- The store with `v` at position `p`, in canonical form. -/
def put : Memory → Nat → Sample → Memory
  | [], p, v => if v = blank then [] else [(p, v)]
  | (q, w) :: rest, p, v =>
    if p < q then (if v = blank then (q, w) :: rest else (p, v) :: (q, w) :: rest)
    else if p = q then (if v = blank then rest else (p, v) :: rest)
    else (q, w) :: put rest p v

/-- One record written.  The store has the positions 0 to 8,191 and no other (R134): a write elsewhere changes nothing. -/
def write (m : Memory) (p : Nat) (v : Sample) : Memory := if p < Config.storeSize then put m p v else m

/-- The `size` records from `base` set to the blank record (R134: the clearing of an allocated extent). -/
def clearRange (m : Memory) (base size : Nat) : Memory := m.filter fun e => e.1 < base || base + size ≤ e.1

/-- The canonical form: positions strictly rising and inside the store, and no listed record blank. -/
def wf : Memory → Bool
  | [] => true
  | (p, v) :: rest => decide (p < Config.storeSize) && v != blank && rest.all (fun e => decide (p < e.1)) && wf rest

end Memory

end Sys2Proof.Machine

namespace Sys2Proof.Sample

/-- The value of a channel in a record. -/
def value (r : Sample) (c : Nat) : U16 :=
  match c with
  | 0 => r.v0
  | 1 => r.v1
  | 2 => r.v2
  | _ => r.v3

/-- The record with the value of channel `c` replaced. -/
def withValue (r : Sample) (c : Nat) (v : U16) : Sample :=
  match c with
  | 0 => { r with v0 := v }
  | 1 => { r with v1 := v }
  | 2 => { r with v2 := v }
  | 3 => { r with v3 := v }
  | _ => r

/-- The record with the values of the channels from `n` on set to 0: a node of `n` channels stores `n` values (R134). -/
def truncate (r : Sample) (n : Nat) : Sample :=
  (List.range Config.maxChans).foldl (fun q c => if n ≤ c then withValue q c 0 else q) r

end Sys2Proof.Sample
end

