-- ==== Sys2Proof/Machine/Takes.lean ====
section
/-! DEFINITION. The operations of the Take Store: finding and changing a take, reading and storing its samples, the
range latch, the water marks, allocation (chapter 8). -/

namespace Sys2Proof.Machine

open Sys2Proof

/-- The take of an ID, if an entry in use has it. -/
def State.findTake (s : State) (id : Nat) : Option Take :=
  s.ts.dir.findSome? fun e => e.bind fun t => if t.id = id then some t else none

/-- The take of an ID changed. -/
def modTake (id : Nat) (f : Take → Take) (s : State) : State :=
  { s with ts.dir := s.ts.dir.map fun e => e.map fun t => if t.id = id then f t else t }

/-- The store position of a sample index (R134, R146). -/
def Take.position (t : Take) (n : Nat) : Nat :=
  match t.kind with
  | .resident => t.base + n
  | .stream => t.base + n % t.size

/-- The record of a sample index. -/
def State.sampleAt (s : State) (t : Take) (n : Nat) : Sample := s.ts.store.read (t.position n)

/-- A stream take holds an index (R146). -/
def Take.holds (t : Take) (n : Nat) : Bool := decide (t.retired ≤ n) && decide (n < t.fill)

/-- The occupancy of a ring (R146). -/
def Take.occupancy (t : Take) : Nat := t.fill - t.retired

/-- The cap of the cursor: the last index × 4096, none for a stream take still being received (R163). -/
def Take.cap (t : Take) : Option Nat :=
  match t.kind with
  | .resident => some ((t.length - 1) * 4096)
  | .stream => if t.endReceived then some ((t.fill - 1) * 4096) else none

/-- A take can be cued (R155). -/
def Take.canCue (t : Take) : Bool :=
  match t.kind with
  | .resident => t.state == .ready && decide (1 ≤ t.length)
  | .stream => t.state == .loading && t.retired == 0 && decide (1 ≤ t.fill)

/-- A stream take has its head start, or the whole take (R157). -/
def Take.cueFilled (t : Take) : Bool :=
  match t.kind with
  | .resident => true
  | .stream => decide (t.high ≤ t.occupancy) || t.endReceived

/-- A take is in use by the Take Player (R136). -/
def State.inUse (s : State) (id : Nat) : Bool :=
  s.tpr.take == some id && (s.tpr.activity.hasTake || s.tpr.activity == .recording)

/-- A track value outside the x range of a calibration table (R145). -/
def outsideTable (table : List (Nat × Int)) (v : Nat) : Bool :=
  decide (v < (table.head?.elim 0 (·.1))) || decide ((table.getLast?.elim 0 (·.1)) < v)

/-- A record has a tested value out of range (R145). -/
def State.outOfRange (s : State) (tested : ChanSet) (r : Sample) : Bool :=
  (chanList tested).any fun c => outsideTable (s.cfg.chan.get c).table (r.value c).toNat

/-- The range latch of a take set to an index, if it is empty (R145). -/
def latchRange (id n : Nat) (s : State) : State :=
  match s.findTake id with
  | some t => if t.latch = none then raise .sampleRange (modTake id (fun t => { t with latch := some n }) s) else s
  | none => s

/-- A record stored at a sample index of a take; the values of `written` that are in the take's CHANNEL SET are tested
(R143, R144, R145). -/
def storeRecord (t : Take) (n : Nat) (written : ChanSet) (r : Sample) (s : State) : State :=
  let s' := { s with ts.store := s.ts.store.write (t.position n) r }
  if s.outOfRange (written &&& t.chanSet) r then latchRange t.id n s' else s'

/-- The water-mark test of a stream take in LOADING (R148). -/
def waterMark (id : Nat) (s : State) : State :=
  match s.findTake id with
  | some t =>
    if t.kind = .stream ∧ t.state = .loading then
      if t.held = false ∧ t.high ≤ t.occupancy then
        place { dest := t.loader, body := .hold id t.fill } (modTake id (fun t => { t with held := true }) s)
      else if t.held = true ∧ t.occupancy ≤ t.low then
        place { dest := t.loader, body := .resume id t.fill } (modTake id (fun t => { t with held := false }) s)
      else s
    else s
  | none => s

/-- The extents in use, as BASE and SIZE. -/
def State.extents (s : State) : List (Nat × Nat) := s.ts.dir.filterMap fun e => e.map fun t => (t.base, t.size)

/-- A run of `n` positions from `p` lies in the store and in no extent in use. -/
def runFree (extents : List (Nat × Nat)) (n p : Nat) : Bool :=
  decide (p + n ≤ Config.storeSize) && extents.all fun e => decide (p + n ≤ e.1) || decide (e.1 + e.2 ≤ p)

/-- The position first-fit allocation takes (R138): a free run begins at position 0 or after an extent, and the lowest of
these that has room for `n` is the start of the first free run that is long enough. -/
def firstFit (extents : List (Nat × Nat)) (n : Nat) : Option Nat :=
  ((0 :: extents.map fun e => e.1 + e.2).filter (runFree extents n)).min?

/-- The lowest-numbered free entry of the directory (R138). -/
def freeEntry (dir : List (Option Take)) : Option Nat := dir.findIdx? (·.isNone)

/-- A stream take made SPENT: HELD is cleared without a RESUME (R149). -/
def spendStream (id : Nat) (s : State) : State :=
  modTake id (fun t => match t.kind with
    | .stream => { t with state := .spent, held := false }
    | .resident => t) s

end Sys2Proof.Machine
end

