-- ==== Sys2Proof/Machine/Player.lean ====
section
/-! DEFINITION. The passages of the Take Player and Recorder to IDLE, live control, the marks and the ease setting
(chapters 9 and 10). -/

namespace Sys2Proof.Machine

open Sys2Proof

/-- The ease flag set or cleared for a stated frame (R122). -/
def easeFor (f : FrameNo) (b : Bool) (s : State) : State := { s with pu.easePend := setPend s.pu.easePend f b }

/-- The live, mark and punch state cleared (R187, R188 "To IDLE"). -/
def clearLive (s : State) : State :=
  { s with tpr := { s.tpr with
      liveSet := 0, live := Quad.fill LiveChan.reset, markCur := 0, markPrev := 0, markPend := [], punch := false,
      punchMask := 0, punchIdx := none } }

/-- The cueing and playback state cleared, the activity IDLE (R154, R169). -/
def clearPlay (s : State) : State :=
  { s with tpr := { s.tpr with
      activity := .idle, take := none, rate := none, override := 0, cueSet := 0, base := 0, cursor := 0,
      markIdx := none } }

/-- The completion REPLY of a pending cue (R154, R169, R191). -/
def completeCue (status : Status) (s : State) : State :=
  match s.tpr.cueCompletion with
  | some w => { reply w codeCue status .none s with tpr.cueCompletion := none }
  | none => s

/-- A stream take made SPENT when PLAYING or EASING is left (R154, R169). -/
def spendPlayed (s : State) : State :=
  match s.tpr.activity, s.tpr.take with
  | .playing, some id | .easing, some id => spendStream id s
  | _, _ => s

/-- HOLD requested for every channel of the node not in HOLD (R154). -/
def holdAll (s : State) : State :=
  s.channels.foldl (fun s i => if (s.chans.get i).mode = .hold then s else requestByPlayer .hold i s) s

/-- The passage of the activity from CUEING, CUED, PLAYING or EASING to IDLE (R154, R187), with the status a pending
cue completes with. -/
def passageToIdle (status : Status) (s : State) : State :=
  let s := completeCue status (spendPlayed (holdAll s))
  let s := if s.pu.ease then easeFor (s.ft.frame + 1) false s else s
  clearLive (clearPlay s)

/-- The end of a recording: READY with the LENGTH it holds, or LOADING when it holds none (R180, R187). -/
def endRecording (s : State) : State :=
  match s.tpr.take with
  | some id => modTake id (fun t => { t with state := if t.length = 0 then .loading else .ready }) s
  | none => s

/-- The forcing of the activity to IDLE by the Safety Supervisor (R169, R187). -/
def forceIdle (s : State) : State :=
  match s.tpr.activity with
  | .idle => s
  | .live => clearLive { s with tpr.activity := .idle }
  | .recording => clearLive { endRecording s with tpr.activity := .idle, tpr.take := none }
  | .cueing | .cued | .playing | .easing =>
    clearLive (clearPlay (easeFor (s.ft.frame + 1) false (completeCue .stopped (spendPlayed s))))

/-- The live state of a channel changed. -/
def modLive (i : Nat) (f : LiveChan → LiveChan) (s : State) : State :=
  { s with tpr.live := s.tpr.live.set i (f (s.tpr.live.get i)) }

/-- A channel enters the LIVE SET with LIVE AGE 0 and no pending goal, and LIVE is requested for it (R172). -/
def enterLive (i : Nat) (s : State) : State :=
  requestByPlayer .live i
    (modLive i (fun _ => LiveChan.reset) { s with tpr.liveSet := s.tpr.liveSet ||| (1#4 <<< i) })

/-- A channel leaves the LIVE SET, its pending goals are emptied and HALT is requested for it (R174, R175, R185). -/
def leaveLive (i : Nat) (s : State) : State :=
  requestByPlayer .halt i
    (modLive i (fun l => { l with pend := [] }) { s with tpr.liveSet := s.tpr.liveSet &&& ~~~(1#4 <<< i) })

/-- The marks of the indices the cursor newly reaches, announced in index order (R166). -/
def takeMarks (id : Nat) (t : Take) (n : Nat) (s : State) : State :=
  let first := s.tpr.markIdx.elim 0 (· + 1)
  let s' := (List.range' first (n + 1 - first)).foldl (fun s k =>
    let code := (s.sampleAt t k).mark.toNat
    if code = 0 then s else broadcast (.mark id k code) s) s
  { s' with tpr.markIdx := some n }

end Sys2Proof.Machine
end

