-- ==== Sys2Proof/Machine/Claims.lean ====
section
/-! DEFINITION. The claims list, the raising and withdrawing of claims, the overflow condition, and the transitions of the
safety state that a claim brings about (chapter 6). -/

namespace Sys2Proof.Machine

open Sys2Proof

/-! ### The list (R93) -/

/-- The order of the list: by ORIGIN, then by CAUSE. -/
def Claim.before (a b : Claim) : Bool :=
  decide (a.origin < b.origin) || (a.origin == b.origin && decide (a.cause.code < b.cause.code))

/-- An entry has the key (ORIGIN, CAUSE). -/
def Claim.hasKey (e : Claim) (o : Nat) (c : Cause) : Bool := e.origin == o && e.cause == c

/-- The entry of a key. -/
def findClaim (l : List Claim) (o : Nat) (c : Cause) : Option Claim := l.find? (·.hasKey o c)

/-- An entry added at its place in the order. -/
def insertClaim (e : Claim) : List Claim → List Claim
  | [] => [e]
  | d :: rest => if e.before d then e :: d :: rest else d :: insertClaim e rest

/-- The list without the entry of a key. -/
def removeClaim (l : List Claim) (o : Nat) (c : Cause) : List Claim := l.filter fun e => !e.hasKey o c

/-- The DETAIL of a key replaced. -/
def setDetail (l : List Claim) (o : Nat) (c : Cause) (d : Nat) : List Claim :=
  l.map fun e => if e.hasKey o c then { e with detail := d } else e

/-- The list without the remote entry that stands last (R95). -/
def removeLastRemote (own : Nat) : List Claim → List Claim
  | [] => []
  | e :: rest =>
    if e.origin ≠ own ∧ rest.all (fun r => r.origin == own) then rest else e :: removeLastRemote own rest

/-! ### Transitions of the safety state -/

/-- The completion of a pending ARM (R107, R108, R113). -/
def completeArm (status : Status) (s : State) : State :=
  match s.ss.armPending with
  | some w => { reply w codeArm status .none s with ss.armPending := none }
  | none => s

/-- The completion of a pending DISARM with DONE (R112, R114). -/
def completeDisarm (s : State) : State :=
  match s.ss.disarmPending with
  | some w => { reply w codeDisarm .done .none s with ss.disarmPending := none }
  | none => s

/-- Entry to STOPPING (R108): the brake timer stops, a pending ARM completes with STOPPED, the activity is forced to
IDLE and every channel not in OFF is placed in STOP. -/
def enterStopping (s : State) : State :=
  let s := { s with ss.safety := .stopping, ss.timer := none }
  stopAll (forceIdle (completeArm .stopped s))

/-- Entry to SECURING (R110, R112): the brakes are set and the brake-set time begins. -/
def enterSecuring (s : State) : State :=
  let s := { s with ss.safety := .securing, ss.timer := some { phase := .set, frames := s.cfg.brakeSet } }
  setBrakes s

/-- Every fault-off flag cleared (R89, R114). -/
def clearFaultOff (s : State) : State :=
  { s with dlu.lines := s.dlu.lines.map fun l => { l with faultOff := false } }

/-- Entry to DISARMED from SECURING or by ESTOP (R111, R113, R114). -/
def enterDisarmed (s : State) : State :=
  let s := allDrivesOff s
  let s := forceIdle { s with ss.timer := none }
  let s := completeDisarm (completeArm .stopped s)
  clearFaultOff { s with ss.safety := .disarmed }

/-- What a new claim or the overflow condition brings about in ARMING and ARMED (R108). -/
def stopIfMoving (s : State) : State := if s.ss.safety.canStop then enterStopping s else s

/-- What the adding of an own ESTOP entry brings about (R113): in DISARMED it is only stored. -/
def estopCut (s : State) : State := if s.ss.safety.driven then enterDisarmed s else s

/-- A refusal (R102): the overflow condition set, its quiet count 0 and CLAIM-OVERFLOW raised; in ARMING and ARMED it
brings the node to STOPPING. -/
def refuseClaim (s : State) : State :=
  stopIfMoving (raise .claimOverflow { s with ss.overflow := true, ss.overflowQuiet := 0 })

/-! ### Own claims -/

/-- The transition that follows the adding of an own entry. -/
def afterOwnClaim (c : Cause) (s : State) : State := if c = .estop then estopCut s else stopIfMoving s

/-- An own entry added to a list with room, its STOP queued and a queued ROLL composed afresh (R95, R101). -/
def addOwn (c : Cause) (d : Nat) (s : State) : State :=
  let e : Claim := { origin := s.cfg.station, cause := c, detail := d, latched := c.isLatched }
  recomposeRoll (broadcast (.stop c d) { s with ss.claims := insertClaim e s.ss.claims })

/-- An own cause raised with a detail (R95). -/
def raiseOwn (c : Cause) (d : Nat) (s : State) : State :=
  if s.ss.safety.isOpen = false then s
  else
    match findClaim s.ss.claims s.cfg.station c with
    | some e =>
      if e.detail = d then s
      else
        recomposeRoll (broadcast (.stop c d)
          { s with ss.claims := setDetail s.ss.claims s.cfg.station c d })
    | none =>
      if s.ss.claims.length < Config.claimsSize then afterOwnClaim c (addOwn c d s)
      else
        let trimmed := removeLastRemote s.cfg.station s.ss.claims
        if trimmed.length < Config.claimsSize then
          afterOwnClaim c (refuseClaim (addOwn c d { s with ss.claims := trimmed }))
        else s

/-- A raising as the SPL, the DLU and the IU make it: handed on only when the entry does not stand or the new detail is
lower (R80, R131). -/
def raiseFiltered (c : Cause) (d : Nat) (s : State) : State :=
  match findClaim s.ss.claims s.cfg.station c with
  | some e => if d < e.detail then raiseOwn c d s else s
  | none => raiseOwn c d s

/-- An own entry withdrawn and its CLEAR queued (R96, R103). -/
def withdrawOwn (c : Cause) (s : State) : State :=
  match findClaim s.ss.claims s.cfg.station c with
  | some _ =>
    recomposeRoll (broadcast (.clear c) { s with ss.claims := removeClaim s.ss.claims s.cfg.station c })
  | none => s

/-! ### Remote claims -/

/-- A claim of another station stored, updated or refused (R97, R99). -/
def remoteClaim (o : Nat) (c : Cause) (d : Nat) (s : State) : State :=
  match findClaim s.ss.claims o c with
  | some _ => { s with ss.claims := setDetail s.ss.claims o c d }
  | none =>
    if s.ss.claims.length < Config.claimsSize then
      stopIfMoving { s with
        ss.claims := insertClaim { origin := o, cause := c, detail := d, latched := false } s.ss.claims }
    else refuseClaim s

/-- The cause a code of a message names, as far as its SOURCE may state it: OPERATOR is for control stations (R97). -/
def State.admittedCause (s : State) (o code : Nat) : Option Cause :=
  (Cause.ofCode code).bind fun c => if c = .operator ∧ s.isControl o = false then none else some c

/-! ### The answers of other blocks that the Safety Supervisor uses -/

/-- A pinned station is present (R37). -/
def RosterEntry.present (lossTimeout : Nat) (e : RosterEntry) : Bool :=
  e.heard && decide (e.age ≤ lossTimeout) &&
    e.last.elim true (fun l => l.safety != .node .faulted)

/-- Peers ready: every pinned station is present (R37). -/
def State.peersReady (s : State) : Bool := s.ru.roster.all fun e => !e.pinned || e.present s.cfg.lossTimeout

/-- The lost set (R37), in increasing station order as the roster is kept. -/
def State.lostSet (s : State) : List Nat :=
  (s.ru.roster.filter fun e => e.pinned && e.heard && !e.present s.cfg.lossTimeout).map (·.station)

/-- PEER raised with the lowest station of the lost set as detail (R38). -/
def raisePeer (s : State) : State :=
  match s.lostSet.min? with
  | some d => raiseOwn .peer d s
  | none => s

/-- Readings ready (R82). -/
def State.readingsReady (s : State) : Bool :=
  s.channels.all fun i =>
    let r := s.spl.readings.get i
    r.valid && r.stale == 0 && r.status == some .ok

/-- The RELEASE test of a latched cause: its condition is absent (R103). -/
def State.releasable (s : State) : Cause → Bool
  | .encoder => s.readingsReady
  | .drive => s.channels.all fun i => !(s.dlu.lines.get i).fault
  | .peer => s.peersReady
  | .duplicate => s.lif.dupQuiet == 32
  | .link => s.lif.linkRelease
  | .limit | .follow | .underrun | .deviation | .cross | .estop | .zone | .operator => true

end Sys2Proof.Machine
end

