-- ==== Sys2Proof/Machine/Stations.lean ====
section
/-! DEFINITION. The Roster Unit: reports of valid messages, aging, required peers, watch slots, the STATE message, parking
and waking (chapter 3). -/

namespace Sys2Proof.Machine

open Sys2Proof

/-! ### The roster -/

/-- The ROLE of a station that has sent no STATE yet (R33). -/
def State.firstRole (s : State) (station : Nat) : Role := if s.isControl station then .control else .node

/-- The pinned entry of a required peer (R33). -/
def State.pinnedEntry (s : State) (station : Nat) : RosterEntry :=
  { station := station, role := s.firstRole station, pinned := true, heard := false, age := 0, last := none }

/-- An entry added in increasing station order (R33). -/
def insertEntry (e : RosterEntry) : List RosterEntry → List RosterEntry
  | [] => [e]
  | d :: rest => if e.station < d.station then e :: d :: rest else d :: insertEntry e rest

/-- The roster of the pinned entries alone (R33, R48). -/
def State.pinnedRoster (s : State) : List RosterEntry :=
  s.cfg.peers.foldl (fun r p => insertEntry (s.pinnedEntry p) r) []

/-- The report of a valid message from another station (R34). -/
def reportStation (station : Nat) (s : State) : State :=
  if s.ss.safety.isOpen = false then s
  else if s.ru.roster.any (fun e => e.station == station) then
    { s with ru.roster := s.ru.roster.map fun e => if e.station = station then { e with age := 0, heard := true } else e }
  else if s.ru.roster.length < Config.rosterSize then
    let e : RosterEntry :=
      { station := station, role := s.firstRole station, pinned := false, heard := true, age := 0, last := none }
    { s with ru.roster := insertEntry e s.ru.roster }
  else raise .rosterFull s

/-- The AGE of every entry advanced (R35). -/
def ageRoster (s : State) : State :=
  { s with ru.roster := s.ru.roster.map fun e => { e with age := satSucc 255 e.age } }

/-- Every unpinned entry removed whose AGE exceeds 4 × the loss timeout (R35). -/
def removeAged (s : State) : State :=
  { s with ru.roster := s.ru.roster.filter fun e => e.pinned || decide (e.age ≤ 4 * s.cfg.lossTimeout) }

/-- A heard pinned station stands at AGE loss timeout + 1: it has become lost at this frame tick (R38). -/
def State.peerJustLost (s : State) : Bool :=
  s.ru.roster.any fun e => e.pinned && e.heard && e.age == s.cfg.lossTimeout + 1

/-- PEER raised for the stations a frame tick has made lost (R38). -/
def losePeers (s : State) : State := if s.peerJustLost then raisePeer s else s

/-! ### Watch slots (R40, R41) -/

/-- A slot brought to its value of frame `g`, but for its becoming UNKNOWN (R41). -/
def WatchSlot.turn (g : FrameNo) (w : WatchSlot) : WatchSlot :=
  match getPend w.pend g with
  | some u => { value := some u, age := 0, pend := dropPend w.pend g }
  | none => { w with age := satSucc 255 w.age }

/-- A slot whose AGE exceeds the loss timeout is UNKNOWN (R41). -/
def WatchSlot.expire (lossTimeout : Nat) (w : WatchSlot) : WatchSlot :=
  if lossTimeout < w.age then { w with value := none } else w

/-- Every slot expired that has to be (R41). -/
def expireSlots (s : State) : State :=
  { s with ru.slots := s.ru.slots.map (WatchSlot.expire s.cfg.lossTimeout) }

/-- Every slot brought to its value of frame `g` (R41). -/
def turnSlots (g : FrameNo) (s : State) : State :=
  expireSlots { s with ru.slots := s.ru.slots.map (WatchSlot.turn g) }

/-- The pending value a STATE dated `d` gives a slot (R40). -/
def State.feedSlot (s : State) (station : Nat) (d : FrameNo) (f : StateFields) (i : Nat) (w : WatchSlot) : WatchSlot :=
  match s.cfg.watch[i]? with
  | some c =>
    if c.station = station ∧ c.channel < f.count.toNat then
      match f.chans[c.channel]? with
      | some r => if recordStale r.2 then w else { w with pend := setPend w.pend (d + 1) r.1.toNat }
      | none => w
    else w
  | none => w

/-- A STATE dated `d` delivered to the Roster Unit (R36, R38, R40). -/
def takeState (station : Nat) (d : FrameNo) (f : StateFields) (p : Published) (a : Activity) (s : State) : State :=
  let last : LastFields := { safety := p, activity := a, take := f.take.toNat }
  let role : Role := if p = .control then .control else .node
  let s := { s with
    ru.roster := s.ru.roster.map fun e => if e.station = station then { e with role := role, last := some last } else e
    ru.slots := s.ru.slots.mapIdx (s.feedSlot station d f) }
  if p = .node .faulted ∧ (s.ru.roster.any fun e => e.pinned && e.station == station) = true then raisePeer s else s

/-- The learning window's last frame tick: the count becomes 0 (R39). -/
def endLearning (s : State) : State := if s.ru.learning = 1 then { s with ru.learning := 0 } else s

/-- The learning-window count at a frame tick (R39). -/
def learnTick (s : State) : State :=
  if 1 < s.ru.learning then { s with ru.learning := s.ru.learning - 1 } else endLearning s

/-! ### The STATE message (R42 to R44) -/

/-- The channel record of a channel as it stands (R44). -/
def State.chanReport (s : State) (i : Nat) : ChanReport :=
  let c := s.chans.get i
  let r := s.spl.readings.get i
  { uRep := if r.valid then c.uRep else 0, moving := c.v != 0, clamped := c.clamped, halted := c.halt,
    stale := !r.valid || decide (0 < r.stale), driveOff := !(s.dlu.lines.get i).enable }

/-- The TAKE field (R43). -/
def State.reportedTake (s : State) : Nat :=
  if s.tpr.activity.hasTake || s.tpr.activity == .recording then s.tpr.take.getD 0 else 0

/-- The CURSOR field (R43). -/
def State.reportedCursor (s : State) : Nat :=
  match s.tpr.activity with
  | .playing | .easing => s.tpr.cursor / 4096
  | .recording => (s.tpr.take.bind s.findTake).elim 0 (·.length)
  | _ => 0

/-- The ZONES field: bit n for line n active (section 13.2). -/
def State.zoneBits (s : State) : BitVec 8 :=
  (List.range Config.zoneLines).foldl
    (fun b n => if (s.zu.lines.getD n LineFilter.reset).active then b ||| (1#8 <<< n) else b) 0

/-- The report of the node as it stands, with the channel records given (R43). -/
def State.report (s : State) (chans : List ChanReport) : StateReport :=
  { safety := s.ss.safety, activity := s.tpr.activity, take := s.reportedTake, cursor := s.reportedCursor,
    applied := s.pu.applied, target := s.pu.target, claims := s.ss.claims.length,
    attention := attentionTop s.attention, zones := s.zoneBits, refPresent := s.ft.refPresent,
    learning := decide (0 < s.ru.learning), overflow := s.ss.overflow, peerMissing := !s.peersReady,
    chans := chans }

/-- The channel records as they stood after the last servo tick (R42, R44). -/
def State.shownReports (s : State) : List ChanReport := s.channels.map fun i => (s.chans.get i).shown

/-- The report of a FAULTED node: the fault code, and every other field 0 (R42). -/
def State.faultReport (s : State) : StateReport :=
  { safety := .faulted, activity := .idle, take := 0, cursor := 0, applied := 0, target := 0, claims := 0,
    attention := s.cl.fault, zones := 0, refPresent := false, learning := false, overflow := false,
    peerMissing := false, chans := [] }

/-- A STATE placed in the ordinary queue, its ATTENTION field the highest code of the set as it stands at this moment
(R42, R195). -/
def placeState (r : StateReport) (s : State) : State := broadcast (.state { r with attention := attentionTop s.attention }) s

/-- The STATE composed from `before`, the node at the end of the frame that ends, and placed in the ordinary queue (R42);
`before` and `s` are in the same safety state.  That REF-PRESENT is the flag of `before` too, so that an accepted edge which
sets it shows in the STATE of the next frame, is the model's choice (R31; log entry 49). -/
def composeState (before s : State) : State :=
  match s.ss.safety with
  | .disarmed | .arming | .armed | .stopping | .securing => placeState (before.report before.shownReports) s
  | .faulted => broadcast (.state before.faultReport) s
  | .loading | .parked => s

/-! ### Parking and waking -/

/-- The state of a watch slot set afresh: UNKNOWN, AGE 0, no pending value (R49). -/
def freshSlots : List WatchSlot := List.replicate Config.watchSlots WatchSlot.reset

/-- A deferred round begins: POLL is sent to channel 0 and RECEIVED is clear on every channel (R78, R84). -/
def beginRound (late : Bool) (s : State) : State :=
  { s with
    spl := { s.spl with
      readings := s.spl.readings.map fun r => { r with received := false }
      round := some { channel := 0, late := late } } }

/-- The sensor line is free again: a deferred round begins at once (R84). -/
def freeSensorLine (s : State) : State :=
  let s := { s with spl.read := none, spl.readActive := false }
  if s.spl.deferred then beginRound true { s with spl.deferred := false } else s

/-- Entry to PARKED: the PARKED columns of the blocks' tables (R18, R19, R46, R49, R75, R85, R115, R128, R170, R203). -/
def enterParked (s0 : State) : State :=
  let s := if s0.spl.readActive then freeSensorLine s0 else { s0 with spl.read := none }
  { s with
    ss := { s.ss with safety := .parked, timer := none, armPending := none, disarmPending := none }
    ru := { s.ru with parkPending := false, parkTicks := 0, wake := none }
    cl := { s.cl with restartPending := false, restartTicks := 0 }
    lif := { s.lif with
      urgent := [], ordinary := [], orphan := s.lif.busy, failRun := 0, quiet := 0, parkFilter := true }
    pu := { s.pu with ease := false, easePend := [] }
    tpr := { s.tpr with startPend := none, abortPend := none }
    chans := s.chans.map fun c => { c with tRaw := none, t := none, gPend := none } }

/-- The effective range of a channel: its soft range narrowed by the active entries for it (R130). -/
def effectiveRange (cfg : NodeCfg) (active : List Bool) (i : Nat) : Int × Int :=
  (cfg.cross.zip active).foldl
    (fun r e => if e.2 ∧ e.1.channel = i then (max r.1 e.1.limLow, min r.2 e.1.limHigh) else r)
    ((cfg.chan.get i).lo, (cfg.chan.get i).hi)

/-- The effective ranges of all the node's channels; a position without a channel keeps (0, 0). -/
def effectiveRanges (cfg : NodeCfg) (active : List Bool) : Quad (Int × Int) :=
  (List.range cfg.nChans).foldl (fun q i => q.set i (effectiveRange cfg active i)) (Quad.fill (0, 0))

/-- The Interlock Unit with every entry active, as on leaving LOADING and at WAKE (R130, R133). -/
def iuAllActive (cfg : NodeCfg) : Iu :=
  let active := cfg.cross.map fun _ => true
  { active := active, ranges := effectiveRanges cfg active }

/-- The waking of a parked node (R48) with the WAKE columns of the blocks' tables.  The first STATE reports the node as it
stands after waking, with the channel records of the last servo tick (R44, R74). -/
def wakeNode (s0 : State) : State :=
  let s := { s0 with
    ss := { s0.ss with
      safety := .disarmed, claims := [], overflow := false, overflowQuiet := 0, timer := none, armPending := none,
      disarmPending := none }
    lif := { s0.lif with
      urgent := [], ordinary := [], failRun := 0, quiet := 0, dupQuiet := 32, linkRelease := true, parkFilter := false }
    ru := { s0.ru with
      roster := s0.pinnedRoster, learning := Config.learningFrames, slots := freshSlots, parkPending := false,
      parkTicks := 0, wake := none }
    pu := { s0.pu with
      entries := [], floor := 16, floorPend := [], floorQuiet := 0, ease := false, easePend := [], target := 16 }
    iu := iuAllActive s0.cfg
    zu := Zu.reset
    dlu := { s0.dlu with lines := s0.dlu.lines.map fun l => { l with faultOff := false } } }
  broadcast (.state (s.report s.shownReports)) s

/-- A WAKE is due at the frame that has begun (R47). -/
def State.wakeDue (s : State) : Bool := s.ss.safety == .parked && s.ru.wake == some s.ft.frame

/-- The waking at the frame tick it is due at (R48). -/
def wakeIfDue (s : State) : State := if s.wakeDue then wakeNode s else s

end Sys2Proof.Machine
end

