-- ==== Sys2Proof/Machine/Pace.lean ====
section
/-! DEFINITION. The Pace Unit, the Interlock Unit and the Zone Unit (chapter 7). -/

namespace Sys2Proof.Machine

open Sys2Proof

/-! ### Pace (R122 to R127) -/

/-- A factor 1 … 15, or none for 16, which withdraws a station's factor (R125). -/
def factorOf (v : Nat) : Option Nat := if v < Config.fullPace then some v else none

/-- A refused factor: a pending floor value of its date, or that value lowered (R123). -/
def refuseFactor (v : Nat) (d : FrameNo) (s : State) : State :=
  raise .claimOverflow
    { s with pu.floorPend := setPend s.pu.floorPend d ((getPend s.pu.floorPend d).elim v (min v)) }

/-- A factor of a station placed with its date (R123, R124); a value outside 1 … 16 is discarded. -/
def takeFactor (o v : Nat) (d : FrameNo) (s : State) : State :=
  if s.ss.safety.isOpen = false ∨ v = 0 ∨ Config.fullPace < v then s
  else if s.pu.entries.any (fun e => e.origin == o) then
    { s with pu.entries := s.pu.entries.map fun e =>
        if e.origin = o then { e with pend := setPend e.pend d v } else e }
  else if v = Config.fullPace then s
  else if s.pu.entries.length < Config.paceListSize then
    { s with pu.entries := s.pu.entries ++ [{ origin := o, factor := none, pend := [(d, v)] }] }
  else refuseFactor v d s

/-- An entry with the pending value of date `d` applied (R125 step 1). -/
def PaceEntry.turn (d : FrameNo) (e : PaceEntry) : PaceEntry :=
  match getPend e.pend d with
  | some v => { e with factor := factorOf v, pend := dropPend e.pend d }
  | none => e

/-- The floor returns to 16 when its quiet count stands at 32, and the count stands (R125 step 2). -/
def returnFloor (s : State) : State :=
  if Config.quietFrames ≤ s.pu.floorQuiet ∧ s.pu.floor < Config.fullPace then { s with pu.floor := Config.fullPace } else s

/-- The pace floor at the frame tick after the date `d` (R125 step 2). -/
def turnFloor (d : FrameNo) (s : State) : State :=
  match getPend s.pu.floorPend d with
  | some v =>
    { s with pu := { s.pu with
        floor := min s.pu.floor v, floorQuiet := 0, floorPend := dropPend s.pu.floorPend d } }
  | none =>
    if s.pu.floor < Config.fullPace then returnFloor { s with pu.floorQuiet := satSucc Config.quietFrames s.pu.floorQuiet }
    else s

/-- The target pace (R126). -/
def Pu.targetPace (p : Pu) : Nat :=
  if p.ease then 0
  else (p.entries.filterMap (·.factor)).foldl min (min p.floor Config.fullPace)

/-- The applied pace moved one frame toward a target (R127). -/
def movePace (step target applied : Nat) : Nat :=
  if applied < target then min target (applied + step)
  else if target < applied then max target (applied - step)
  else applied

/-- The ease flag of frame `g` (R126). -/
def turnEase (g : FrameNo) (s : State) : State :=
  match getPend s.pu.easePend g with
  | some b => { s with pu := { s.pu with ease := b, easePend := dropPend s.pu.easePend g } }
  | none => s

/-- The Pace Unit at the frame tick that begins frame `g` (R125, R126, R127). -/
def paceTick (g : FrameNo) (s : State) : State :=
  let s := { s with pu.entries :=
    (s.pu.entries.map (PaceEntry.turn (g - 1))).filter fun e => e.factor.isSome || !e.pend.isEmpty }
  let s := turnEase g (turnFloor (g - 1) s)
  let t := s.pu.targetPace
  { s with pu := { s.pu with target := t, applied := movePace s.cfg.paceStep t s.pu.applied } }

/-! ### Cross-limits (R130 to R132) -/

/-- An entry is active for a slot value (R130). -/
def CrossCfg.isActive (e : CrossCfg) (slots : List WatchSlot) : Bool :=
  (slots.getD e.slot WatchSlot.reset).value.elim true fun u => decide (e.srcLow ≤ u) && decide (u ≤ e.srcHigh)

/-- The active flags and effective ranges of the frame that begins (R130). -/
def formRanges (s : State) : State :=
  let active := s.cfg.cross.map fun e => CrossCfg.isActive e s.ru.slots
  { s with iu := { active := active, ranges := effectiveRanges s.cfg active } }

/-- The check of an entry that has become active: the channel stands outside its range, or cannot stop within it at amax
(R132). -/
def State.cannotObey (s : State) (e : CrossCfg) : Bool :=
  let c := s.chans.get e.channel
  let d : Int := (stopDistance (s.cfg.chan.get e.channel).amax c.v.natAbs : Nat)
  decide (c.x < e.limLow) || decide (e.limHigh < c.x) ||
    (decide (0 < c.v) && decide (e.limHigh - c.x < d)) || (decide (c.v < 0) && decide (c.x - e.limLow < d))

/-- The lowest entry active now and not among `before`, that its channel cannot obey (R132). -/
def State.failedEntry (s : State) (before : List Bool) : Option Nat :=
  (List.range s.cfg.cross.length).find? fun i =>
    s.iu.active.getD i false && !before.getD i false && (s.cfg.cross[i]?).elim false s.cannotObey

/-- CROSS raised for the entries the frame has made active, in ARMING and ARMED (R132). -/
def raiseCross (before : List Bool) (s : State) : State :=
  match s.ss.safety.canStop, s.failedEntry before with
  | true, some i => raiseFiltered .cross i s
  | _, _ => s

/-- CROSS raised for the empty ranges (R131). -/
def raiseConflict (s : State) : State :=
  match s.channels.find? fun i => decide ((s.iu.ranges.get i).2 < (s.iu.ranges.get i).1) with
  | some i => raiseFiltered .cross (16 + i) s
  | none => s

/-! ### Zone lines and the E-stop pair (R116 to R120) -/

/-- One sample of a filter (R116): the second consecutive active sample makes the line active. -/
def LineFilter.sample (a : Bool) (l : LineFilter) : LineFilter :=
  if l.active then (if a then { l with seen := true, clear := 0 } else l)
  else if a then
    if 1 ≤ l.run then { active := true, run := 0, seen := true, clear := 0 } else { l with run := l.run + 1 }
  else { l with run := 0 }

/-- The count of whole inactive frames at a frame tick (R117). -/
def LineFilter.count (clearTime : Nat) (l : LineFilter) : LineFilter :=
  if l.active then { l with clear := if l.seen then 0 else satSucc clearTime l.clear, seen := false } else l

/-- A line whose clear count stands at the clear time becomes clear (R117). -/
def LineFilter.expire (clearTime : Nat) (l : LineFilter) : LineFilter :=
  if l.active ∧ clearTime ≤ l.clear then { l with active := false, run := 0 } else l

/-- The class and factor of a zone line. -/
def NodeCfg.zone (c : NodeCfg) (n : Nat) : ZoneCfg := c.zones.getD n { cls := .none, factor := 0, high := false }

/-- The ZONE condition: the lowest active line of class STOP (R118). -/
def State.zoneCondition (s : State) : Option Nat :=
  (List.range Config.zoneLines).find? fun n =>
    (s.zu.lines.getD n LineFilter.reset).active && (NodeCfg.zone s.cfg n).cls == .stop

/-- The ESTOP condition: the lower active input (R120). -/
def State.estopCondition (s : State) : Option Nat :=
  (List.range Config.estopInputs).find? fun n => (s.zu.estop.getD n LineFilter.reset).active

/-- The own pace factor the active SLOW lines give (R119). -/
def State.slowFactor (s : State) : Nat :=
  ((List.range Config.zoneLines).filterMap fun n =>
    let z := NodeCfg.zone s.cfg n
    if (s.zu.lines.getD n LineFilter.reset).active ∧ z.cls = .slow then some z.factor else none).foldl min Config.fullPace

/-- What the Zone Unit hands the Safety Supervisor at a change of a condition (R118, R120). -/
def reportCondition (c : Cause) (before after : Option Nat) (s : State) : State :=
  match after with
  | some d => if before = some d then s else raiseOwn c d s
  | none => if before = none then s else withdrawOwn c s

/-- A changed own pace factor: PACE is queued and a queued ROLL composed afresh (R119). -/
def reportFactor (s : State) : State :=
  let f := s.slowFactor
  if f = s.zu.ownFactor then s
  else recomposeRoll (broadcast (.pace f) { s with zu.ownFactor := f })

/-- The filters of the zone lines changed, with what follows from it (R118, R119).  That a change of the ZONE condition is
reported before a change of the own factor is the model's choice (log entry 47). -/
def changeZones (f : State → List LineFilter) (s : State) : State :=
  let s' := { s with zu.lines := f s }
  reportFactor (reportCondition .zone s.zoneCondition s'.zoneCondition s')

/-- The filters of the E-stop inputs changed, with what follows from it (R120). -/
def changeEstop (f : State → List LineFilter) (s : State) : State :=
  let s' := { s with zu.estop := f s }
  reportCondition .estop s.estopCondition s'.estopCondition s'

/-- The sampling of the E-stop pair (R120). -/
def sampleEstop (l : LineLevels) (s : State) : State :=
  changeEstop (fun s => s.zu.estop.mapIdx fun n f => f.sample (l.estop.getLsbD n)) s

/-- The sampling of the zone lines: a sample is active when the level equals the POLARITY (R116). -/
def sampleZones (l : LineLevels) (s : State) : State :=
  changeZones (fun s => s.zu.lines.mapIdx fun n f => f.sample (l.zone.getLsbD n == (NodeCfg.zone s.cfg n).high)) s

/-- The zone lines that stand at their clear time become clear (R117). -/
def clearZones (s : State) : State :=
  changeZones (fun s => s.zu.lines.map (LineFilter.expire s.cfg.zoneClearTime)) s

/-- The E-stop inputs that stand at their clear time become clear (R120). -/
def clearEstop (s : State) : State :=
  changeEstop (fun s => s.zu.estop.map (LineFilter.expire Config.estopClearTime)) s

/-- The Zone Unit at a frame tick: the frame that ends is counted, and lines become clear (R117, R120).  That the end of the
ESTOP condition is reported before that of the ZONE condition is the model's choice (log entry 44). -/
def zoneFrameTick (s : State) : State :=
  let s := { s with zu := { s.zu with
    lines := s.zu.lines.map (LineFilter.count s.cfg.zoneClearTime)
    estop := s.zu.estop.map (LineFilter.count Config.estopClearTime) } }
  clearZones (clearEstop s)

end Sys2Proof.Machine
end

