-- ==== Sys2Proof/Machine/Link.lean ====
section
/-! DEFINITION. The spine line as the node sees it: selection, attempts and their ends, bad and impostor messages
(chapter 1). -/

namespace Sys2Proof.Machine

open Sys2Proof

/-! ### Attempts (R3, R13 to R16) -/

/-- The entry of a class that has stood longest in the order enters its attempt (R14). -/
def beginEntry (c : Nat) : List QEntry → List QEntry
  | [] => []
  | e :: rest => if e.msg.body.cls = c then { e with active := true } :: rest else e :: beginEntry c rest

/-- An entry whose attempt has ended without success: its successor replaces it (R13). -/
def QEntry.fallBack (e : QEntry) : QEntry :=
  if e.active then { msg := e.succ.getD e.msg, succ := none, active := false } else e

/-- An entry whose attempt has succeeded leaves the queue, and its successor takes its place (R13). -/
def QEntry.finish (e : QEntry) : Option QEntry :=
  if e.active then e.succ.map fun m => { msg := m, succ := none, active := false } else some e

/-- An attempt ends without success: the queues keep the entry or its successor (R13), and an entry dropped on entering
PARKED is gone (R18). -/
def Lif.attemptLost (l : Lif) : Lif :=
  { l with urgent := l.urgent.map QEntry.fallBack, ordinary := l.ordinary.map QEntry.fallBack, orphan := false }

/-- An attempt succeeds (R13, R15). -/
def Lif.attemptWon (l : Lif) : Lif :=
  { l with
    urgent := l.urgent.filterMap QEntry.finish, ordinary := l.ordinary.filterMap QEntry.finish, orphan := false
    failRun := 0, linkRelease := true }

/-- ATTEMPT (R1, R14): the line is idle, no attempt is in progress and a queue holds an entry. -/
def execAttempt (s : State) : Host.Outcome State Fault Refusal :=
  .next <|
    if s.lif.lineIdle && !s.silent && !s.lif.busy then
      match ((s.lif.urgent ++ s.lif.ordinary).map fun e => e.msg.body.cls).min? with
      | some c =>
        { s with lif := { s.lif with
            urgent := beginEntry c s.lif.urgent, ordinary := beginEntry c s.lif.ordinary, lineIdle := false } }
      | none => s
    else s

/-- ARBITRATION_LOST (R3). -/
def execArbitrationLost (s : State) : Host.Outcome State Fault Refusal :=
  .next (if s.lif.busy then { s with lif := s.lif.attemptLost } else s)

/-- LINK raised at the failure that brings the consecutive count to 16 (R16). -/
def linkLost (s : State) : State := raiseOwn .link s.cfg.station { s with lif.linkRelease := false }

/-- TRANSMIT_FAILURE (R15, R16). -/
def execTransmitFailure (s : State) : Host.Outcome State Fault Refusal :=
  .next <|
    if s.lif.busy then
      let run := satSucc 255 s.lif.failRun
      let s := { s with lif := { s.lif.attemptLost with
        failRun := run, txFailures := satSucc 65535 s.lif.txFailures } }
      if run = Config.linkFailures then linkLost s else s
    else s

/-- The factor that a PACE or a ROLL carried (R124). -/
def Body.factorCarried : Body → Option Nat
  | .pace f => some f
  | .roll f _ => some f
  | _ => none

/-- A message is the REPLY of status DONE to a command code. -/
def Body.isDone (code : Nat) : Body → Bool
  | .reply _ c .done _ => c == code
  | _ => false

/-- The entry to LOADING by RESTART: every block at its RESTART column (R202).  The store and the fault code stand, and the
values of the last image but the cross-limit table (R133).  The receiver no longer waits for the line to fall idle, while
the line is as idle as it was: both are the model's choice (log entry 36).  That a drive record with ENABLE off which is still
due is dropped is the model's choice as well (log entry 50). -/
def enterLoading (s : State) : State :=
  { State.reset with
    lif := { Lif.reset with lineIdle := s.lif.lineIdle }
    ts := s.ts
    cl := { Cl.reset with read := .reading, fault := s.cl.fault, item := s.cl.item }
    cfg := { s.cfg with cross := [] }
    pins := s.pins
    pending := s.pending }

/-- What the success of a message brings about (R45, R124, R202). -/
def afterSuccess (b : Body) (s : State) : State :=
  let s := b.factorCarried.elim s fun f => takeFactor s.cfg.station f s.dateNow s
  if b.isDone codePark && s.ru.parkPending then enterParked s
  else if b.isDone codeRestart && s.cl.restartPending then enterLoading s
  else s

/-- ATTEMPT_SUCCESS (R15). -/
def execAttemptSuccess (s : State) : Host.Outcome State Fault Refusal :=
  .next <|
    if s.lif.busy then
      let s' := { s with lif := s.lif.attemptWon }
      s.lif.inAttempt.elim s' fun e => afterSuccess e.msg.body s'
    else s

/-! ### What the receiver sees (R5 to R9, R18) -/

/-- The receiver takes nothing: in LOADING, and in FAULTED with the station number unknown (R9). -/
def State.deaf (s : State) : Bool :=
  match s.ss.safety with
  | .loading => true
  | .faulted => !s.cl.spineId
  | _ => false

/-- A message discarded and counted as bad (R5); the receiver then waits for the line to fall idle. -/
def countBad (s : State) : State :=
  { s with lif := { s.lif with badMessages := satSucc 65535 s.lif.badMessages, rxWait := true } }

/-- A message stands on the line, which is not idle (R1). -/
def lineBusy (s : State) : State := { s with lif.lineIdle := false }

/-- The line has been recessive for 11 bit periods (R1, R5): the receiver receives again. -/
def lineFallsIdle (s : State) : State :=
  if s.lif.busy then s else { s with lif := { s.lif with lineIdle := true, rxWait := false } }

/-- BAD_MESSAGE (R5, R9).  A message that ends early leaves the line idle. -/
def execBadMessage (reason : BadReason) (s : State) : Host.Outcome State Fault Refusal :=
  .next <|
    let s := if s.deaf || s.lif.rxWait then lineBusy s else countBad (lineBusy s)
    match reason with
    | .early => lineFallsIdle s
    | _ => s

/-- An impostor message (R7); in PARKED it has no effect (R18). -/
def impostor (s : State) : State :=
  match s.ss.safety with
  | .parked => s
  | _ => raiseOwn .duplicate s.cfg.station { s with lif.dupQuiet := 0 }

/-- IMPOSTOR_MESSAGE (R7). -/
def execImpostorMessage (s : State) : Host.Outcome State Fault Refusal :=
  .next (if s.deaf || s.lif.rxWait then lineBusy s else impostor (lineBusy s))

/-- LINE_IDLE (R1, R5). -/
def execLineIdle (s : State) : Host.Outcome State Fault Refusal := .next (lineFallsIdle s)

end Sys2Proof.Machine
end

