-- ==== Sys2Proof/Machine/Sensor.lean ====
section
/-! DEFINITION. The sensor line: rounds, stale ticks, poll responses, the following-error check and explicit reads
(chapter 5). -/

namespace Sys2Proof.Machine

open Sys2Proof

/-! ### Stale ticks and rounds (R78, R79, R81) -/

/-- STALE-READING raised, in every state except PARKED (R79). -/
def raiseStale (s : State) : State := if s.ss.safety = .parked then s else raise .staleReading s

/-- The stale tick of one channel (R79, R81). -/
def staleTick (i : Nat) (s : State) : State :=
  let s := modReading i (fun r => { r with stale := satSucc 255 r.stale }) s
  let r := s.spl.readings.get i
  if r.valid then
    let s := raiseStale s
    if 3 ≤ r.stale then raiseFiltered .encoder i s else s
  else s

/-- The stale tick of every channel of a list, in channel order. -/
def staleTicks (is : List Nat) (s : State) : State := is.foldl (fun s i => staleTick i s) s

/-- The channels without a response in the round in progress. -/
def State.unreceived (s : State) : List Nat := s.channels.filter fun i => !(s.spl.readings.get i).received

/-- The end of what stands at a tick: the round in progress, or a deferred round that has not begun (R78, R84). -/
def endRound (s : State) : State :=
  if s.spl.deferred then staleTicks s.channels { s with spl.deferred := false }
  else if s.spl.round.isSome then staleTicks s.unreceived { s with spl.round := none }
  else s

/-- The sensor line at a servo tick (R78, R84). -/
def pollTick (s : State) : State :=
  match s.ss.safety with
  | .loading | .faulted => s
  | _ =>
    let s := endRound s
    if s.spl.read.isSome then { s with spl := { s.spl with round := none, readActive := true, deferred := true } }
    else beginRound false s

/-- A read that waits takes the line when no round is in progress (R84). -/
def readTakesLineNow (s : State) : State :=
  if s.spl.read.isSome && !s.spl.readActive && s.spl.round.isNone then { s with spl.readActive := true } else s

/-- The response to channel `c` has been taken: the next channel is polled, or the round is complete (R78, R84). -/
def pollNext (c : Nat) (late : Bool) (s : State) : State :=
  if c + 1 < s.cfg.nChans then { s with spl.round := some { channel := c + 1, late := late } }
  else readTakesLineNow { s with spl.round := none }

/-! ### The following-error check (R86, R87) -/

/-- The FERR COUNT after the check of a reading (R86): the setpoint of the tick before is the second of the history. -/
def Reading.checkedFerr (cfg : ChanCfg) (r : Reading) : Nat :=
  match r.hist with
  | _ :: h :: _ =>
    if h.mode = .off then 0
    else if cfg.ferrMax < (h.x - r.position).natAbs then min cfg.ferrTicks (r.ferr + 1) else 0
  | _ => 0

/-- The check of a fresh reading, and FOLLOW (R86, R87). -/
def followCheck (i : Nat) (s : State) : State :=
  if s.ss.safety.driven then
    let cfg := s.cfg.chan.get i
    let s := modReading i (fun r => { r with ferr := r.checkedFerr cfg }) s
    if (s.spl.readings.get i).ferr = cfg.ferrTicks then raiseFiltered .follow i s else s
  else s

/-! ### Responses (R77, R79, R85) -/

/-- The status a code of a POLL response gives; another code is handled as a bad check (section 13.3). -/
def ReadStatus.ofCode (b : Byte) : Option ReadStatus :=
  if b = 0 then some .ok else if b = 1 then some .warn else if b = 2 then some .fail else none

/-- A fresh reading taken (R79). -/
def takeFresh (i : Nat) (st : ReadStatus) (p : Int) (late : Bool) (s : State) : State :=
  let s := modReading i
    (fun r => { r with position := p, status := some st, valid := true, stale := 0, received := true }) s
  if late then s else followCheck i s

/-- A FAIL response taken (R79, R81). -/
def takeFail (i : Nat) (s : State) : State :=
  let s := modReading i
    (fun r => { r with status := some .fail, stale := satSucc 255 r.stale, received := true }) s
  raiseFiltered .encoder i (raiseStale s)

/-- POLL_RESPONSE (R77, R78, R79): a response whose check is bad, whose request has been given up, whose address is not that of
the request outstanding, or which finds no POLL outstanding is discarded.  That the command says which it is, where a late
response of channel 0 looks like the answer to the new round's POLL, is the model's choice (log entry 52). -/
def execPollResponse (answer : Answer) (address status : Byte) (position : U24) (s : State) :
    Host.Outcome State Fault Refusal :=
  .next <|
    match answer, s.spl.readActive, s.spl.round, ReadStatus.ofCode status with
    | .good, false, some r, some st =>
      if address.toNat = r.channel then
        let s :=
          match st with
          | .fail => takeFail r.channel s
          | _ => takeFresh r.channel st position.toInt r.late s
        pollNext r.channel r.late s
      else s
    | _, _, _, _ => s

/-- The completion of the explicit read, with its slot emptied and a deferred round begun (R85). -/
def completeRead (status : Status) (data : ReplyData) (s : State) : State :=
  match s.spl.read with
  | some w => freeSensorLine (reply w.slot codeSensorRead status data s)
  | none => s

/-- READ_RESPONSE (R77, R85): status 0 is OK and 2 FAIL; any other is handled as a bad check.  A response whose request has been
given up is discarded, as R78 has it of a POLL (log entry 52). -/
def execReadResponse (answer : Answer) (address status : Byte) (value : BitVec 32) (s : State) :
    Host.Outcome State Fault Refusal :=
  .next <|
    match answer, s.spl.readActive, s.spl.read with
    | .good, true, some w =>
      if address.toNat = w.channel then
        if status = 0 then completeRead .done (.value value) s
        else if status = 2 then completeRead .refused (.value 0) s
        else s
      else s
    | _, _, _ => s

/-- SENSOR_TIMEOUT (R85). -/
def execSensorTimeout (s : State) : Host.Outcome State Fault Refusal :=
  .next (if s.spl.readActive then completeRead .timeout (.value 0) (raise .sensorTimeout s) else s)

/-- READ_TAKES_LINE (R84). -/
def execReadTakesLine (s : State) : Host.Outcome State Fault Refusal := .next (readTakesLineNow s)

end Sys2Proof.Machine
end

