-- ==== Sys2Proof/Machine/Setpoint.lean ====
section
/-! DEFINITION. The computation of the channels at a servo tick: the cursor, the five stages of R59, the drive records, the
recording and punch writes, and the tests made after the computation (chapters 4, 9 and 10). -/

namespace Sys2Proof.Machine

open Sys2Proof

/-! ### The passage from HALT to HOLD, the target and the velocity of one channel -/

/-- A channel that a computation in HALT has brought to rest is in HOLD from the next computation, at its rest point and with
its HALT FLAG kept (R57).  One that entered HALT at rest is computed in HALT first (R68; log entry 9). -/
def Chan.settleHalt (c : Chan) : Chan :=
  if c.mode = .halt ∧ c.rested = true then { c with mode := .hold, held := c.x, dev := 0 } else c

/-- T_RAW limited to the effective range [L, H] (R65); an empty range leaves x_prev. -/
def clampTarget (range : Int × Int) (xPrev tRaw : Int) : Int :=
  if range.2 < range.1 then xPrev else if tRaw < range.1 then range.1 else if range.2 < tRaw then range.2 else tRaw

/-- What one computation reads: the channel's configuration, the safety state, the applied pace and the effective range of
the frame, the tick index and S, and the track value of the take in use for a channel in CUE or PLAY. -/
structure TickInput where
  cfg : ChanCfg
  arming : Bool
  pace : Nat
  range : Int × Int
  tick : Nat
  ticks : Nat
  takeValue : Nat
  position : Int
  valid : Bool
deriving DecidableEq, Repr

/-- The limiter applied to a target (R59 stages 3 to 5, R65, R67, R69): `u` is the source value, if the mode has one of
its own, `fixed` says that the target of the tick is x_prev (R56). -/
def Chan.drive (inp : TickInput) (limit : Nat) (u : Option Nat) (tRaw : Int) (fixed : Bool) (c : Chan) : Chan :=
  let t := if fixed then c.x else clampTarget inp.range c.x tRaw
  let v := limiter inp.cfg.amax limit (t - c.x) c.v
  let x := c.x + v
  { c with
    x := x, v := v, u := u.getD (inverse inp.cfg.table x), tRaw := some tRaw, t := some t,
    clamped := decide (t ≠ tRaw) || decide (inp.range.2 < inp.range.1), settled := v == 0 && x == t, atRest := v == 0 }

/-- The deceleration of HALT and STOP (R68): no target, and U from the setpoint the tick produces (R63). -/
def Chan.brakeTo (inp : TickInput) (a : Nat) (c : Chan) : Chan :=
  let v := decelerate a c.v
  let x := c.x + v
  { c with x := x, v := v, u := inverse inp.cfg.table x, tRaw := none, t := none, clamped := false, settled := false,
           atRest := v == 0 }

/-- The computation of OFF (R55): X follows the latest reading, V is 0. -/
def Chan.follow (inp : TickInput) (c : Chan) : Chan :=
  let x := if inp.valid then inp.position else c.x
  { c with x := x, v := 0, u := inverse inp.cfg.table x, tRaw := none, t := none, clamped := false, settled := false,
           atRest := true }

/-- The deviation check of a channel in PLAY (R70); in any other mode the count is 0. -/
def Chan.checkDeviation (inp : TickInput) (c : Chan) : Chan :=
  if c.mode = .play then
    { c with dev := if inp.cfg.devTol < (c.tRaw.getD c.x - c.x).natAbs then min 2 (c.dev + 1) else 0 }
  else c

/-- One servo tick of one channel in its mode (R53, R57, R59, R70, R72). -/
def Chan.compute (inp : TickInput) (c0 : Chan) : Chan :=
  let c := c0.settleHalt
  let moved : Chan :=
    match c.mode with
    | .off => c.follow inp
    | .hold => c.drive inp (pacedSpeed inp.cfg.vcue inp.pace) none c.held inp.arming
    | .halt => c.brakeTo inp inp.cfg.amax
    | .live =>
      let u := interpolate c.gPrev c.gCur (inp.tick * 4096 / inp.ticks)
      c.drive inp (pacedSpeed inp.cfg.vmax inp.pace) (some u) (cal inp.cfg.table u) false
    | .cue =>
      c.drive inp (pacedSpeed inp.cfg.vcue inp.pace) (some inp.takeValue) (cal inp.cfg.table inp.takeValue) false
    | .play => c.drive inp inp.cfg.vmax (some inp.takeValue) (cal inp.cfg.table inp.takeValue) false
    | .stop => c.brakeTo inp inp.cfg.astop
  { moved.checkDeviation inp with
    uRep := if inp.valid then inverse inp.cfg.table inp.position else 0, rested := c.mode == .halt && moved.v == 0 }

/-! ### The cursor (R162 to R164, R166, R147) -/

/-- The value limited to the cap of a take, if it has one (R163). -/
def Take.limitCursor (t : Take) (c : Nat) : Nat := t.cap.elim c (min c)

/-- The cursor R162 and R163 give for servo tick `j` of the frame in progress. -/
def State.cursorAt (s : State) (t : Take) (j : Nat) : Nat :=
  t.limitCursor (s.tpr.base + j * (s.tpr.rate.getD 0 * 32 * s.pu.applied / s.cfg.timing.s))

/-- Every index the interpolation at a cursor reads is held (R164). -/
def Take.readsHeld (t : Take) (c : Nat) : Bool :=
  match t.kind with
  | .resident => true
  | .stream => t.holds (c / 4096) && (c % 4096 == 0 || t.holds (c / 4096 + 1))

/-- The samples behind the cursor retired, with the water-mark test (R147). -/
def retire (id : Nat) (s : State) : State :=
  match s.findTake id with
  | some t =>
    let r := min t.fill (s.tpr.cursor / 4096)
    if t.kind = .stream ∧ t.retired < r then waterMark id (modTake id (fun t => { t with retired := r }) s) else s
  | none => s

/-- The take of PLAYING and EASING, none in any other activity. -/
def State.playedTake (s : State) : Option Take := if s.tpr.activity.plays then s.tpr.take.bind s.findTake else none

/-- The played take of which servo tick `j` needs an index that is not held (R164). -/
def State.underrunTake (s : State) (j : Nat) : Option Take := s.playedTake.filter fun t => !t.readsHeld (s.cursorAt t j)

/-- UNDERRUN raised with the ID of a take that is short of an index, if there is one (R164). -/
def underrunOf (short : Option Take) (s : State) : State :=
  match short with
  | some t => raiseOwn .underrun t.id s
  | none => s

/-- UNDERRUN raised when servo tick `j` needs an index that is not held (R164). -/
def raiseUnderrun (j : Nat) (s : State) : State := underrunOf (s.underrunTake j) s

/-- The cursor of a tick formed in PLAYING and EASING: the marks it reaches and the retirement behind it; the cursor of the
last tick stands when an index it needs is not held (R162 to R166, R147).  That no work of another block comes between this and
the computation of the tick is the model's choice (log entry 54). -/
def formCursor (j : Nat) (s : State) : State :=
  match s.playedTake with
  | some t =>
    let c := s.cursorAt t j
    if t.readsHeld c then retire t.id (takeMarks t.id t (c / 4096) { s with tpr.cursor := c }) else s
  | none => s

/-- The take value of a channel: sample 0 in CUE (R63), the interpolation at the cursor in PLAY (R60). -/
def State.takeValue (s : State) (i : Nat) : Nat :=
  match s.tpr.take.bind s.findTake with
  | some t =>
    if s.tpr.activity.plays then
      let n := s.tpr.cursor / 4096
      let f := s.tpr.cursor % 4096
      let a := ((s.sampleAt t n).value i).toNat
      if f = 0 then a else interpolate a ((s.sampleAt t (n + 1)).value i).toNat f
    else ((s.sampleAt t 0).value i).toNat
  | none => 0

/-! ### The computation of all channels -/

/-- What channel `i` reads at tick `j` (R52). -/
def State.tickInput (s : State) (j i : Nat) : TickInput :=
  { cfg := s.cfg.chan.get i, arming := s.ss.safety == .arming, pace := s.pu.applied, range := s.iu.ranges.get i,
    tick := j, ticks := s.cfg.timing.s, takeValue := s.takeValue i, position := (s.spl.readings.get i).position,
    valid := (s.spl.readings.get i).valid }

/-- Every channel computed once; no channel reads another's values of the tick (R59). -/
def computeChannels (j : Nat) (s : State) : State :=
  { s with chans := s.channels.foldl (fun q i => q.set i ((s.chans.get i).compute (s.tickInput j i))) s.chans }

/-- The setpoints of the tick handed to the Sensor Poller, which keeps two (R76). -/
def handHistory (s : State) : State :=
  s.channels.foldl (fun s i =>
    let c := s.chans.get i
    modReading i (fun r => { r with hist := ({ x := c.x, mode := c.mode } :: r.hist).take 2 }) s) s

/-- The drive records of a channel after a computation (R73): the one further record with ENABLE off that is due, and the
record of an output that is on.  That a channel turned off and on again since the last computed tick has both, the one with
ENABLE off first, is the model's choice (log entry 43). -/
def State.driveRecords (s : State) (i : Nat) : List DriveRecord :=
  let l := s.dlu.lines.get i
  let c := s.chans.get i
  (if l.offDue then [{ channel := i, x := c.x, v := 0, enable := false }] else []) ++
    if l.enable then [{ channel := i, x := c.x, v := c.v, enable := true }] else []

/-- The drive records sent in channel order; the record with ENABLE off is sent once (R73). -/
def sendRecords (s : State) : State :=
  { s with
    dlu := { port := s.channels.flatMap s.driveRecords, lines := s.dlu.lines.map fun l => { l with offDue := false } } }

/-- The source values of a computation as a record, with a MARK. -/
def State.sourceRecord (s : State) (mark : Nat) : Sample :=
  Sample.truncate
    { v0 := BitVec.ofNat 16 (s.chans.get 0).u, v1 := BitVec.ofNat 16 (s.chans.get 1).u,
      v2 := BitVec.ofNat 16 (s.chans.get 2).u, v3 := BitVec.ofNat 16 (s.chans.get 3).u, mark := BitVec.ofNat 8 mark }
    s.cfg.nChans

/-- The recording write of servo tick 0 (R144, R179), and the end of the recording at a full extent (R181). -/
def recordingWrite (s : State) : State :=
  match s.tpr.activity, s.tpr.take.bind s.findTake with
  | .recording, some t =>
    if t.state = .recording ∧ t.length < t.size then
      let s := storeRecord t t.length s.allChans (s.sourceRecord s.tpr.markPrev) s
      let s := modTake t.id (fun t => { t with length := t.length + 1 }) s
      if t.length + 1 = t.size then
        raise .takeFull { endRecording s with tpr.take := none, tpr.activity := .live }
      else s
    else s
  | _, _ => s

/-- The punch write of a tick at which the cursor reaches a new index (R144, R184). -/
def punchWrite (s : State) : State :=
  match s.tpr.activity, s.tpr.punch, s.tpr.take.bind s.findTake with
  | .playing, true, some t =>
    let n := s.tpr.cursor / 4096
    if s.tpr.punchIdx.elim true (fun k => decide (k < n)) then
      let s' :=
        if t.kind = .resident ∧ n < t.length then
          let r := (chanList s.tpr.punchMask).foldl
            (fun r c => r.withValue c (BitVec.ofNat 16 (s.chans.get c).u)) (s.sampleAt t n)
          storeRecord t n s.tpr.punchMask r s
        else s
      { s' with tpr.punchIdx := some n }
    else s
  | _, _, _ => s

/-- DEVIATION raised with the lowest channel whose count stands at 2 (R70). -/
def raiseDeviation (s : State) : State :=
  match s.channels.find? fun i => (s.chans.get i).dev == 2 && (s.chans.get i).mode == .play with
  | some i => raiseOwn .deviation i s
  | none => s

/-- LIMIT raised for a velocity toward an active limit line (R91). -/
def raiseLimits (s : State) : State :=
  s.channels.foldl (fun s i =>
    let l := s.dlu.lines.get i
    let v := (s.chans.get i).v
    let s := if l.low.active ∧ v < 0 then raiseFiltered .limit (2 * i) s else s
    if l.high.active ∧ 0 < v then raiseFiltered .limit (2 * i + 1) s else s) s

/-! ### The tests made after a computation -/

/-- Every channel of the CUE SET is settled (R69). -/
def State.cueSettled (s : State) : Bool := (chanList s.tpr.cueSet).all fun i => (s.chans.get i).settled

/-- The test of a running cue (R157). -/
def cueTest (s : State) : State :=
  match s.tpr.activity, s.tpr.take.bind s.findTake with
  | .cueing, some t =>
    if (chanList s.tpr.cueSet).any fun i => (s.chans.get i).settled && (s.chans.get i).clamped then
      passageToIdle .unreachable s
    else if s.cueSettled && t.cueFilled then
      completeCue .done (requestEach .hold (chanList s.tpr.cueSet) { s with tpr.activity := .cued })
    else s
  | _, _ => s

/-- The end of a take and the end of easing (R165, R168). -/
def endOfTake (s : State) : State :=
  match s.tpr.take.bind s.findTake with
  | some t =>
    let atCap := t.cap == some s.tpr.cursor
    match s.tpr.activity with
    | .playing => if s.cueSettled && atCap then passageToIdle .done s else s
    | .easing => if s.cueSettled && (atCap || s.pu.applied == 0) then passageToIdle .done s else s
    | _ => s
  | none => s

/-- The end of live control (R176). -/
def endOfLive (s : State) : State :=
  if s.tpr.activity = .live ∧ s.tpr.liveSet = 0 ∧ (s.channels.all fun i => (s.chans.get i).mode == .hold) = true then
    clearLive { s with tpr.activity := .idle }
  else s

/-- The Take Player's tests after a computed tick. -/
def playerTests (s : State) : State := endOfLive (endOfTake (cueTest s))

/-- The Safety Supervisor's test after a tick computed in STOPPING (R110). -/
def stoppingTest (s : State) : State :=
  if s.ss.safety = .stopping ∧ s.allAtRest = true then enterSecuring s else s

/-- The computation of servo tick `j` with everything that follows it (R52, R59).  An UNDERRUN that the tick's work has not
yet raised is raised after the computation, which was then made in PLAY with the held cursor (R164), and after the claims
that the computation itself raises (R70, R91; log entry 2).  That all of this, from the cursor with its marks to the tests, is
one piece, with no claim of another block between its parts, is the model's choice (log entry 54; 00_scope.md section 5.3 sets
no order). -/
def computeTick (j : Nat) (s0 : State) : State :=
  match s0.ss.safety with
  | .loading | .faulted => s0
  | _ =>
    let s := formCursor j s0
    let stopping := s.ss.safety == .stopping
    let short := s.underrunTake j
    let s := sendRecords (handHistory (computeChannels j s))
    let s := punchWrite (if j = 0 then recordingWrite s else s)
    let s := underrunOf short (raiseLimits (raiseDeviation s))
    let s := playerTests s
    if stopping then stoppingTest s else s

end Sys2Proof.Machine
end

