-- ==== Sys2Proof/Machine/FrameEvents.lean ====
section
/-! DEFINITION. The transitions a frame tick makes when a count, an age or a timer reaches its end, each as one operation
that the frame tick uses, and each as the command of its own row (chapters 1, 3, 6, 7, 9, 10, 12). -/

namespace Sys2Proof.Machine

open Sys2Proof

/-! ### Link counts (R7, R17) -/

/-- LINK-QUIET raised when the quiet-frame count stands at 8 (R17). -/
def linkQuietAtEight (s : State) : State :=
  if s.lif.quiet = Config.linkQuietFrames then raise .linkQuiet s else s

/-- The quiet-frame count at a frame tick, in every state but LOADING and PARKED (R17). -/
def countQuiet (s : State) : State :=
  match s.ss.safety with
  | .loading | .parked => s
  | _ => linkQuietAtEight { s with lif.quiet := satSucc 255 s.lif.quiet }

/-- The duplicate quiet count at a frame tick (R7). -/
def countDup (s : State) : State := { s with lif.dupQuiet := satSucc Config.quietFrames s.lif.dupQuiet }

/-! ### Overflow and roll-call (R101, R102) -/

/-- The overflow condition cleared when its quiet count stands at 32 (R102).  The count stands: R102 names no value for it
until the next refusal sets it to 0 (log entry 39). -/
def clearOverflow (s : State) : State :=
  if s.ss.overflow = true ∧ Config.quietFrames ≤ s.ss.overflowQuiet then
    { s with ss.overflow := false }
  else s

/-- The overflow quiet count at a frame tick (R102). -/
def countOverflow (s : State) : State :=
  if s.ss.overflow then clearOverflow { s with ss.overflowQuiet := satSucc Config.quietFrames s.ss.overflowQuiet } else s

/-- The ROLL of the node's own slot (R101). -/
def rollCall (s : State) : State :=
  if s.ft.frame.toNat % 16 = s.cfg.station % 16 then broadcast s.rollBody s else s

/-! ### The brake timer (R107, R111) -/

/-- The brake timer stands at 0 in a phase. -/
def State.timerEnded (s : State) (p : BrakePhase) : Bool := s.ss.timer == some { phase := p, frames := 0 }

/-- The end of the phase ENABLE (R107). -/
def endEnable (s : State) : State :=
  if s.ss.safety = .arming ∧ s.timerEnded .enable = true then
    releaseBrakes { s with ss.timer := some { phase := .release, frames := s.cfg.brakeRelease } }
  else s

/-- The end of the phase RELEASE (R107). -/
def endRelease (s : State) : State :=
  if s.ss.safety = .arming ∧ s.timerEnded .release = true then
    completeArm .done { s with ss := { s.ss with safety := .armed, timer := none } }
  else s

/-- The end of the brake-set time (R111). -/
def endBrakeSet (s : State) : State :=
  if s.ss.safety = .securing ∧ s.timerEnded .set = true then enterDisarmed s else s

/-- The brake timer at a frame tick (R107, R111). -/
def brakeTick (s : State) : State :=
  match s.ss.timer with
  | some t => endEnable (endRelease (endBrakeSet { s with ss.timer := some { t with frames := t.frames - 1 } }))
  | none => s

/-! ### Parking and restarting (R45, R202) -/

/-- A pending PARK enters PARKED when two frame ticks have come since its acceptance (R45). -/
def parkIfDue (s : State) : State := if s.ru.parkPending = true ∧ 2 ≤ s.ru.parkTicks then enterParked s else s

/-- A pending RESTART enters LOADING when two frame ticks have come since its acceptance (R202). -/
def restartIfDue (s : State) : State :=
  if s.cl.restartPending = true ∧ 2 ≤ s.cl.restartTicks then enterLoading s else s

/-- The frame ticks since an accepted PARK counted (R45). -/
def countPark (s : State) : State :=
  if s.ru.parkPending then parkIfDue { s with ru.parkTicks := satSucc 2 s.ru.parkTicks } else s

/-- The frame ticks since an accepted RESTART counted (R202). -/
def countRestart (s : State) : State :=
  if s.cl.restartPending then restartIfDue { s with cl.restartTicks := satSucc 2 s.cl.restartTicks } else s

/-! ### START and ABORT (R161, R167, R183, R185) -/

/-- Punch-in ends when easing begins (R185). -/
def endPunch (s : State) : State :=
  if s.tpr.punch then
    let s := (chanList s.tpr.punchMask).foldl (fun s i => leaveLive i s) s
    { s with tpr := { s.tpr with punch := false, punchMask := 0, punchIdx := none } }
  else s

/-- What an ABORT does to the take in use at its action frame (R167). -/
def abortTake (s : State) : State :=
  match s.tpr.activity with
  | .playing => endPunch (easeFor s.ft.frame true { s with tpr.activity := .easing })
  | .cueing | .cued => passageToIdle .cancelled s
  | _ => s

/-- The ABORT PENDING whose action frame has begun is taken; a START of the same take that acts at the same frame tick is
dropped (R161, R167). -/
def abortIfDue (s : State) : State :=
  match s.tpr.abortPend with
  | some a =>
    if a.frame = s.ft.frame then
      let s := { s with tpr.abortPend := none }
      let s := if s.tpr.startPend = some { take := a.take, frame := a.frame } then { s with tpr.startPend := none } else s
      if s.tpr.take = some a.take then abortTake s else s
    else s
  | none => s

/-- A START finds the node qualified (R161). -/
def State.qualified (s : State) (id : Nat) : Bool :=
  s.ss.safety == .armed && s.ss.claims.isEmpty && !s.ss.overflow && s.tpr.activity == .cued && s.tpr.take == some id

/-- The node enters PLAYING (R161, R166, R183). -/
def enterPlaying (id : Nat) (s : State) : State :=
  let s := { s with tpr := { s.tpr with activity := .playing, base := 0, cursor := 0 } }
  let s := requestEach .play (chanList s.tpr.cueSet) s
  let s :=
    match s.findTake id with
    | some t => takeMarks id t 0 s
    | none => s
  if s.tpr.punch then (chanList s.tpr.punchMask).foldl (fun s i => enterLive i s) s else s

/-- A START that finds the node not qualified (R161). -/
def startUnqualified (id : Nat) (s : State) : State :=
  if s.tpr.activity.plays then s
  else if (s.findTake id).isSome then
    let s := broadcast (.abort id) s
    if s.tpr.activity = .cueing ∧ s.tpr.take = some id then passageToIdle .cancelled s else s
  else s

/-- The START PENDING whose action frame has begun is taken (R161). -/
def startIfDue (s : State) : State :=
  match s.tpr.startPend with
  | some a =>
    if a.frame = s.ft.frame then
      let s := { s with tpr.startPend := none }
      if s.qualified a.take then enterPlaying a.take s else startUnqualified a.take s
    else s
  | none => s

/-! ### Live control (R173, R175, R178) -/

/-- The goal dated before frame `g` handed to the channel, with the turnover of R61 and the LIVE AGE of R175. -/
def turnGoal (g : FrameNo) (i : Nat) (s : State) : State :=
  let l := s.tpr.live.get i
  let goal := if s.tpr.liveSet.getLsbD i then getPend l.pend (g - 1) else none
  let s := modChan i (fun c =>
    let c := if goal.isSome then { c with gPend := goal } else c
    if c.mode = .live then { c with gPrev := c.gCur, gCur := c.gPend.getD c.gCur, gPend := none } else c) s
  if s.tpr.liveSet.getLsbD i then
    modLive i (fun l =>
      { age := if goal.isSome then 0 else satSucc 50 l.age, pend := dropPend l.pend (g - 1) }) s
  else s

/-- Every channel's goals brought to frame `g`. -/
def turnGoals (g : FrameNo) (s : State) : State := s.channels.foldl (fun s i => turnGoal g i s) s

/-- The live channels whose LIVE AGE has reached the live timeout leave live control (R175). -/
def timeOutLive (s : State) : State :=
  s.channels.foldl (fun s i =>
    if s.tpr.liveSet.getLsbD i = true ∧ s.cfg.liveTimeout ≤ (s.tpr.live.get i).age then
      raise .liveStale (leaveLive i s)
    else s) s

/-- The marks brought to frame `g` (R178). -/
def turnMarks (g : FrameNo) (s : State) : State :=
  { s with tpr := { s.tpr with
      markPrev := s.tpr.markCur, markCur := (getPend s.tpr.markPend (g - 1)).getD 0,
      markPend := dropPend s.tpr.markPend (g - 1) } }

/-- The cursor base of the frame that begins, from the applied pace of the frame that ends (R162, R163). -/
def advanceBase (s : State) : State :=
  match s.tpr.activity.plays, s.tpr.take.bind s.findTake with
  | true, some t => { s with tpr.base := t.limitCursor (s.tpr.base + s.tpr.rate.getD 0 * 32 * s.pu.applied) }
  | _, _ => s

/-- EASING sets the ease flag for every frame that begins (R168). -/
def easeOn (s : State) : State := if s.tpr.activity = .easing then easeFor s.ft.frame true s else s

/-! ### The commands of the rows -/

/-- A transition of the five states in which the lists and timers run, with no effect in any other state. -/
def whenOpen (f : State → State) (s : State) : Host.Outcome State Fault Refusal :=
  .next (if s.ss.safety.isOpen then f s else s)

/-- ROSTER_REMOVAL (R35). -/
def execRosterRemoval (s : State) : Host.Outcome State Fault Refusal := whenOpen removeAged s

/-- PEER_LOST (R38). -/
def execPeerLost (s : State) : Host.Outcome State Fault Refusal := whenOpen losePeers s

/-- WATCH_SLOT_UNKNOWN (R41). -/
def execWatchSlotUnknown (s : State) : Host.Outcome State Fault Refusal := whenOpen expireSlots s

/-- LEARNING_WINDOW_END (R39). -/
def execLearningWindowEnd (s : State) : Host.Outcome State Fault Refusal := whenOpen endLearning s

/-- PACE_FLOOR_RETURN (R125). -/
def execPaceFloorReturn (s : State) : Host.Outcome State Fault Refusal := whenOpen returnFloor s

/-- OVERFLOW_CLEAR (R102). -/
def execOverflowClear (s : State) : Host.Outcome State Fault Refusal := whenOpen clearOverflow s

/-- ZONE_CLEAR (R117, R118, R119). -/
def execZoneClear (s : State) : Host.Outcome State Fault Refusal := whenOpen clearZones s

/-- ESTOP_CLEAR (R120). -/
def execEstopClear (s : State) : Host.Outcome State Fault Refusal := whenOpen clearEstop s

/-- LIVE_TIMEOUT (R175). -/
def execLiveTimeout (s : State) : Host.Outcome State Fault Refusal := whenOpen timeOutLive s

/-- LINK_QUIET (R17). -/
def execLinkQuiet (s : State) : Host.Outcome State Fault Refusal :=
  .next (match s.ss.safety with
    | .loading | .parked => s
    | _ => linkQuietAtEight s)

/-- ENABLE_SETTLE_END (R107). -/
def execEnableSettleEnd (s : State) : Host.Outcome State Fault Refusal := .next (endEnable s)

/-- BRAKE_RELEASE_END (R107). -/
def execBrakeReleaseEnd (s : State) : Host.Outcome State Fault Refusal := .next (endRelease s)

/-- BRAKE_SET_END (R111). -/
def execBrakeSetEnd (s : State) : Host.Outcome State Fault Refusal := .next (endBrakeSet s)

/-- START_ACTION (R161). -/
def execStartAction (s : State) : Host.Outcome State Fault Refusal := whenOpen startIfDue s

/-- ABORT_ACTION (R167). -/
def execAbortAction (s : State) : Host.Outcome State Fault Refusal := whenOpen abortIfDue s

/-- PARK_TIMEOUT (R45). -/
def execParkTimeout (s : State) : Host.Outcome State Fault Refusal := .next (parkIfDue s)

/-- RESTART_TIMEOUT (R202). -/
def execRestartTimeout (s : State) : Host.Outcome State Fault Refusal := .next (restartIfDue s)

/-- WAKE_FRAME_TICK (R48). -/
def execWakeFrameTick (s : State) : Host.Outcome State Fault Refusal := .next (wakeIfDue s)

end Sys2Proof.Machine
end

