-- ==== Sys2Proof/Machine/FrameTimer.lean ====
section
/-! DEFINITION. The Frame Timer: the clock cycles between its events, the frame tick and the servo tick with the work of
every block, and the commands of the reference and the local generator (chapter 2). -/

namespace Sys2Proof.Machine

open Sys2Proof

/-! ### Clock cycles (R22, R24, R26) -/

/-- `a / b` rounded up. -/
def ceilDiv (a b : Nat) : Nat := (a + b - 1) / b

/-- The clock cycles until the accumulator reaches N (R22). -/
def Ft.cyclesToFrame (n : Nat) (f : Ft) : Nat := ceilDiv (n - f.acc) 8

/-- The clock cycles until S times the accumulator is at least j × N (R26). -/
def Ft.cyclesToTick (n s j : Nat) (f : Ft) : Nat := ceilDiv (j * n - s * f.acc) (8 * s)

/-- The clock cycles until the reference watch count reaches 3N/2 (R24). -/
def Ft.cyclesToLoss (n : Nat) (f : Ft) : Nat := ceilDiv (3 * n - 2 * f.watch) 16

/-- The reference watch count has not yet reached 3N/2 (R24). -/
def Ft.watching (n : Nat) (f : Ft) : Bool := decide (2 * f.watch < 3 * n)

/-- The reference is found lost (R24). -/
def loseReference (s : State) : State :=
  raise .refLost
    { s with ft := { s.ft with watch := s.ft.watch + 8 * s.ft.cyclesToLoss s.cfg.timing.n, refPresent := false } }

/-- The reference watch count after `k` clock cycles (R24). -/
def watchCycles (k : Nat) (s : State) : State :=
  if s.cfg.timing.refUse && s.ft.watching s.cfg.timing.n then
    if s.ft.cyclesToLoss s.cfg.timing.n ≤ k then loseReference s
    else { s with ft.watch := s.ft.watch + 8 * k }
  else s

/-! ### The work of a servo tick -/

/-- The sample of one drive-fault line (R89). -/
def sampleFault (active : Bool) (i : Nat) (s : State) : State :=
  let s := modLine i (fun l => { l with fault := active }) s
  if active then
    let s := if (s.dlu.lines.get i).enable then modLine i (fun l => { l with faultOff := true }) (driveOff i s) else s
    raiseFiltered .drive i s
  else s

/-- The sampling of the drive-fault lines, in every state except LOADING and FAULTED (R89). -/
def sampleFaults (l : LineLevels) (s : State) : State :=
  match s.ss.safety with
  | .loading | .faulted => s
  | _ => s.channels.foldl (fun s i => sampleFault (l.fault.getLsbD i) i s) s

/-- One sample of a limit line: the second consecutive sample that disagrees turns it (R90). -/
def LimitLine.sample (a : Bool) (l : LimitLine) : LimitLine :=
  if a = l.active then { l with run := 0 }
  else if 1 ≤ l.run then { active := a, run := 0 }
  else { l with run := l.run + 1 }

/-- The low limit line of a channel sampled. -/
def DriveLine.sampleLow (a : Bool) (l : DriveLine) : DriveLine :=
  { l with low := l.low.sample a, lowHeld := l.lowHeld && a }

/-- The high limit line of a channel sampled. -/
def DriveLine.sampleHigh (a : Bool) (l : DriveLine) : DriveLine :=
  { l with high := l.high.sample a, highHeld := l.highHeld && a }

/-- The sample of the low limit line of a channel that has one (R90, R91).  A line pressed before the node left LOADING
raises no claim on becoming active; that the node knows such a line by its samples, all active, is log entry 40. -/
def sampleLow (a : Bool) (i : Nat) (s : State) : State :=
  if (s.cfg.chan.get i).lowLimit then
    let was := (s.dlu.lines.get i).low.active
    let s := modLine i (DriveLine.sampleLow a) s
    let l := s.dlu.lines.get i
    if l.low.active && !was && !l.lowHeld then raiseFiltered .limit (2 * i) s else s
  else s

/-- The sample of the high limit line of a channel that has one (R90, R91; log entry 40). -/
def sampleHigh (a : Bool) (i : Nat) (s : State) : State :=
  if (s.cfg.chan.get i).highLimit then
    let was := (s.dlu.lines.get i).high.active
    let s := modLine i (DriveLine.sampleHigh a) s
    let l := s.dlu.lines.get i
    if l.high.active && !was && !l.highHeld then raiseFiltered .limit (2 * i + 1) s else s
  else s

/-- The sampling of the limit lines, in every state except LOADING and FAULTED (R90). -/
def sampleLimits (l : LineLevels) (s : State) : State :=
  match s.ss.safety with
  | .loading | .faulted => s
  | _ => s.channels.foldl (fun s i => sampleHigh (l.high.getLsbD i) i (sampleLow (l.low.getLsbD i) i s)) s

/-- The sampling of the E-stop pair and of the zone lines, in the five states of R116 (R116, R120). -/
def sampleSafetyLines (l : LineLevels) (s : State) : State :=
  if s.ss.safety.isOpen then sampleZones l (sampleEstop l s) else s

/-- A piece of work that only the five open states have. -/
def inOpen (f : State → State) (s : State) : State := if s.ss.safety.isOpen then f s else s

/-- What a tick's work needs of the moment before it: the cross-limit flags of the frame that ended (R132), the phase that
the brake timer was already timing (R107, R111), and what the STATE reports of that moment (R42). -/
structure TickStart where
  active : List Bool
  phase : Option BrakePhase
  report : StateReport
deriving DecidableEq, Repr

/-- The node at a moment before a tick's work. -/
def State.tickStart (s : State) : TickStart :=
  { active := s.iu.active, phase := s.ss.timer.map (·.phase), report := s.report s.shownReports }

/-- The brake timer at a frame tick (R107, R111).  A phase that has begun within this tick is counted from the next: the
drives go off at the third frame tick after the node has entered SECURING with a brake-set time of 3 (section 6.6). -/
def brakeIfBegun (before : TickStart) (s : State) : State :=
  if s.ss.timer.map (·.phase) = before.phase then brakeTick s else s

/-- One piece of the work of servo tick `j`; `before` is the moment before the tick's work. -/
def tickWork (before : TickStart) (l : LineLevels) (j : Nat) (w : TickWork) (s : State) : State :=
  match w with
  | .report => inOpen (placeState before.report) s
  | .peers => inOpen losePeers s
  | .cross => inOpen (raiseCross before.active) s
  | .conflict => inOpen raiseConflict s
  | .brake => inOpen (brakeIfBegun before) s
  | .start => inOpen startIfDue s
  | .poll => pollTick s
  | .faults => sampleFaults l s
  | .limits => sampleLimits l s
  | .zones => sampleSafetyLines l s
  | .underrun => inOpen (raiseUnderrun j) s
  | .compute => computeTick j s

/-- The work of a later servo tick. -/
def servoWork : List TickWork := [.poll, .faults, .limits, .zones, .underrun, .compute]

/-- The work of a frame tick but for the STATE. -/
def frameWork : List TickWork := .peers :: .cross :: .conflict :: .brake :: .start :: servoWork

/-- The work of a frame tick with an order: the STATE is a piece of it where the order names its place. -/
def frameWorkOf (order : List TickWork) : List TickWork :=
  if order.contains .report then .report :: frameWork else frameWork

/-- The work of a tick in the order the operand asks for: each piece the tick has, once, at its first place in the operand,
and the pieces the operand does not name last. -/
def workOrder (order work : List TickWork) : List TickWork :=
  let asked := order.foldl (fun acc w => if work.contains w && !acc.contains w then acc ++ [w] else acc) []
  asked ++ work.filter fun w => !asked.contains w

/-- The channel records of the next STATE, as the channels stand after the work of a servo tick (R42, R44; log entry 41). -/
def noteReports (s : State) : State :=
  s.channels.foldl (fun s i => modChan i (fun c => { c with shown := s.chanReport i }) s) s

/-- The work of a tick done, with the levels it samples; LOADING and FAULTED have none. -/
def doWork (before : TickStart) (l : LineLevels) (j : Nat) (ws : List TickWork) (s : State) : State :=
  match s.ss.safety with
  | .loading | .faulted => s
  | _ => noteReports (ws.foldl (fun s w => tickWork before l j w s) { s with pins.lines := l })

/-! ### The frame tick -/

/-- The frame that ends and the one that begins (R26, R27, R28). -/
def beginFrame (s : State) : State :=
  let s := if s.ft.frame0 = false ∧ s.ft.tick + 1 < s.cfg.timing.s then raise .tickSlip s else s
  { s with ft := { s.ft with frame := s.ft.frame + 1, tick := 0, guard := false, frame0 := false } }

/-- What the blocks bring to the frame that begins, in the five open states: roster, watch slots, learning window, overflow
condition, ROLL, ABORT, live goals and marks, cursor base, pace, effective ranges and zone counts. -/
def alignFrame (s : State) : State :=
  let g := s.ft.frame
  let s := learnTick (turnSlots g (removeAged (ageRoster s)))
  let s := rollCall (countOverflow s)
  let s := easeOn (abortIfDue s)
  let s := turnMarks g (timeOutLive (turnGoals g s))
  let s := paceTick g (advanceBase s)
  zoneFrameTick (formRanges s)

/-- The STATE composed before all other work of the frame tick but the Frame Timer's, unless the order names another place
for it in one of the five open states (R42, R195; log entry 2). -/
def composeFirst (before : State) (order : List TickWork) (s : State) : State :=
  if s.ss.safety.isOpen && order.contains .report then s else composeState before s

/-- The frame tick; `before` is the node at the end of the frame that ends (R28, R42). -/
def frameTick (before : State) (l : LineLevels) (order : List TickWork) (s0 : State) : State :=
  let s := countDup (countQuiet (composeFirst before order (beginFrame s0)))
  let s := countRestart (countPark s)
  match s.ss.safety with
  | .loading | .faulted => s
  | .parked => doWork before.tickStart l 0 (workOrder order servoWork) (wakeIfDue s)
  | _ => doWork before.tickStart l 0 (workOrder order (frameWorkOf order)) (alignFrame s)

/-! ### The commands -/

/-- FLYWHEEL_TICK (R22).  A loss of the reference on the way comes before the tick, and the STATE shows it (R42, R195; log
entry 4). -/
def execFlywheelTick (l : LineLevels) (order : List TickWork) (s : State) : Host.Outcome State Fault Refusal :=
  .next <|
    if s.ft.running then
      let k := s.ft.cyclesToFrame s.cfg.timing.n
      let s' := watchCycles k s
      frameTick s' l order { s' with ft.acc := s.ft.acc + 8 * k - s.cfg.timing.n }
    else s

/-- The accumulator and the watch count restarted by an edge (R23). -/
def restartFromEdge (s : State) : State := { s with ft := { s.ft with acc := 0, watch := 0, refPresent := true } }

/-- REFERENCE_EDGE (R23, R25): accepted as a frame tick in frame 0 and after servo tick 1, absorbed otherwise. -/
def execReferenceEdge (l : LineLevels) (order : List TickWork) (s : State) : Host.Outcome State Fault Refusal :=
  .next <|
    if s.ft.running && s.cfg.timing.refUse then
      if s.ft.frame0 || decide (1 ≤ s.ft.tick) then frameTick s l order (restartFromEdge s) else restartFromEdge s
    else s

/-- SERVO_TICK (R26): the next servo tick of the frame in progress, if the frame has one left. -/
def execServoTick (l : LineLevels) (order : List TickWork) (s : State) : Host.Outcome State Fault Refusal :=
  .next <|
    let j := s.ft.tick + 1
    let t := s.cfg.timing
    if s.ft.running && !s.ft.frame0 && decide (j < t.s) then
      let k := s.ft.cyclesToTick t.n t.s j
      let s' := watchCycles k s
      let s' := { s' with ft := { s'.ft with acc := s.ft.acc + 8 * k, tick := j, guard := j + 1 == t.s } }
      doWork s'.tickStart l j (workOrder order servoWork) s'
    else s

/-- REF_LOST (R24).  The accumulator moves with the watch count unless a tick falls due before the loss. -/
def execRefLost (s : State) : Host.Outcome State Fault Refusal :=
  .next <|
    let t := s.cfg.timing
    if s.ft.running && t.refUse && s.ft.watching t.n then
      let acc := s.ft.acc + 8 * s.ft.cyclesToLoss t.n
      let due := if s.ft.frame0 then t.n ≤ acc else (s.ft.tick + 1) * t.n ≤ t.s * acc
      let s' := loseReference s
      if due then s' else { s' with ft.acc := acc }
    else s

end Sys2Proof.Machine
end

