-- ==== Sys2Proof/Machine/Wire.lean ====
section
/-! DEFINITION. The layouts of chapter 13: the check, the spine message bit by bit, the payloads the node sends, the
command that a received message spells, the sensor exchanges and the drive record. -/

namespace Sys2Proof.Machine

open Sys2Proof

/-! ### Octets, bits and the check (R4, R204) -/

/-- The low `n` bits of a value, most significant first. -/
def bitsOf (n v : Nat) : List Bool := (List.range n).map fun i => v.testBit (n - 1 - i)

/-- A value in `n` octets, most significant first (R204). -/
def octetsOf (n v : Nat) : List Byte := (List.range n).map fun i => BitVec.ofNat 8 (v >>> (8 * (n - 1 - i)))

/-- A signed value in `n` octets of two's complement (R204). -/
def octetsOfInt (n : Nat) (v : Int) : List Byte := octetsOf n (v % (2 ^ (8 * n) : Nat)).toNat

/-- The octets from position `i` on read as an unsigned value of `n` octets; an octet beyond the end reads as 0. -/
def readOctets (bs : List Byte) (i n : Nat) : Nat :=
  (List.range n).foldl (fun v k => v * 256 + (bs.getD (i + k) 0).toNat) 0

/-- The same as a signed value of two's complement. -/
def readSigned (bs : List Byte) (i n : Nat) : Int := Int.bmod (readOctets bs i n) (2 ^ (8 * n))

/-- The bits that the feedback inverts: 15, 11, 9, 8, 7, 5, 4, 2, 1 and 0 (R204). -/
def crcPoly : BitVec 16 := 0x8BB7#16

/-- One input bit taken into the check register (R204). -/
def crcStep (r : BitVec 16) (b : Bool) : BitVec 16 := if b != r.getLsbD 15 then (r <<< 1) ^^^ crcPoly else r <<< 1

/-- The check over input bits in the order sent, from a register of all ones (R4, R204). -/
def crc (bits : List Bool) : BitVec 16 := bits.foldl crcStep 0xFFFF#16

/-- All eight bits of every octet. -/
def octetBits (bs : List Byte) : List Bool := bs.flatMap fun b => bitsOf 8 b.toNat

/-- The check over whole octets: a sensor-line exchange or the configuration image (R204). -/
def crcOctets (bs : List Byte) : BitVec 16 := crc (octetBits bs)

/-- Octets followed by their check. -/
def withCheck (bs : List Byte) : List Byte := bs ++ octetsOf 2 (crcOctets bs).toNat

/-! ### The spine message (R1, R2, section 13.2) -/

/-- The fields of a spine message but LENGTH, which is the number of payload octets, and CHECK. -/
structure Packet where
  cls : Nat
  source : Nat
  kind : Nat
  dest : Nat
  payload : List Byte
deriving DecidableEq, Repr

/-- The arbitration field, CLASS before SOURCE (R2). -/
def Packet.arbitration (p : Packet) : Nat := p.cls * 64 + p.source

/-- The CHECK of a message (R204). -/
def Packet.check (p : Packet) : BitVec 16 :=
  crc (bitsOf 9 p.arbitration ++ bitsOf 6 p.kind ++ bitsOf 6 p.dest ++ bitsOf 6 p.payload.length ++ octetBits p.payload)

/-- The octets after the arbitration field (R1, section 13.2). -/
def Packet.octets (p : Packet) : List Byte :=
  [BitVec.ofNat 8 p.kind, BitVec.ofNat 8 p.dest, BitVec.ofNat 8 p.payload.length] ++ p.payload ++ octetsOf 2 p.check.toNat

/-- The message as the line carries it: the start bit, the arbitration field, and each octet after a framing bit; a 0 bit is
dominant (R1). -/
def Packet.lineBits (p : Packet) : List Bool :=
  false :: bitsOf 9 p.arbitration ++ p.octets.flatMap fun b => false :: bitsOf 8 b.toNat

/-! ### What the node sends (section 13.2) -/

/-- The KIND code of a message of the node (section 13.2). -/
def Body.kindCode : Body → Nat
  | .stop _ _ => 1 | .clear _ => 2 | .pace _ => 3 | .abort _ => 4 | .state _ => 7 | .reply _ _ _ _ => 9 | .hold _ _ => 10
  | .resume _ _ => 11 | .mark _ _ _ => 13 | .roll _ _ => 14

/-- Flags as an octet, the first of them bit 0. -/
def flagOctet (fs : List Bool) : Byte := BitVec.ofNat 8 (fs.foldr (fun f v => 2 * v + f.toNat) 0)

/-- One octet. -/
def octet (v : Nat) : Byte := BitVec.ofNat 8 v

/-- A channel record of STATE (R44, section 13.2). -/
def ChanReport.octets (c : ChanReport) : List Byte :=
  octetsOf 2 c.uRep ++ [flagOctet [c.moving, c.clamped, c.halted, c.stale, c.driveOff]]

/-- The STATE payload (R43, section 13.2). -/
def StateReport.octets (r : StateReport) : List Byte :=
  [octet r.safety.code, octet r.activity.code, octet r.take] ++ octetsOf 3 r.cursor ++
    [octet r.applied, octet r.target, octet r.claims, octet r.attention, r.zones,
      flagOctet [r.refPresent, r.learning, r.overflow, r.peerMissing], octet r.chans.length] ++
    r.chans.flatMap ChanReport.octets

/-- The code of a ROLE (section 13.2). -/
def Role.code : Role → Nat
  | .node => 0
  | .control => 1

/-- The code of a KIND of take (section 13.2). -/
def TakeKind.code : TakeKind → Nat
  | .resident => 0
  | .stream => 1

/-- The code of a take's STATE; 0 stands for a free entry (section 13.2). -/
def TakeState.code : TakeState → Nat
  | .loading => 1 | .ready => 2 | .recording => 3 | .spent => 4

/-- An entry of the CLAIMS item.  That LATCHED is sent as 1 when set and 0 when clear is the model's choice (log entry 53). -/
def Claim.octets (c : Claim) : List Byte :=
  [octet c.origin, octet c.cause.code, octet c.detail, flagOctet [c.latched]]

/-- An entry of the ROSTER item. -/
def RosterEntry.octets (e : RosterEntry) : List Byte :=
  [octet e.station, octet e.role.code, flagOctet [e.pinned, e.heard, e.last.isSome], octet e.age,
    octet (e.last.elim 0 (·.safety.code)), octet (e.last.elim 0 (·.activity.code)), octet (e.last.elim 0 (·.take))]

/-- An entry of the DIRECTORY item. -/
def Take.octets (t : Take) : List Byte :=
  let stream := t.kind == .stream
  [octet t.state.code, octet t.id, octet t.kind.code, t.chanSet.setWidth 8, t.editSet.setWidth 8] ++ octetsOf 2 t.base ++
    octetsOf 2 t.size ++ [octet t.loader] ++ octetsOf 3 (if stream then t.fill else t.length) ++
    octetsOf 3 (if stream then t.retired else 0) ++ [flagOctet [t.endReceived, t.held, t.latch.isSome]] ++
    octetsOf 2 t.high ++ octetsOf 2 t.low ++ octetsOf 3 (t.latch.getD 0)

/-- The DATA of a REPLY (section 13.2); a free entry of the directory is sent as its STATE alone, every other octet 0.
That the overflow condition and the present of LATCH are sent as 1 when set and 0 when clear is the model's choice (log entry
53). -/
def ReplyData.octets : ReplyData → List Byte
  | .none => []
  | .causes cs => octet cs.length :: cs.map fun c => octet c.code
  | .opened e base => octet e :: octetsOf 2 base
  | .length n => octetsOf 2 n
  | .value v => octetsOf 4 v.toNat
  | .loading take first expected => octet take :: octetsOf 3 first ++ octetsOf 3 expected
  | .attention codes fault item => octetsOf 2 codes.toNat ++ [octet fault, octet item]
  | .counters bad failures drops => octetsOf 2 bad ++ octetsOf 2 failures ++ octetsOf 2 drops
  | .claims count overflow entries => octet count :: flagOctet [overflow] :: entries.flatMap Claim.octets
  | .roster count entry => octet count :: entry.elim [] RosterEntry.octets
  | .directory entry => entry.elim (List.replicate 24 0) Take.octets
  | .latch index => flagOctet [index.isSome] :: octetsOf 3 (index.getD 0)

/-- The payload of a message of the node (section 13.2). -/
def Body.payload : Body → List Byte
  | .stop c d => [octet c.code, octet d]
  | .clear c => [octet c.code]
  | .pace f => [octet f]
  | .abort t => [octet t]
  | .state r => r.octets
  | .reply serial code status data => serial :: octet code :: octet status.code :: data.octets
  | .hold t fill => octet t :: octetsOf 3 fill
  | .resume t fill => octet t :: octetsOf 3 fill
  | .mark t i code => octet t :: octetsOf 3 i ++ [octet code]
  | .roll f pairs => octet pairs.length :: octet f :: pairs.flatMap fun p => [octet p.1.code, octet p.2]

/-- The message of a station as the spine carries it (R2). -/
def Msg.packet (station : Nat) (m : Msg) : Packet :=
  { cls := m.body.cls, source := station, kind := m.body.kindCode, dest := m.dest, payload := m.body.payload }

/-! ### What the node receives -/

/-- The CLASS of a KIND of the catalogue (section 1.3). -/
def kindClass (kind : Nat) : Option Nat :=
  match kind with
  | 1 | 2 => some 0
  | 3 | 4 => some 1
  | 5 | 6 => some 2
  | 7 => some 3
  | 8 | 9 | 10 | 11 => some 4
  | 12 | 13 => some 5
  | 14 | 15 => some 6
  | _ => none

/-- A sample record of a node with `n` channels at octet `i` of a payload (section 13.2). -/
def readSample (n : Nat) (bs : List Byte) (i : Nat) : Sample :=
  let v := fun c => if c < n then BitVec.ofNat 16 (readOctets bs (i + 2 * c) 2) else 0
  { v0 := v 0, v1 := v 1, v2 := v 2, v3 := v 3, mark := bs.getD (i + 2 * n) 0 }

/-- The command a COMMAND message spells (R189, section 13.2); a STATUS-QUERY of an unknown ITEM and a CODE outside the
catalogue spell COMMAND_NOT_IN_CATALOGUE. -/
def commandSpelled (h : Header) (p : List Byte) : Instr :=
  let serial := p.getD 0 0
  let a := fun i => p.getD (2 + i) 0
  let w := fun i => BitVec.ofNat 16 (readOctets p (2 + i) 2)
  match (p.getD 1 0).toNat with
  | 1 => .arm h serial
  | 2 => .disarm h serial
  | 3 => .release h serial
  | 4 => .park h serial
  | 5 => .takeOpen h serial
      { id := a 0, kind := a 1, chanSet := a 2, editSet := a 3, size := w 4, high := w 6, low := w 8 }
  | 6 => .takeDelete h serial (a 0)
  | 7 => .takeRewind h serial (a 0)
  | 8 => .cue h serial (a 0) (a 1) (a 2)
  | 9 => .cueCancel h serial
  | 10 => .record h serial (a 0)
  | 11 => .recordEnd h serial
  | 12 => .punch h serial (a 0) (a 1)
  | 13 => .sensorRead h serial (a 0) (a 1)
  | 14 =>
    match (a 0).toNat with
    | 0 => .attention h serial (a 1) (a 2)
    | 1 => .counters h serial (a 1) (a 2)
    | 2 => .claims h serial (a 1) (a 2)
    | 3 => .roster h serial (a 1) (a 2)
    | 4 => .directory h serial (a 1) (a 2)
    | 5 => .latch h serial (a 1) (a 2)
    | _ => .commandNotInCatalogue h serial 14 (p.drop 2)
  | 15 => .restart h serial
  | _ => .commandNotInCatalogue h serial (p.getD 1 0) (p.drop 2)

/-- The fields of a STATE payload (section 13.2). -/
def readState (p : List Byte) : StateFields :=
  let o := fun i => p.getD i 0
  { safety := o 0, activity := o 1, take := o 2, cursor := BitVec.ofNat 24 (readOctets p 3 3), applied := o 6,
    target := o 7, claims := o 8, attention := o 9, zones := o 10, flags := o 11, count := o 12,
    chans := (List.range (o 12).toNat).map fun c =>
      (BitVec.ofNat 16 (readOctets p (13 + 3 * c) 2), o (15 + 3 * c)) }

/-- The command that an arrived message spells on a node of `n` channels, by its KIND (section 13.2). -/
def messageSpelled (n : Nat) (h : Header) (kind : Nat) (p : List Byte) : Instr :=
  let o := fun i => p.getD i 0
  match kind with
  | 1 => .stop h (o 0) (o 1)
  | 2 => .clear h (o 0)
  | 3 => .pace h (o 0)
  | 4 => .abort h (o 0)
  | 5 => .start h (o 0) (o 1)
  | 6 =>
    let mask := chanSetOf (o 0)
    .live h ((o 0).getLsbD 7) mask (o 1)
      ((List.range (maskCount mask)).map fun k => BitVec.ofNat 16 (readOctets p (2 + 2 * k) 2))
  | 7 => .state h (readState p)
  | 8 => commandSpelled h p
  | 12 =>
    .samples h (o 0) (BitVec.ofNat 24 (readOctets p 1 3)) ((o 4).getLsbD 0) (o 5)
      ((List.range (o 5).toNat).map fun k => readSample n p (6 + k * (2 * n + 1)))
  | 14 =>
    let count := BitVec.ofNat 5 (o 0).toNat
    .roll h ((o 0).getLsbD 7) count (o 1)
      ((List.range count.toNat).map fun k => (o (2 + 2 * k), o (3 + 2 * k)))
  | 15 =>
    .wake h (BitVec.ofNat 64 (readOctets p 0 8)) (BitVec.ofNat 32 (readOctets p 8 4))
      (BitVec.ofNat 32 (readOctets p 12 4)) (BitVec.ofNat 32 (readOctets p 16 4)) (BitVec.ofNat 32 (readOctets p 20 4))
  | _ => .presenceOnly h

/-- The command that a message received whole with a CHECK spells on a node of `n` channels (R5, R6).  KIND is the low six
bits of its octet (R204).  That a CLASS which is not that of the KIND makes a message bad whatever its SOURCE, 0 and 63
included, is the model's choice (log entry 51). -/
def received (n : Nat) (p : Packet) (check : BitVec 16) : Instr :=
  let h : Header :=
    { source := BitVec.ofNat 6 p.source, dest := BitVec.ofNat 6 p.dest, length := BitVec.ofNat 6 p.payload.length }
  let kind := p.kind % 64
  if check ≠ p.check then .badMessage .check
  else if kindClass kind ≠ none ∧ kindClass kind ≠ some p.cls then .badMessage .kindClass
  else messageSpelled n h kind p.payload

/-- The fields of a message from its arbitration field and the octets that follow it; bits 7 and 6 of the octets of KIND,
DEST and LENGTH are ignored (R204, section 13.2). -/
def Packet.ofOctets (arbitration : Nat) (bs : List Byte) : Packet :=
  { cls := arbitration / 64, source := arbitration % 64, kind := (bs.getD 0 0).toNat % 64, dest := (bs.getD 1 0).toNat % 64,
    payload := (bs.drop 3).take ((bs.getD 2 0).toNat % 64) }

/-- The command that the octets after an arbitration field spell on a node of `n` channels (R5, section 13.2): LENGTH above
48 is bad, as is a message of fewer octets than its LENGTH asks for. -/
def receivedOctets (n arbitration : Nat) (bs : List Byte) : Instr :=
  let length := (bs.getD 2 0).toNat % 64
  if 3 ≤ bs.length ∧ Config.maxLength < length then .badMessage .length
  else if bs.length < 5 + length then .badMessage .early
  else received n (Packet.ofOctets arbitration bs) (BitVec.ofNat 16 (readOctets bs (3 + length) 2))

/-! ### Sensor line and drive port (section 13.3) -/

/-- The request of a POLL to a channel. -/
def pollRequest (channel : Nat) : List Byte := withCheck [octet channel, 0, 0]

/-- The request of a READ of an item to a channel. -/
def readRequest (channel item : Nat) : List Byte := withCheck [octet channel, 1, octet item]

/-- What a response of `n` octets and their check is to its request.  Whether the request still stands is no part of the octets
(R78; log entry 52). -/
def answerSpelled (n : Nat) (standing : Bool) (bs : List Byte) : Answer :=
  if withCheck (bs.take n) = bs then if standing then .good else .givenUp else .badCheck

/-- The command a POLL response of seven octets spells, for a request that still stands or not. -/
def pollSpelled (standing : Bool) (bs : List Byte) : Instr :=
  .pollResponse (answerSpelled 5 standing bs) (bs.getD 0 0) (bs.getD 1 0) (BitVec.ofNat 24 (readOctets bs 2 3))

/-- The command a READ response of eight octets spells, for a request that still stands or not. -/
def readSpelled (standing : Bool) (bs : List Byte) : Instr :=
  .readResponse (answerSpelled 6 standing bs) (bs.getD 0 0) (bs.getD 1 0) (BitVec.ofNat 32 (readOctets bs 2 4))

/-- A record on the drive port (R73, section 13.3). -/
def DriveRecord.octets (r : DriveRecord) : List Byte :=
  octet ((if r.enable then 128 else 0) + r.channel) :: octetsOfInt 3 r.x ++ octetsOfInt 3 r.v

end Sys2Proof.Machine
end

