-- ==== Sys2Proof/Machine/Image.lean ====
section
/-! DEFINITION. The configuration image: its header, its records and their validation (chapter 12 and section 13.4). -/

namespace Sys2Proof.Machine

open Sys2Proof

/-- The octets of an image. -/
abbrev Image := List Byte

namespace Image

/-! ### The fields of the header and the node record (section 13.4) -/

/-- One octet of the image. -/
def at1 (img : Image) (i : Nat) : Nat := readOctets img i 1
/-- LENGTH of the header. -/
def length (img : Image) : Nat := readOctets img 0 2
/-- FORMAT VERSION of the header. -/
def version (img : Image) : Nat := at1 img 2
/-- CHECK of the header. -/
def check (img : Image) : Nat := readOctets img 3 2
def station (img : Image) : Nat := at1 img 5
def crane (img : Image) : Nat := readOctets img 6 4
def bitRate (img : Image) : Nat := at1 img 11
def ticks (img : Image) : Nat := at1 img 12
def refUse (img : Image) : Nat := at1 img 13
def periodD (img : Image) : Nat := readOctets img 14 2
def periodM (img : Image) : Nat := at1 img 16
def periodP (img : Image) : Nat := at1 img 17
def lossTimeout (img : Image) : Nat := at1 img 18
def liveTimeout (img : Image) : Nat := at1 img 19
def paceStep (img : Image) : Nat := at1 img 20
def zoneClear (img : Image) : Nat := at1 img 21
def enableSettle (img : Image) : Nat := at1 img 22
def brakeRelease (img : Image) : Nat := at1 img 23
def brakeSet (img : Image) : Nat := at1 img 24
def nControls (img : Image) : Nat := at1 img 25
def nChans (img : Image) : Nat := at1 img 26
def nPeers (img : Image) : Nat := at1 img 27
def nWatch (img : Image) : Nat := at1 img 28
def nCross (img : Image) : Nat := at1 img 29
/-- The octets of the header and the node record. -/
def fixedOctets : Nat := 30

/-- The nominal period N = D × M × P (R21). -/
def period (img : Image) : Nat := img.periodD * img.periodM * img.periodP

/-! ### Where the records stand -/

/-- The number K of points of the channel record at octet `i`. -/
def pointsAt (img : Image) (i : Nat) : Nat := at1 img (i + 21)

/-- The octets at which `n` channel records from octet `i` on begin, with the octet after the last. -/
def chanStarts (img : Image) : Nat → Nat → List Nat
  | 0, i => [i]
  | n + 1, i => i :: chanStarts img n (i + 22 + 5 * img.pointsAt i)

/-- The octet of the first channel record. -/
def chansAt (img : Image) : Nat := fixedOctets + img.nControls
/-- The octet of a channel record. -/
def chanAt (img : Image) (c : Nat) : Nat := (img.chanStarts c img.chansAt).getLastD 0
/-- The octet of the first zone record. -/
def zonesAt (img : Image) : Nat := img.chanAt img.nChans
/-- The octet of the first required peer. -/
def peersAt (img : Image) : Nat := img.zonesAt + 3 * Config.zoneLines
/-- The octet of the first watch entry. -/
def watchAt (img : Image) : Nat := img.peersAt + img.nPeers
/-- The octet of the first cross-limit entry. -/
def crossAt (img : Image) : Nat := img.watchAt + 2 * img.nWatch
/-- The octet after the last record (R198). -/
def endAt (img : Image) : Nat := img.crossAt + 12 * img.nCross

/-! ### The records -/

/-- A run of station octets. -/
def stationsAt (img : Image) (i n : Nat) : List Nat := (List.range n).map fun k => at1 img (i + k)

/-- The control stations. -/
def controls (img : Image) : List Nat := img.stationsAt fixedOctets img.nControls

/-- The required peers. -/
def peers (img : Image) : List Nat := img.stationsAt img.peersAt img.nPeers

/-- The kind of a code (section 13.4, order of R50). -/
def kindOf (code : Nat) : Option ChanKind :=
  match code with
  | 0 => some .swing | 1 => some .boom | 2 => some .reach | 3 => some .pan | 4 => some .tilt | 5 => some .roll
  | 6 => some .focus | 7 => some .iris | 8 => some .zoom | 9 => some .aux | _ => none

/-- The calibration points of the channel record at octet `i`. -/
def tableAt (img : Image) (i : Nat) : List (Nat × Int) :=
  (List.range (img.pointsAt i)).map fun k => (readOctets img (i + 22 + 5 * k) 2, readSigned img (i + 24 + 5 * k) 3)

/-- Channel record `c` (R50, section 13.4). -/
def chan (img : Image) (c : Nat) : ChanCfg :=
  let i := img.chanAt c
  let flags : Byte := img.getD (i + 1) 0
  { kind := (kindOf (at1 img i)).getD .aux, brake := flags.getLsbD 0, lowLimit := flags.getLsbD 1,
    highLimit := flags.getLsbD 2, lo := readSigned img (i + 2) 3, hi := readSigned img (i + 5) 3,
    vmax := readOctets img (i + 8) 2, vcue := readOctets img (i + 10) 2, ferrMax := readOctets img (i + 12) 2,
    ferrTicks := at1 img (i + 14), devTol := readOctets img (i + 15) 2, amax := readOctets img (i + 17) 2,
    astop := readOctets img (i + 19) 2, table := img.tableAt i }

/-- The class of a code (section 13.4). -/
def classOf (code : Nat) : Option ZoneClass :=
  match code with
  | 0 => some .none | 1 => some .stop | 2 => some .slow | _ => none

/-- Zone record `n` (R116, section 13.4). -/
def zone (img : Image) (n : Nat) : ZoneCfg :=
  let i := img.zonesAt + 3 * n
  { cls := (classOf (at1 img i)).getD .none, factor := at1 img (i + 1), high := at1 img (i + 2) == 1 }

/-- Watch entry `n` (R40, section 13.4). -/
def watch (img : Image) (n : Nat) : WatchCfg :=
  { station := at1 img (img.watchAt + 2 * n), channel := at1 img (img.watchAt + 2 * n + 1) }

/-- Cross-limit entry `n` (R129, section 13.4). -/
def cross (img : Image) (n : Nat) : CrossCfg :=
  let i := img.crossAt + 12 * n
  { channel := at1 img i, slot := at1 img (i + 1), srcLow := readOctets img (i + 2) 2, srcHigh := readOctets img (i + 4) 2,
    limLow := readSigned img (i + 6) 3, limHigh := readSigned img (i + 9) 3 }

/-- The timing values of the node record (R20). -/
def timing (img : Image) : Timing := { refUse := img.refUse == 1, n := img.period, s := img.ticks }

/-! ### Validation (R198, R199) -/

/-- A station number. -/
def isStation (v : Nat) : Bool := decide (1 ≤ v) && decide (v ≤ 62)

/-- A value lies in a range. -/
def inRange (lo hi v : Nat) : Bool := decide (lo ≤ v) && decide (v ≤ hi)

/-- One condition of the validation: its fault code and item index, and whether it holds. -/
structure Check where
  code : Nat
  item : Nat
  holds : Bool
deriving DecidableEq, Repr

/-- The station record of the node (R199, code 4), which is also the test of the spine identity flag (R198). -/
def identity (img : Image) : Bool :=
  isStation img.station && (img.bitRate == 1 || img.bitRate == 2 || img.bitRate == 4)

/-- The tests of the header and the memory's answer (R198); a memory that gives fewer octets than LENGTH has not answered. -/
def headerChecks (img : Image) : List Check :=
  [⟨1, 0, decide (5 ≤ List.length img) && img.version == 1 && inRange fixedOctets 8192 img.length &&
      decide (img.length ≤ List.length img)⟩,
    ⟨2, 0, (crcOctets ((List.take img.length img).drop 5)).toNat == img.check⟩]

/-- The timing values and times of the node record (R21, R199). -/
def timingGood (img : Image) : Bool :=
  decide (img.refUse ≤ 1) && inRange 1 65535 img.periodD && inRange 4 16 img.periodM && inRange 8 255 img.periodP &&
    (img.ticks == 4 || img.ticks == 8 || img.ticks == 16) && decide (16000 * img.ticks ≤ img.period) &&
    inRange 3 60 img.lossTimeout && inRange 2 50 img.liveTimeout && inRange 1 16 img.paceStep &&
    inRange 1 250 img.zoneClear && inRange 1 50 img.enableSettle && inRange 1 50 img.brakeRelease &&
    inRange 1 50 img.brakeSet

/-- The entries of a list of stations: each a station, not the node's own, none named twice (R199).  That of two entries with
one station the later one fails is the model's reading (log entry 46). -/
def stationChecks (code own : Nat) (l : List Nat) : List Check :=
  l.mapIdx fun i v => ⟨code, i, isStation v && v != own && !(l.take i).contains v⟩

/-- The calibration table's x values rise (R51). -/
def rising : List Int → Bool
  | a :: b :: rest => decide (a < b) && rising (b :: rest)
  | _ => true

/-- The conditions of channel record `c` in the order of R50 and R51. -/
def chanChecks (img : Image) (c : Nat) : List Check :=
  let r := img.chan c
  let ys := r.table.map (·.2)
  [⟨8, c, (kindOf (at1 img (img.chanAt c))).isSome && !(r.kind.isLens && (r.brake || r.lowLimit || r.highLimit))⟩,
    ⟨9, c, decide (r.lo < r.hi)⟩,
    ⟨10, c, decide (1 ≤ r.vmax) && inRange 1 r.vmax r.vcue && decide (1 ≤ r.ferrMax) && inRange 1 8 r.ferrTicks &&
      decide (1 ≤ r.devTol)⟩,
    ⟨11, c, inRange 1 4095 r.amax && inRange r.amax 8191 r.astop⟩,
    ⟨12, c, inRange 2 16 r.table.length && rising (r.table.map fun p => (p.1 : Int))⟩,
    ⟨13, c, rising ys || rising (ys.map fun y => -y)⟩,
    ⟨14, c, ys.all fun y => decide (r.lo ≤ y) && decide (y ≤ r.hi)⟩]

/-- The condition of zone record `n` (R116); a CLASS or POLARITY outside its codes fails it. -/
def zoneCheck (img : Image) (n : Nat) : Check :=
  let z := img.zone n
  let i := img.zonesAt + 3 * n
  ⟨15, n, (classOf (at1 img i)).isSome && decide (at1 img (i + 2) ≤ 1) &&
    (if z.cls = .slow then inRange 1 15 z.factor else z.factor == 0)⟩

/-- The condition of watch entry `n` (R199). -/
def watchCheck (img : Image) (n : Nat) : Check :=
  let w := img.watch n
  ⟨17, n, isStation w.station && w.station != img.station && decide (w.channel ≤ 3)⟩

/-- The condition of cross-limit entry `n` (R129). -/
def crossCheck (img : Image) (n : Nat) : Check :=
  let e := img.cross n
  ⟨18, n, decide (e.channel < img.nChans) && decide (e.slot < img.nWatch) && decide (e.srcLow ≤ e.srcHigh) &&
    decide (e.limLow ≤ e.limHigh)⟩

/-- The conditions up to the CHANNEL-COUNT test, in the order of the image (R199).  A count above its limit gives the first
entry beyond it; no control station at all gives item 0. -/
def firstChecks (img : Image) : List Check :=
  [⟨3, 0, img.endAt == img.length⟩, ⟨4, 0, img.identity⟩, ⟨5, 0, img.timingGood⟩,
    ⟨6, if img.nControls = 0 then 0 else 2, inRange 1 2 img.nControls⟩] ++
    stationChecks 6 img.station img.controls ++ [⟨7, 0, inRange 1 4 img.nChans⟩]

/-- The conditions after the CHANNEL-COUNT test (R199). -/
def laterChecks (img : Image) : List Check :=
  (List.range img.nChans).flatMap img.chanChecks ++ (List.range Config.zoneLines).map img.zoneCheck ++
    ⟨16, 16, decide (img.nPeers ≤ 16)⟩ :: stationChecks 16 img.station img.peers ++
    ⟨17, 8, decide (img.nWatch ≤ 8)⟩ :: (List.range img.nWatch).map img.watchCheck ++
    ⟨18, 12, decide (img.nCross ≤ 12)⟩ :: (List.range img.nCross).map img.crossCheck

/-- The first condition of a list that fails. -/
def failure (l : List Check) : Option Check := l.find? fun c => !c.holds

/-- The header passes the first two tests, so that the node record is intact (R198). -/
def intact (img : Image) : Bool := (failure img.headerChecks).isNone

/-- The image passes the CHANNEL-COUNT test (R151, R199). -/
def countsGood (img : Image) : Bool := img.intact && (failure img.firstChecks).isNone

/-- The first failure of R198 and R199, none for a valid image. -/
def verdict (img : Image) : Option Check :=
  match failure img.headerChecks with
  | some c => some c
  | none =>
    match failure img.firstChecks with
    | some c => some c
    | none => failure img.laterChecks

/-! ### The configuration an image gives -/

/-- The configuration of a valid image (R201). -/
def config (img : Image) : NodeCfg :=
  { station := img.station, crane := BitVec.ofNat 32 img.crane, bitRate := img.bitRate, timing := img.timing,
    lossTimeout := img.lossTimeout, liveTimeout := img.liveTimeout, paceStep := img.paceStep,
    zoneClearTime := img.zoneClear, enableSettle := img.enableSettle, brakeRelease := img.brakeRelease,
    brakeSet := img.brakeSet, controls := img.controls, controlsKnown := true, nChans := img.nChans,
    chan := (List.range img.nChans).foldl (fun q c => q.set c (img.chan c)) (Quad.fill ChanCfg.absent),
    zones := (List.range Config.zoneLines).map img.zone, peers := img.peers,
    watch := (List.range img.nWatch).map img.watch, cross := (List.range img.nCross).map img.cross }

end Image

end Sys2Proof.Machine
end

