-- ==== Sys2Proof/Machine/StartUp.lean ====
section
/-! DEFINITION. RESET, the read of the configuration image and the two ways out of LOADING (chapter 12). -/

namespace Sys2Proof.Machine

open Sys2Proof

/-- RESET (R197): every block at its RESET column.  The commands that wait are the environment's and stand. -/
def execReset (s : State) : Host.Outcome State Fault Refusal := .next { State.reset with pending := s.pending }

/-- RESET_RELEASE (R197): the read of the image begins. -/
def execResetRelease (s : State) : Host.Outcome State Fault Refusal :=
  .next (if s.pins.resetLine then { s with cl.read := .reading, pins.resetLine := false } else s)

/-- The Frame Timer as it starts (R20): frame 0 is in progress. -/
def Ft.started : Ft := { Ft.reset with running := true, frame0 := true }

/-- A take kept through a RESTART: HELD is cleared without a RESUME (R151). -/
def Take.kept (t : Take) : Take := { t with held := false }

/-- The store decided at the CHANNEL-COUNT test of an image with `n` channels (R150, R151). -/
def Ts.settle (n : Nat) (ts : Ts) : Ts :=
  match ts.width with
  | none => { ts with width := some n }
  | some w => if w = n then { ts with dir := ts.dir.map (·.map Take.kept) } else { Ts.reset with width := some n }

/-- What a FAULTED node keeps of an image whose validation stopped with a fault code (R20, R200): the station and bit rate
when the spine identity flag is set, the validated timing from code 6 on, the control stations from code 7 on.  The channel
values of the last valid image stand (R75). -/
def faultedCfg (img : Image) (code : Nat) (spineId : Bool) (last : NodeCfg) : NodeCfg :=
  { NodeCfg.none with
    station := if spineId then img.station else 0
    bitRate := if spineId then img.bitRate else 0
    timing := if 6 ≤ code then img.timing else Timing.fallback
    controls := if 7 ≤ code then img.controls else []
    controlsKnown := decide (7 ≤ code)
    nChans := last.nChans
    chan := last.chan }

/-- The passage to FAULTED (R200): every block at its RESET values and the Frame Timer started.  Line idle is kept and the
receiver does not wait (log entry 36). -/
def enterFaulted (code item : Nat) (spineId : Bool) (cfg : NodeCfg) (ts : Ts) (s : State) : State :=
  { State.reset with
    lif := { Lif.reset with lineIdle := s.lif.lineIdle }
    ft := Ft.started
    ss := { Ss.reset with safety := .faulted }
    ts := ts
    attention := s.attention
    cl := { Cl.reset with read := .done, fault := code, item := item, spineId := spineId }
    cfg := cfg
    pins := s.pins
    pending := s.pending }

/-- The passage to DISARMED with a valid image (R201): the "Leaving LOADING" columns of the blocks' tables.  Line idle is
kept and the receiver does not wait (log entry 36). -/
def leaveLoading (cfg : NodeCfg) (ts : Ts) (s : State) : State :=
  let s' : State :=
    { State.reset with
      lif := { Lif.reset with lineIdle := s.lif.lineIdle }
      ft := Ft.started
      ss := { Ss.reset with safety := .disarmed }
      iu := iuAllActive cfg
      ts := ts
      attention := s.attention
      cl := { Cl.reset with read := .done, spineId := true }
      cfg := cfg
      pins := s.pins
      pending := s.pending }
  { s' with ru := { Ru.reset with roster := s'.pinnedRoster, learning := Config.learningFrames } }

/-- The end of a read that gave these octets (R198 to R201). -/
def readEnds (img : Image) (s : State) : State :=
  let ts := if img.countsGood then Ts.settle img.nChans s.ts else s.ts
  match img.verdict with
  | none => leaveLoading img.config ts s
  | some c =>
    let spineId := img.intact && img.identity
    enterFaulted c.code c.item spineId (faultedCfg img c.code spineId s.cfg) ts s

/-- What ends a read, with no effect while no read is in progress (R197). -/
def whileReading (f : State → State) (s : State) : Host.Outcome State Fault Refusal :=
  .next (if s.cl.read = .reading then f s else s)

/-- LEAVING_LOADING (R201): the octets read decide how the read ends. -/
def execLeavingLoading (image : List Byte) (s : State) : Host.Outcome State Fault Refusal :=
  whileReading (readEnds image) s

/-- FAULTED (R200): the octets read decide how the read ends. -/
def execFaulted (image : List Byte) (s : State) : Host.Outcome State Fault Refusal := whileReading (readEnds image) s

/-- NO_IMAGE (R198): no octet has been read. -/
def execNoImage (s : State) : Host.Outcome State Fault Refusal := whileReading (readEnds []) s

end Sys2Proof.Machine
end

