-- ==== Sys2Proof/Machine/Messages.lean ====
section
/-! DEFINITION. The messages of other stations: the tests every arrival meets, and the kinds other than COMMAND
(chapters 1, 3, 6 to 10 and 13). -/

namespace Sys2Proof.Machine

open Sys2Proof

/-! ### Arrival (R5 to R9, R18, R34) -/

/-- What a valid message from another station does whatever its kind (R6, R17, R34). -/
def validFrom (station : Nat) (s : State) : State := reportStation station { s with lif.quiet := 0 }

/-- The arrival of a message with a good CHECK and the CLASS of its kind (R5, R6, R7, R9, R18).  `parked` is what a parked
node does with it, `deliver` what follows its report as a valid message. -/
def arrive (h : Header) (parked deliver : State → State) (s : State) : State :=
  let s := lineBusy s
  let source := h.source.toNat
  if s.deaf || s.lif.rxWait then s
  else if Config.maxLength < h.length.toNat then countBad s
  else if source = 0 ∨ source = 63 then s
  else if s.ss.safety = .parked then parked s
  else if source = s.cfg.station then impostor s
  else deliver (validFrom source s)

/-- DEST is 0 or the node's own station (R8). -/
def State.addressed (s : State) (h : Header) : Bool := h.dest.toNat == 0 || h.dest.toNat == s.cfg.station

/-- A kind delivered in the five open states, when its LENGTH is that of its payload (R9, R205). -/
def deliverOpen (h : Header) (length : Nat) (f : State → State) (s : State) : State :=
  if s.ss.safety.isOpen = true ∧ h.length.toNat = length then f s else s

/-- A message of a broadcast kind. -/
def broadcastKind (h : Header) (length : Nat) (f : State → State) (s : State) : Host.Outcome State Fault Refusal :=
  .next (arrive h id (deliverOpen h length f) s)

/-- A message of an addressed kind (R8). -/
def addressedKind (h : Header) (length : State → Nat) (f : State → State) (s : State) : Host.Outcome State Fault Refusal :=
  .next (arrive h id (fun s => if s.addressed h then deliverOpen h (length s) f s else s) s)

/-- PRESENCE_ONLY (R8): REPLY, HOLD, RESUME, MARK and unknown kinds. -/
def execPresenceOnly (h : Header) (s : State) : Host.Outcome State Fault Refusal := .next (arrive h id id s)

/-! ### Claims and pace (R97 to R99, R123) -/

/-- A claim of a message applied, if its cause is one that the SOURCE may state (R97). -/
def takeClaim (o cause detail : Nat) (s : State) : State :=
  (s.admittedCause o cause).elim s fun c => remoteClaim o c detail s

/-- STOP (R97). -/
def execStop (h : Header) (cause detail : Byte) (s : State) : Host.Outcome State Fault Refusal :=
  broadcastKind h stopLength (takeClaim h.source.toNat cause.toNat detail.toNat) s

/-- An entry of a station taken back (R98). -/
def takeClear (o cause : Nat) (s : State) : State :=
  (Cause.ofCode cause).elim s fun c => { s with ss.claims := removeClaim s.ss.claims o c }

/-- CLEAR (R98). -/
def execClear (h : Header) (cause : Byte) (s : State) : Host.Outcome State Fault Refusal :=
  broadcastKind h clearLength (takeClear h.source.toNat cause.toNat) s

/-- The causes a ROLL of station `o` states, applied or refused (R99). -/
def State.rollCauses (s : State) (o : Nat) (pairs : List (Byte × Byte)) : List Cause :=
  pairs.filterMap fun p => s.admittedCause o p.1.toNat

/-- The claims of a ROLL (R99). -/
def takeRoll (o : Nat) (more : Bool) (pairs : List (Byte × Byte)) (s : State) : State :=
  let stated := s.rollCauses o pairs
  let s := pairs.foldl (fun s p => takeClaim o p.1.toNat p.2.toNat s) s
  if more then s
  else { s with ss.claims := s.ss.claims.filter fun e => e.origin != o || stated.contains e.cause }

/-- ROLL (R99, R123): the claims go to the Safety Supervisor and the factor to the Pace Unit. -/
def execRoll (h : Header) (more : Bool) (count : BitVec 5) (factor : Byte) (pairs : List (Byte × Byte)) (s : State) :
    Host.Outcome State Fault Refusal :=
  broadcastKind h (rollLength count) (fun s =>
    if count.toNat ≤ maxRollCount then
      takeFactor h.source.toNat factor.toNat s.dateNow (takeRoll h.source.toNat more (pairs.take count.toNat) s)
    else s) s

/-- PACE (R123). -/
def execPace (h : Header) (factor : Byte) (s : State) : Host.Outcome State Fault Refusal :=
  broadcastKind h paceLength (fun s => takeFactor h.source.toNat factor.toNat s.dateNow s) s

/-! ### START and ABORT (R160, R167) -/

/-- An ABORT of take `id` dated `d` (R167). -/
def takeAbort (id : Nat) (d : FrameNo) (s : State) : State :=
  let live := s.tpr.activity == .cueing || s.tpr.activity == .cued || s.tpr.activity == .playing
  let standing := s.tpr.abortPend.elim false fun a => a.take == id
  if id ≠ 0 ∧ live = true ∧ s.tpr.take = some id ∧ standing = false then
    { s with tpr.abortPend := some { take := id, frame := d + 1 } }
  else s

/-- ABORT (R167). -/
def execAbort (h : Header) (take : Byte) (s : State) : Host.Outcome State Fault Refusal :=
  broadcastKind h abortLength (fun s => takeAbort take.toNat s.dateNow s) s

/-- The lead of a START, clamped to 2 … 60 (R160). -/
def clampLead (lead : Nat) : Nat := max 2 (min 60 lead)

/-- A START of take `id` from station `o`, dated `d` (R160). -/
def takeStart (o id lead : Nat) (d : FrameNo) (s : State) : State :=
  if s.isControl o = true ∧ id ≠ 0 then
    { s with tpr.startPend := some { take := id, frame := d + BitVec.ofNat 32 (clampLead lead) } }
  else s

/-- START (R160). -/
def execStart (h : Header) (take lead : Byte) (s : State) : Host.Outcome State Fault Refusal :=
  broadcastKind h startLength (fun s => takeStart h.source.toNat take.toNat lead.toNat s.dateNow s) s

/-! ### LIVE (R171, R172, R174, R178) -/

/-- The channels the activity admits to live control (R171). -/
def State.admitted (s : State) : ChanSet :=
  match s.tpr.activity with
  | .idle | .live | .recording => s.allChans
  | .cueing | .cued | .easing => s.tpr.override
  | .playing => s.tpr.override ||| (if s.tpr.punch then s.tpr.punchMask else 0)

/-- A goal of a channel: it enters the LIVE SET if it is not in it, and the value waits for its date (R172). -/
def takeGoal (d : FrameNo) (i v : Nat) (s : State) : State :=
  let s := if s.tpr.liveSet.getLsbD i then s else enterLive i s
  modLive i (fun l => { l with pend := setPend l.pend d v }) s

/-- A channel released from live control (R174). -/
def releaseLive (i : Nat) (s : State) : State := if s.tpr.liveSet.getLsbD i then leaveLive i s else s

/-- A MARK taken with its date (R178). -/
def takeMark (d : FrameNo) (mark : Nat) (s : State) : State := { s with tpr.markPend := setPend s.tpr.markPend d mark }

/-- A LIVE from station `o`, dated `d` (R171, R172, R174, R178).  That in LIVE and RECORDING the MARK of one with ENABLE set and
no applicable channel is taken is the model's reading (log entry 48). -/
def takeLive (o : Nat) (d : FrameNo) (enable : Bool) (mask : ChanSet) (mark : Nat) (values : List U16) (s : State) : State :=
  if s.isControl o = false ∨ s.ss.safety ≠ .armed then s
  else
    let applicable := chanList (mask &&& s.allChans &&& s.admitted)
    let s :=
      if enable then
        let s := applicable.foldl (fun s i => takeGoal d i (liveValue mask values i) s) s
        if s.tpr.activity = .idle ∧ applicable ≠ [] then { s with tpr.activity := .live } else s
      else applicable.foldl (fun s i => releaseLive i s) s
    match s.tpr.activity with
    | .live | .recording => takeMark d mark s
    | _ => s

/-- LIVE (R171). -/
def execLive (h : Header) (enable : Bool) (mask : ChanSet) (mark : Byte) (values : List U16) (s : State) :
    Host.Outcome State Fault Refusal :=
  addressedKind h (fun _ => liveLength mask)
    (fun s => takeLive h.source.toNat s.dateNow enable mask mark.toNat values s) s

/-! ### STATE and WAKE (R36, R47) -/

/-- STATE (R36, R38, R40); a field outside its range leaves the message without effect (R205). -/
def execState (h : Header) (f : StateFields) (s : State) : Host.Outcome State Fault Refusal :=
  broadcastKind h (stateLength f.count) (fun s =>
    match Published.ofCode f.safety.toNat, Activity.ofCode f.activity.toNat with
    | some p, some a => if f.count.toNat ≤ Config.maxChans then takeState h.source.toNat s.dateNow f p a s else s
    | _, _ => s) s

/-- A WAKE matches (R47). -/
def State.wakeMatches (s : State) (o : Nat) (mask : BitVec 64) (cranes : List (BitVec 32)) : Bool :=
  s.isControl o && mask.getLsbD s.cfg.station && cranes.all fun c => c == s.cfg.crane

/-- A WAKE that a parked node receives, dated `d` (R47); one that already waits stands. -/
def takeWake (o : Nat) (d : FrameNo) (mask : BitVec 64) (cranes : List (BitVec 32)) (s : State) : State :=
  if s.wakeMatches o mask cranes = true ∧ s.ru.wake = none then { s with ru.wake := some (d + 1) } else s

/-- WAKE (R18, R47); a node that is not parked does not deliver it (R8). -/
def execWake (h : Header) (mask : BitVec 64) (crane0 crane1 crane2 crane3 : BitVec 32) (s : State) :
    Host.Outcome State Fault Refusal :=
  .next (arrive h
    (fun s => if h.length.toNat = wakeLength then
      takeWake h.source.toNat s.dateNow mask [crane0, crane1, crane2, crane3] s else s)
    id s)

/-! ### SAMPLES (R141 to R143) -/

/-- An error REPLY of sample loading (R142). -/
def loadError (o take first expected : Nat) (status : Status) (s : State) : State :=
  reply { serial := 0, station := o } codeLoading status (.loading take first expected) s

/-- The index a take expects next (R142). -/
def Take.expected (t : Take) : Nat :=
  match t.kind with
  | .resident => t.length
  | .stream => t.fill

/-- A take accepts samples in its STATE (R142). -/
def Take.loads (t : Take) : Bool :=
  t.state == .loading &&
    match t.kind with
    | .resident => true
    | .stream => !t.endReceived

/-- `count` more records fit (R142). -/
def Take.fits (t : Take) (first count : Nat) : Bool :=
  match t.kind with
  | .resident => decide (first + count ≤ t.size)
  | .stream => decide (t.fill + count - t.retired ≤ t.size) && decide (t.fill + count ≤ Config.maxIndex)

/-- The take after `next` is the index it expects, with the END flag of the message (R143). -/
def Take.loaded (next : Nat) (last : Bool) (t : Take) : Take :=
  match t.kind with
  | .resident => { t with length := next, state := if last then .ready else t.state }
  | .stream => { t with fill := next, endReceived := t.endReceived || last }

/-- The records of a SAMPLES stored from an index on (R143, R145). -/
def storeRecords (t : Take) (first : Nat) (rs : List Sample) (s : State) : State :=
  (rs.foldl (fun (p : Nat × State) r =>
    (p.1 + 1, storeRecord t p.1 p.2.allChans (r.truncate p.2.cfg.nChans) p.2)) (first, s)).2

/-- A SAMPLES that passes its tests is stored (R143), with the water-mark test of R148 and the cue test of R157.  That a HOLD
is placed before the completion of the cue is the model's choice (log entry 42). -/
def storeSamples (t : Take) (first : Nat) (last : Bool) (rs : List Sample) (s : State) : State :=
  let s := modTake t.id (Take.loaded (first + rs.length) last) (storeRecords t first rs s)
  let s := waterMark t.id s
  if s.tpr.take = some t.id then cueTest s else s

/-- A SAMPLES from a control station (R142, R143). -/
def takeSamples (o id first : Nat) (last : Bool) (rs : List Sample) (s : State) : State :=
  match s.findTake id with
  | none => loadError o id first 0 .noTake s
  | some t =>
    if t.loader ≠ o then loadError o id first 0 .refused s
    else if t.loads = false then loadError o id first 0 .refused s
    else if first ≠ t.expected then loadError o id first t.expected .gap s
    else if t.fits first rs.length = false then loadError o id first t.expected .full s
    else if last = true ∧ first + rs.length = 0 then loadError o id first t.expected .badArg s
    else if last = false ∧ rs = [] then s
    else storeSamples t first last rs s

/-- SAMPLES (R141). -/
def execSamples (h : Header) (take : Byte) (first : U24) (last : Bool) (count : Byte) (records : List Sample) (s : State) :
    Host.Outcome State Fault Refusal :=
  addressedKind h (fun s => samplesLength s.cfg.nChans count) (fun s =>
    if count.toNat ≤ maxSamplesCount s.cfg.nChans ∧ s.isControl h.source.toNat = true then
      takeSamples h.source.toNat take.toNat first.toNat last (records.take count.toNat) s
    else s) s

end Sys2Proof.Machine
end

