-- ==== Sys2Proof/Machine/Commands.lean ====
section
/-! DEFINITION. COMMAND messages: the tests of the Command Unit and the commands of the Safety Supervisor, the Roster Unit,
the Sensor Poller and the Configuration Loader (chapters 3, 5, 6, 11, 12). -/

namespace Sys2Proof.Machine

open Sys2Proof

/-! ### The Command Unit's tests (R189, R205) -/

/-- The access check is passed by a station (R189): in FAULTED without a validated control-station list, by every one. -/
def State.mayCommand (s : State) (station : Nat) : Bool :=
  s.isControl station || (s.ss.safety == .faulted && !s.cfg.controlsKnown)

/-- The safety state admits a command (R189): FAULTED admits STATUS-QUERY and RESTART alone. -/
def State.admits (s : State) (code : Nat) : Bool :=
  s.ss.safety.isOpen || (s.ss.safety == .faulted && (code == codeStatusQuery || code == codeRestart))

/-- The status of the first test of R189 that fails, none when every test passes. -/
def State.gate (s : State) (station code : Nat) : Option Status :=
  if s.mayCommand station = false then some .notControl
  else if argOctets code = none then some .badArg
  else if s.admits code = false then some .refused
  else if (s.ru.parkPending || s.cl.restartPending) = true ∧ code ≠ codeStatusQuery then some .busy
  else none

/-- A COMMAND delivered to the Command Unit (R189, R205): the tests, then LENGTH, then the owner. -/
def commandUnit (who : Slot) (code length : Nat) (owner : State → State) (s : State) : State :=
  match s.gate who.station code with
  | some st => reply who code st .none s
  | none => if argOctets code = some (length - 2) then owner s else reply who code .badArg .none s

/-- The arrival of a COMMAND (R8, R9, R205): one with LENGTH below 2 is not delivered. -/
def command (h : Header) (serial : Byte) (code : Nat) (owner : Slot → State → State) (s : State) :
    Host.Outcome State Fault Refusal :=
  let who : Slot := { serial := serial, station := h.source.toNat }
  .next (arrive h id
    (fun s => if s.addressed h = true ∧ 2 ≤ h.length.toNat then commandUnit who code h.length.toNat (owner who) s else s) s)

/-- COMMAND_NOT_IN_CATALOGUE (R189, R205): a CODE outside the catalogue, or a STATUS-QUERY of an unknown ITEM (R192).  Its
answer is the status of the first test that fails, and BAD-ARG when none does. -/
def execCommandNotInCatalogue (h : Header) (serial code : Byte) (_args : List Byte) (s : State) :
    Host.Outcome State Fault Refusal :=
  command h serial code.toNat (fun who s => reply who code.toNat .badArg .none s) s

/-! ### Safety Supervisor (R103, R106, R112) -/

/-- The first test of ARM that fails in DISARMED (R106). -/
def State.armRefusal (s : State) : Option Status :=
  if s.ss.claims ≠ [] ∨ s.ss.overflow = true then some .claims
  else if s.ru.learning ≠ 0 then some .learning
  else if s.peersReady = false then some .missing
  else if s.readingsReady = false then some .sensor
  else none

/-- ARM accepted (R106). -/
def acceptArm (who : Slot) (s : State) : State :=
  let s := { s with ss := { s.ss with
    safety := .arming, timer := some { phase := .enable, frames := s.cfg.enableSettle }, armPending := some who } }
  reply who codeArm .accepted .none (enableAll s)

/-- ARM at its owner (R106). -/
def armCommand (who : Slot) (s : State) : State :=
  match s.ss.safety with
  | .disarmed =>
    match s.armRefusal with
    | some st => reply who codeArm st .none s
    | none => acceptArm who s
  | .arming => reply who codeArm (if s.ss.armPending.isSome then .busy else .refused) .none s
  | _ => reply who codeArm .refused .none s

/-- ARM (R106). -/
def execArm (h : Header) (serial : Byte) (s : State) : Host.Outcome State Fault Refusal :=
  command h serial codeArm armCommand s

/-- DISARM accepted (R112). -/
def acceptDisarm (who : Slot) (s : State) : State :=
  enterSecuring (stopAll (reply who codeDisarm .accepted .none { s with ss.disarmPending := some who }))

/-- DISARM at its owner (R112). -/
def disarmCommand (who : Slot) (s : State) : State :=
  match s.ss.safety with
  | .armed =>
    if s.tpr.activity = .idle ∧ s.allAtRest = true then acceptDisarm who s else reply who codeDisarm .moving .none s
  | .securing => reply who codeDisarm (if s.ss.disarmPending.isSome then .busy else .refused) .none s
  | _ => reply who codeDisarm .refused .none s

/-- DISARM (R112). -/
def execDisarm (h : Header) (serial : Byte) (s : State) : Host.Outcome State Fault Refusal :=
  command h serial codeDisarm disarmCommand s

/-- The own latched entry of a cause is removed if its condition is absent (R103). -/
def releaseCause (c : Cause) (s : State) : State :=
  match findClaim s.ss.claims s.cfg.station c with
  | some e => if e.latched = true ∧ s.releasable c = true then withdrawOwn c s else s
  | none => s

/-- RELEASE at its owner (R103). -/
def releaseCommand (who : Slot) (s : State) : State :=
  let s := Cause.all.foldl (fun s c => releaseCause c s) s
  reply who codeRelease .done (.causes (s.ownClaims.map (·.cause))) s

/-- RELEASE (R103). -/
def execRelease (h : Header) (serial : Byte) (s : State) : Host.Outcome State Fault Refusal :=
  command h serial codeRelease releaseCommand s

/-! ### PARK and RESTART (R45, R202) -/

/-- PARK at its owner (R45). -/
def parkCommand (who : Slot) (s : State) : State :=
  if s.ss.safety = .disarmed then
    reply who codePark .done .none { s with ru := { s.ru with parkPending := true, parkTicks := 0 } }
  else reply who codePark .refused .none s

/-- PARK (R45). -/
def execPark (h : Header) (serial : Byte) (s : State) : Host.Outcome State Fault Refusal :=
  command h serial codePark parkCommand s

/-- RESTART at its owner (R202). -/
def restartCommand (who : Slot) (s : State) : State :=
  if s.ss.safety = .disarmed ∨ s.ss.safety = .faulted then
    reply who codeRestart .done .none { s with cl := { s.cl with restartPending := true, restartTicks := 0 } }
  else reply who codeRestart .refused .none s

/-- RESTART (R202). -/
def execRestart (h : Header) (serial : Byte) (s : State) : Host.Outcome State Fault Refusal :=
  command h serial codeRestart restartCommand s

/-! ### SENSOR-READ (R83, R84) -/

/-- SENSOR-READ at its owner (R83). -/
def sensorReadCommand (channel item : Nat) (who : Slot) (s : State) : State :=
  if s.spl.read.isSome then reply who codeSensorRead .busy .none s
  else if s.cfg.nChans ≤ channel ∨ 15 < item then reply who codeSensorRead .badArg .none s
  else
    readTakesLineNow (reply who codeSensorRead .accepted .none
      { s with spl.read := some { slot := who, channel := channel, item := item } })

/-- SENSOR_READ (R83). -/
def execSensorRead (h : Header) (serial channel item : Byte) (s : State) : Host.Outcome State Fault Refusal :=
  command h serial codeSensorRead (sensorReadCommand channel.toNat item.toNat) s

/-! ### STATUS-QUERY (R192 to R194) -/

/-- The ATTENTION item (R193): the codes shown are removed with CLEAR set, before the reply is placed (R196). -/
def attentionQuery (clear : Bool) (who : Slot) (s : State) : State :=
  let faulted := s.ss.safety == .faulted
  let data := ReplyData.attention s.attention (if faulted then s.cl.fault else 0) (if faulted then s.cl.item else 0)
  reply who codeStatusQuery .done data (if clear then { s with attention := 0 } else s)

/-- ATTENTION (R193). -/
def execAttention (h : Header) (serial _start clear : Byte) (s : State) : Host.Outcome State Fault Refusal :=
  command h serial codeStatusQuery (attentionQuery (clearFlag clear)) s

/-- The COUNTERS item (R193). -/
def countersQuery (who : Slot) (s : State) : State :=
  reply who codeStatusQuery .done (.counters s.lif.badMessages s.lif.txFailures s.lif.txDrops) s

/-- COUNTERS (R193). -/
def execCounters (h : Header) (serial _start _clear : Byte) (s : State) : Host.Outcome State Fault Refusal :=
  command h serial codeStatusQuery countersQuery s

/-- The CLAIMS item (R194). -/
def claimsQuery (start : Nat) (who : Slot) (s : State) : State :=
  reply who codeStatusQuery .done
    (.claims s.ss.claims.length s.ss.overflow ((s.ss.claims.drop start).take 8)) s

/-- CLAIMS (R194). -/
def execClaims (h : Header) (serial start _clear : Byte) (s : State) : Host.Outcome State Fault Refusal :=
  command h serial codeStatusQuery (claimsQuery start.toNat) s

/-- The ROSTER item (R194). -/
def rosterQuery (start : Nat) (who : Slot) (s : State) : State :=
  reply who codeStatusQuery .done (.roster s.ru.roster.length s.ru.roster[start]?) s

/-- ROSTER (R194). -/
def execRoster (h : Header) (serial start _clear : Byte) (s : State) : Host.Outcome State Fault Refusal :=
  command h serial codeStatusQuery (rosterQuery start.toNat) s

/-- The DIRECTORY item (R194). -/
def directoryQuery (start : Nat) (who : Slot) (s : State) : State :=
  if Config.dirSize ≤ start then reply who codeStatusQuery .badArg .none s
  else reply who codeStatusQuery .done (.directory (s.ts.dir[start]?.join)) s

/-- DIRECTORY (R194). -/
def execDirectory (h : Header) (serial start _clear : Byte) (s : State) : Host.Outcome State Fault Refusal :=
  command h serial codeStatusQuery (directoryQuery start.toNat) s

/-- The LATCH item (R194): the LATCH shown is emptied with CLEAR set. -/
def latchQuery (take : Nat) (clear : Bool) (who : Slot) (s : State) : State :=
  match s.findTake take with
  | none => reply who codeStatusQuery .noTake .none s
  | some t =>
    reply who codeStatusQuery .done (.latch t.latch)
      (if clear then modTake take (fun t => { t with latch := none }) s else s)

/-- LATCH (R194). -/
def execLatch (h : Header) (serial start clear : Byte) (s : State) : Host.Outcome State Fault Refusal :=
  command h serial codeStatusQuery (latchQuery start.toNat (clearFlag clear)) s

end Sys2Proof.Machine
end

