-- ==== Sys2Proof/Machine/TakeCommands.lean ====
section
/-! DEFINITION. The commands of the Take Store and of the Take Player and Recorder (chapters 8, 9, 10). -/

namespace Sys2Proof.Machine

open Sys2Proof

/-! ### Take Store (R137 to R140) -/

/-- The KIND a TAKE-OPEN names (section 13.2). -/
def TakeKind.ofCode (b : Byte) : Option TakeKind := if b = 0 then some .resident else if b = 1 then some .stream else none

/-- A set lies within another. -/
def within (a b : ChanSet) : Bool := a &&& ~~~b == 0

/-- The arguments of TAKE-OPEN pass the first test of R137 on a node of `n` channels, for a take of the kind they name. -/
def openArgsGood (a : TakeOpenArgs) (k : TakeKind) (n : Nat) : Bool :=
  let chans := chanSetOf a.chanSet
  let size := a.size.toNat
  decide (a.id ≠ 0) && decide (chans ≠ 0) && chanSetBelow chans n && within (chanSetOf a.editSet) chans &&
    match k with
    | .resident => decide (1 ≤ size) && decide (size ≤ Config.storeSize)
    | .stream =>
      decide (64 ≤ size) && decide (size ≤ 4096) && decide (a.low.toNat < a.high.toNat) && decide (a.high.toNat < size)

/-- The directory entry of a TAKE-OPEN (R138). -/
def openedTake (a : TakeOpenArgs) (k : TakeKind) (base loader : Nat) : Take :=
  let stream := k == .stream
  { id := a.id.toNat, kind := k, state := .loading, chanSet := chanSetOf a.chanSet, editSet := chanSetOf a.editSet,
    base := base, size := a.size.toNat, loader := loader, length := 0, fill := 0, retired := 0, endReceived := false,
    high := if stream then a.high.toNat else 0, low := if stream then a.low.toNat else 0, held := false, latch := none }

/-- TAKE-OPEN at its owner (R137, R138). -/
def takeOpenCommand (a : TakeOpenArgs) (who : Slot) (s : State) : State :=
  match TakeKind.ofCode a.kind with
  | none => reply who codeTakeOpen .badArg .none s
  | some k =>
    if openArgsGood a k s.cfg.nChans = false then reply who codeTakeOpen .badArg .none s
    else if (s.findTake a.id.toNat).isSome then reply who codeTakeOpen .exists_ .none s
    else
      match freeEntry s.ts.dir, firstFit s.extents a.size.toNat with
      | none, _ => reply who codeTakeOpen .dirFull .none s
      | some _, none => reply who codeTakeOpen .noRoom .none s
      | some e, some base =>
        reply who codeTakeOpen .done (.opened e base)
          { s with ts := { s.ts with
              store := s.ts.store.clearRange base a.size.toNat
              dir := s.ts.dir.set e (some (openedTake a k base who.station)) } }

/-- TAKE_OPEN (R137). -/
def execTakeOpen (h : Header) (serial : Byte) (args : TakeOpenArgs) (s : State) : Host.Outcome State Fault Refusal :=
  command h serial codeTakeOpen (takeOpenCommand args) s

/-- The entry of a take freed (R139). -/
def freeTake (id : Nat) (s : State) : State :=
  { s with ts.dir := s.ts.dir.map fun e => e.bind fun t => if t.id = id then none else some t }

/-- TAKE-DELETE at its owner (R139). -/
def takeDeleteCommand (id : Nat) (who : Slot) (s : State) : State :=
  if (s.findTake id).isNone then reply who codeTakeDelete .noTake .none s
  else if s.inUse id then reply who codeTakeDelete .inUse .none s
  else reply who codeTakeDelete .done .none (freeTake id s)

/-- TAKE_DELETE (R139). -/
def execTakeDelete (h : Header) (serial take : Byte) (s : State) : Host.Outcome State Fault Refusal :=
  command h serial codeTakeDelete (takeDeleteCommand take.toNat) s

/-- A stream take rewound by a loader (R140). -/
def Take.rewound (loader : Nat) (t : Take) : Take :=
  { t with fill := 0, retired := 0, endReceived := false, held := false, latch := none, state := .loading,
           loader := loader }

/-- TAKE-REWIND at its owner (R140).  The take in use has the IN-USE of R158, R177 and section 9.5, of either kind (log entry
38). -/
def takeRewindCommand (id : Nat) (who : Slot) (s : State) : State :=
  match s.findTake id with
  | none => reply who codeTakeRewind .noTake .none s
  | some t =>
    if s.inUse id then reply who codeTakeRewind .inUse .none s
    else if t.kind = .resident then reply who codeTakeRewind .badArg .none s
    else reply who codeTakeRewind .done .none (modTake id (Take.rewound who.station) s)

/-- TAKE_REWIND (R140). -/
def execTakeRewind (h : Header) (serial take : Byte) (s : State) : Host.Outcome State Fault Refusal :=
  command h serial codeTakeRewind (takeRewindCommand take.toNat) s

/-! ### Cueing (R155, R156, R159) -/

/-- The calibrated first sample of a take lies within a channel's effective range (R155). -/
def State.reaches (s : State) (t : Take) (i : Nat) : Bool :=
  let y := cal (s.cfg.chan.get i).table ((s.sampleAt t 0).value i).toNat
  let r := s.iu.ranges.get i
  decide (r.1 ≤ y) && decide (y ≤ r.2)

/-- The first test of CUE that fails (R155). -/
def State.cueRefusal (s : State) (id rate : Nat) (mask : ChanSet) : Option Status :=
  if s.tpr.activity = .cueing then some .busy
  else if s.ss.safety ≠ .armed ∨ s.tpr.activity ≠ .idle then some .refused
  else if rate = 0 ∨ 16 < rate ∨ chanSetBelow mask s.cfg.nChans = false then some .badArg
  else
    match s.findTake id with
    | none => some .noTake
    | some t =>
      let cueSet := t.chanSet &&& ~~~mask
      if t.canCue = false then some .refused
      else if cueSet = 0 then some .badArg
      else if (chanList cueSet).all (s.reaches t) then none
      else some .unreachable

/-- CUE accepted (R156). -/
def acceptCue (id rate : Nat) (mask : ChanSet) (who : Slot) (s : State) : State :=
  let cueSet := ((s.findTake id).elim 0 (·.chanSet)) &&& ~~~mask
  let s := { s with tpr := { s.tpr with
    activity := .cueing, take := some id, rate := some rate, override := mask, cueSet := cueSet, base := 0, cursor := 0,
    markIdx := none, cueCompletion := some who } }
  let s := requestEach .cue (chanList cueSet) s
  let s := (chanList mask).foldl (fun s i => enterLive i s) s
  reply who codeCue .accepted .none s

/-- CUE at its owner (R155, R156). -/
def cueCommand (id rate : Nat) (mask : ChanSet) (who : Slot) (s : State) : State :=
  match s.cueRefusal id rate mask with
  | some st => reply who codeCue st .none s
  | none => acceptCue id rate mask who s

/-- CUE (R155). -/
def execCue (h : Header) (serial take rate mask : Byte) (s : State) : Host.Outcome State Fault Refusal :=
  command h serial codeCue (cueCommand take.toNat rate.toNat (chanSetOf mask)) s

/-- CUE-CANCEL at its owner (R159).  That the completion of a running cue is placed before the reply to CUE-CANCEL is the
model's choice (log entry 45). -/
def cueCancelCommand (who : Slot) (s : State) : State :=
  match s.tpr.activity with
  | .cueing | .cued => reply who codeCueCancel .done .none (passageToIdle .cancelled s)
  | _ => reply who codeCueCancel .refused .none s

/-- CUE_CANCEL (R159). -/
def execCueCancel (h : Header) (serial : Byte) (s : State) : Host.Outcome State Fault Refusal :=
  command h serial codeCueCancel cueCancelCommand s

/-! ### Recording and punch-in (R177, R180, R182) -/

/-- The first test of RECORD that fails (R177). -/
def State.recordRefusal (s : State) (id : Nat) : Option Status :=
  if s.ss.safety ≠ .armed ∨ (s.tpr.activity ≠ .idle ∧ s.tpr.activity ≠ .live) then some .refused
  else
    match s.findTake id with
    | none => some .noTake
    | some t => if t.kind = .resident ∧ t.state = .loading ∧ t.length = 0 then none else some .refused

/-- RECORD accepted (R177). -/
def acceptRecord (id : Nat) (s : State) : State :=
  modTake id (fun t => { t with state := .recording })
    { s with tpr := { s.tpr with take := some id, activity := .recording } }

/-- RECORD at its owner (R177). -/
def recordCommand (id : Nat) (who : Slot) (s : State) : State :=
  match s.recordRefusal id with
  | some st => reply who codeRecord st .none s
  | none => reply who codeRecord .done .none (acceptRecord id s)

/-- RECORD (R177). -/
def execRecord (h : Header) (serial take : Byte) (s : State) : Host.Outcome State Fault Refusal :=
  command h serial codeRecord (recordCommand take.toNat) s

/-- RECORD-END at its owner (R180). -/
def recordEndCommand (who : Slot) (s : State) : State :=
  if s.tpr.activity = .recording then
    let n := (s.tpr.take.bind s.findTake).elim 0 (·.length)
    let s := endRecording s
    reply who codeRecordEnd .done (.length n)
      { s with tpr := { s.tpr with take := none, activity := .live, punch := false, punchMask := 0, punchIdx := none } }
  else reply who codeRecordEnd .refused .none s

/-- RECORD_END (R180). -/
def execRecordEnd (h : Header) (serial : Byte) (s : State) : Host.Outcome State Fault Refusal :=
  command h serial codeRecordEnd recordEndCommand s

/-- The first test of PUNCH that fails (R182). -/
def State.punchRefusal (s : State) (id : Nat) (mask : ChanSet) : Option Status :=
  if s.tpr.activity ≠ .cued ∨ s.tpr.take ≠ some id then some .refused
  else
    match s.findTake id with
    | none => some .refused
    | some t =>
      if t.kind ≠ .resident then some .refused
      else if s.tpr.rate ≠ some 8 then some .badArg
      else if mask ≠ 0 ∧ within mask t.editSet = true ∧ mask &&& s.tpr.override = 0 then none
      else some .badArg

/-- PUNCH at its owner (R182). -/
def punchCommand (id : Nat) (mask : ChanSet) (who : Slot) (s : State) : State :=
  match s.punchRefusal id mask with
  | some st => reply who codePunch st .none s
  | none =>
    reply who codePunch .done .none
      { s with tpr := { s.tpr with punch := true, punchMask := mask, punchIdx := none } }

/-- PUNCH (R182). -/
def execPunch (h : Header) (serial take mask : Byte) (s : State) : Host.Outcome State Fault Refusal :=
  command h serial codePunch (punchCommand take.toNat (chanSetOf mask)) s

end Sys2Proof.Machine
end

