-- ==== Sys2Proof/Machine/Dispatch.lean ====
section
/-! DEFINITION. The meaning of every command: one arm each, one call each. -/

namespace Sys2Proof.Machine

open Sys2Proof

/-- The effect of a command on everything but the queue of waiting commands. -/
def exec (i : Instr) (s : State) : Host.Outcome State Fault Refusal :=
  match i with
  | .reset => Sys2Proof.Machine.execReset s
  | .resetRelease => Sys2Proof.Machine.execResetRelease s
  | .noImage => Sys2Proof.Machine.execNoImage s
  | .leavingLoading image => Sys2Proof.Machine.execLeavingLoading image s
  | .faulted image => Sys2Proof.Machine.execFaulted image s
  | .referenceEdge lines order => Sys2Proof.Machine.execReferenceEdge lines order s
  | .flywheelTick lines order => Sys2Proof.Machine.execFlywheelTick lines order s
  | .refLost => Sys2Proof.Machine.execRefLost s
  | .servoTick lines order => Sys2Proof.Machine.execServoTick lines order s
  | .rosterRemoval => Sys2Proof.Machine.execRosterRemoval s
  | .peerLost => Sys2Proof.Machine.execPeerLost s
  | .watchSlotUnknown => Sys2Proof.Machine.execWatchSlotUnknown s
  | .learningWindowEnd => Sys2Proof.Machine.execLearningWindowEnd s
  | .paceFloorReturn => Sys2Proof.Machine.execPaceFloorReturn s
  | .overflowClear => Sys2Proof.Machine.execOverflowClear s
  | .zoneClear => Sys2Proof.Machine.execZoneClear s
  | .estopClear => Sys2Proof.Machine.execEstopClear s
  | .liveTimeout => Sys2Proof.Machine.execLiveTimeout s
  | .linkQuiet => Sys2Proof.Machine.execLinkQuiet s
  | .enableSettleEnd => Sys2Proof.Machine.execEnableSettleEnd s
  | .brakeReleaseEnd => Sys2Proof.Machine.execBrakeReleaseEnd s
  | .brakeSetEnd => Sys2Proof.Machine.execBrakeSetEnd s
  | .startAction => Sys2Proof.Machine.execStartAction s
  | .abortAction => Sys2Proof.Machine.execAbortAction s
  | .parkTimeout => Sys2Proof.Machine.execParkTimeout s
  | .restartTimeout => Sys2Proof.Machine.execRestartTimeout s
  | .wakeFrameTick => Sys2Proof.Machine.execWakeFrameTick s
  | .attempt => Sys2Proof.Machine.execAttempt s
  | .arbitrationLost => Sys2Proof.Machine.execArbitrationLost s
  | .transmitFailure => Sys2Proof.Machine.execTransmitFailure s
  | .attemptSuccess => Sys2Proof.Machine.execAttemptSuccess s
  | .badMessage reason => Sys2Proof.Machine.execBadMessage reason s
  | .impostorMessage => Sys2Proof.Machine.execImpostorMessage s
  | .stop h cause detail => Sys2Proof.Machine.execStop h cause detail s
  | .clear h cause => Sys2Proof.Machine.execClear h cause s
  | .roll h more count factor pairs => Sys2Proof.Machine.execRoll h more count factor pairs s
  | .pace h factor => Sys2Proof.Machine.execPace h factor s
  | .abort h take => Sys2Proof.Machine.execAbort h take s
  | .start h take lead => Sys2Proof.Machine.execStart h take lead s
  | .live h enable mask mark values => Sys2Proof.Machine.execLive h enable mask mark values s
  | .state h fields => Sys2Proof.Machine.execState h fields s
  | .samples h take first last count records => Sys2Proof.Machine.execSamples h take first last count records s
  | .wake h mask crane0 crane1 crane2 crane3 => Sys2Proof.Machine.execWake h mask crane0 crane1 crane2 crane3 s
  | .presenceOnly h => Sys2Proof.Machine.execPresenceOnly h s
  | .commandNotInCatalogue h serial code args => Sys2Proof.Machine.execCommandNotInCatalogue h serial code args s
  | .arm h serial => Sys2Proof.Machine.execArm h serial s
  | .disarm h serial => Sys2Proof.Machine.execDisarm h serial s
  | .release h serial => Sys2Proof.Machine.execRelease h serial s
  | .park h serial => Sys2Proof.Machine.execPark h serial s
  | .takeOpen h serial args => Sys2Proof.Machine.execTakeOpen h serial args s
  | .takeDelete h serial take => Sys2Proof.Machine.execTakeDelete h serial take s
  | .takeRewind h serial take => Sys2Proof.Machine.execTakeRewind h serial take s
  | .cue h serial take rate mask => Sys2Proof.Machine.execCue h serial take rate mask s
  | .cueCancel h serial => Sys2Proof.Machine.execCueCancel h serial s
  | .record h serial take => Sys2Proof.Machine.execRecord h serial take s
  | .recordEnd h serial => Sys2Proof.Machine.execRecordEnd h serial s
  | .punch h serial take mask => Sys2Proof.Machine.execPunch h serial take mask s
  | .sensorRead h serial channel item => Sys2Proof.Machine.execSensorRead h serial channel item s
  | .readTakesLine => Sys2Proof.Machine.execReadTakesLine s
  | .pollResponse answer address status position => Sys2Proof.Machine.execPollResponse answer address status position s
  | .readResponse answer address status value => Sys2Proof.Machine.execReadResponse answer address status value s
  | .sensorTimeout => Sys2Proof.Machine.execSensorTimeout s
  | .attention h serial start clear => Sys2Proof.Machine.execAttention h serial start clear s
  | .counters h serial start clear => Sys2Proof.Machine.execCounters h serial start clear s
  | .claims h serial start clear => Sys2Proof.Machine.execClaims h serial start clear s
  | .roster h serial start clear => Sys2Proof.Machine.execRoster h serial start clear s
  | .directory h serial start clear => Sys2Proof.Machine.execDirectory h serial start clear s
  | .latch h serial start clear => Sys2Proof.Machine.execLatch h serial start clear s
  | .restart h serial => Sys2Proof.Machine.execRestart h serial s
  | .lineIdle => Sys2Proof.Machine.execLineIdle s

end Sys2Proof.Machine
end

