-- ==== Sys2Proof/Machine/Step.lean ====
section
/-! DEFINITION. One step of the node: the command at the front of the queue. -/

namespace Sys2Proof.Machine

open Sys2Proof

/-- The queue without its front: the state in which the front command is executed. -/
def State.withPending (s : State) (q : List Instr) : State := { s with pending := q }

/-- One step: the front command is taken from the queue and executed; with an empty queue the node idles. -/
def step (s : State) : Host.Outcome State Fault Refusal :=
  match s.pending with
  | [] => .next s
  | c :: rest => exec c (s.withPending rest)

/-- The state with the command that a table word spells at the front of its queue; unchanged where the word spells none. -/
def State.withFetchWord (s : State) (nbits w : Nat) : State :=
  match decodeTableWord nbits w with
  | some c => s.withPending (c :: s.pending)
  | none => s

end Sys2Proof.Machine
end

