-- ==== Sys2Proof/WellFormed.lean ====
section
/-! DEFINITION. Which command terms are well formed: those whose lists have the lengths that their counts give and whose
fields a message, an image or a tick can carry. -/

namespace Sys2Proof

/-- A LENGTH that a message can have (R2). -/
def Header.wf (h : Header) : Bool := decide (h.length.toNat ≤ Config.maxLength)

/-- The pieces of work that a frame tick alone has. -/
def TickWork.frameOnly : TickWork → Bool
  | .report | .peers | .cross | .conflict | .brake | .start => true
  | .poll | .faults | .limits | .zones | .underrun | .compute => false

/-- An order names no piece of work twice. -/
def orderWf (order : List TickWork) : Bool := decide order.Nodup

/-- The number of channels a MASK names. -/
def maskSize (m : ChanSet) : Nat := ((List.range Config.maxChans).filter fun c => m.getLsbD c).length

/-- A code that the catalogue of section 11.3 has. -/
def inCatalogue (code : Nat) : Bool := decide (1 ≤ code) && decide (code ≤ 15)

/-- A COMMAND that no other row spells: a CODE outside the catalogue, or a STATUS-QUERY of an unknown ITEM (R189, R192). -/
def unknownCommand (code : Byte) (args : List Byte) : Bool :=
  !inCatalogue code.toNat || (code.toNat == 14 && decide (5 < (args.getD 0 0).toNat))

/-- The well-formedness of a command. -/
def Instr.wf : Instr → Bool
  | .leavingLoading image | .faulted image => decide (image.length ≤ 8192)
  | .referenceEdge _ order | .flywheelTick _ order => orderWf order
  | .servoTick _ order => orderWf order && order.all fun w => !w.frameOnly
  | .stop h _ _ | .clear h _ | .pace h _ | .abort h _ | .start h _ _ | .wake h _ _ _ _ _ | .presenceOnly h => h.wf
  | .roll h _ count _ pairs => h.wf && pairs.length == count.toNat
  | .live h _ mask _ values => h.wf && values.length == maskSize mask
  | .state h f => h.wf && f.chans.length == f.count.toNat
  | .samples h _ _ _ count records => h.wf && records.length == count.toNat
  | .commandNotInCatalogue h _ code args => h.wf && args.length == h.length.toNat - 2 && unknownCommand code args
  | .arm h _ | .disarm h _ | .release h _ | .park h _ | .cueCancel h _ | .recordEnd h _ | .restart h _ => h.wf
  | .takeOpen h _ _ | .takeDelete h _ _ | .takeRewind h _ _ | .cue h _ _ _ _ | .record h _ _ | .punch h _ _ _ => h.wf
  | .sensorRead h _ _ _ | .attention h _ _ _ | .counters h _ _ _ | .claims h _ _ _ | .roster h _ _ _ => h.wf
  | .directory h _ _ _ | .latch h _ _ _ => h.wf
  | .reset | .resetRelease | .noImage | .refLost | .rosterRemoval | .peerLost | .watchSlotUnknown => true
  | .learningWindowEnd | .paceFloorReturn | .overflowClear | .zoneClear | .estopClear | .liveTimeout | .linkQuiet => true
  | .enableSettleEnd | .brakeReleaseEnd | .brakeSetEnd | .startAction | .abortAction | .parkTimeout => true
  | .restartTimeout | .wakeFrameTick | .attempt | .arbitrationLost | .transmitFailure | .attemptSuccess => true
  | .badMessage _ | .impostorMessage | .readTakesLine | .sensorTimeout | .lineIdle => true
  | .pollResponse _ _ _ _ | .readResponse _ _ _ _ => true

end Sys2Proof
end

