-- ==== Sys2Proof/Safety.lean ====
section
/-! DEFINITION. What a run of the node and a safe state mean, the invariants of the node's state, and the words that the
statements about commands use: what a command leaves alone, and when a message is one the node obeys. -/

namespace Sys2Proof

open Machine

/-! ### Runs -/

/-- One command taken from outside and executed. -/
def Runs (s : State) (c : Instr) (t : State) : Prop := exec c s = .next t

/-- The states that well-formed commands lead to from a state. -/
inductive Reaches (s : State) : State → Prop where
  | here : Reaches s s
  | after {t u : State} (c : Instr) (before : Reaches s t) (good : c.wf = true) (run : Runs t c u) : Reaches s u

/-- A command does not stop the node. -/
def Safe (c : Instr) (s : State) : Prop := ∃ t, exec c s = .next t

/-! ### What a command leaves alone -/

/-- The blocks of the node and what State holds beside them; the records of the sample store stand for themselves beside
their block. -/
inductive Block where
  | lif | ft | ru | chans | spl | dlu | ss | pu | iu | zu | ts | store | tpr | attention | cl | cfg | pins | pending
deriving DecidableEq, Repr

/-- A block is the same in two states. -/
def SameBlock (s t : State) : Block → Prop
  | .lif => t.lif = s.lif
  | .ft => t.ft = s.ft
  | .ru => t.ru = s.ru
  | .chans => t.chans = s.chans
  | .spl => t.spl = s.spl
  | .dlu => t.dlu = s.dlu
  | .ss => t.ss = s.ss
  | .pu => t.pu = s.pu
  | .iu => t.iu = s.iu
  | .zu => t.zu = s.zu
  | .ts => t.ts = s.ts
  | .store => t.ts.store = s.ts.store
  | .tpr => t.tpr = s.tpr
  | .attention => t.attention = s.attention
  | .cl => t.cl = s.cl
  | .cfg => t.cfg = s.cfg
  | .pins => t.pins = s.pins
  | .pending => t.pending = s.pending

/-- Every block but those of a list is the same in two states. -/
def OnlyChanges (bs : List Block) (s t : State) : Prop := ∀ b, b ∉ bs → SameBlock s t b

/-! ### Messages the node sends -/

/-- The LIF takes a message for sending: any in the five open states, STATE and REPLY alone in FAULTED with the station number
known, none at a silent node (R10). -/
def mayQueue (b : Body) (s : State) : Bool :=
  match s.ss.safety with
  | .loading | .parked => false
  | .faulted =>
    s.cl.spineId &&
      match b with
      | .state _ | .reply _ _ _ _ => true
      | .stop _ _ | .clear _ | .pace _ | .abort _ | .hold _ _ | .resume _ _ | .mark _ _ _ | .roll _ _ => false
  | .disarmed | .arming | .armed | .stopping | .securing => true

/-- A newer message takes the place of an older one: STOP and CLEAR of one cause, two PACE, two ABORT of one take, two STATE,
two ROLL (R11, R12). -/
def overtakes (new old : Body) : Bool :=
  match new, old with
  | .stop c _, .stop d _ | .stop c _, .clear d | .clear c, .stop d _ | .clear c, .clear d => c == d
  | .abort k, .abort l => k == l
  | .pace _, .pace _ | .state _, .state _ | .roll _ _, .roll _ _ => true
  | _, _ => false

/-- The entry of a message that is new in its queue: it has no successor, and its attempt has not begun. -/
def freshEntry (dest : Nat) (b : Body) : QEntry := { msg := { dest := dest, body := b }, succ := none, active := false }

/-- A queue has a place for a message: an entry in use that it overtakes, or a free one (R11, R12). -/
def HasPlace (m : Msg) (q : List QEntry) : Prop :=
  q.length < 16 ∨ ∃ e ∈ q, overtakes m.body e.msg.body = true

/-- Queue `u` is queue `q` with a message placed in it: it replaces the message it overtakes in its place in the order, or
becomes the successor of that entry during its attempt, and else takes a free entry at the end of the order (R11, R12, R13). -/
def PlacedIn (m : Msg) (q u : List QEntry) : Prop :=
  (∀ pre e post, q = pre ++ e :: post → overtakes m.body e.msg.body = true →
    u = pre ++ (if e.active = true then { e with succ := some m } else { e with msg := m }) :: post) ∧
  ((∀ e ∈ q, overtakes m.body e.msg.body = false) → u = q ++ [freshEntry m.dest m.body])

/-- A message dropped at a full queue: the TX-DROP counter is one higher, up to 65,535, and TX-DROP is raised (R11, R12). -/
def txDropped (s : State) : State :=
  { s with lif.txDrops := min 65535 (s.lif.txDrops + 1), attention := s.attention ||| 32#16 }

/-! ### Messages the node takes -/

/-- A message with these header fields is a valid message from another station at a node that is not parked (R5, R6, R7,
R9). -/
def receives (h : Header) (s : State) : Bool :=
  !s.deaf && !s.lif.rxWait && s.ss.safety != .parked && decide (h.length.toNat ≤ Config.maxLength) &&
    decide (1 ≤ h.source.toNat) && decide (h.source.toNat ≤ 62) && h.source.toNat != s.cfg.station

/-- Such a message, with the LENGTH of its kind, at a node in one of the five states in which its owner takes it. -/
def hears (h : Header) (length : Nat) (s : State) : Bool :=
  receives h s && s.ss.safety.isOpen && h.length.toNat == length

/-- The node after it has received a valid message, before the owner of the kind acts: the line is not idle (R1), the quiet
count is 0 (R17) and the roster has the report (R34). -/
def heard (h : Header) (s : State) : State := validFrom h.source.toNat (lineBusy s)

/-- The slot that names the sender of a COMMAND (R191). -/
def caller (h : Header) (serial : Byte) : Slot := { serial := serial, station := h.source.toNat }

/-- A COMMAND of a code with `n` argument octets that passes every test of the Command Unit and goes to its owner (R189,
R205). -/
def obeys (h : Header) (n : Nat) (s : State) : Bool :=
  hears h (2 + n) s && s.addressed h && s.isControl h.source.toNat && !s.ru.parkPending && !s.cl.restartPending

/-- The header of a message of any kind but WAKE (section 1.3). -/
def messageHeader : Instr → Option Header
  | .stop h _ _ | .clear h _ | .roll h _ _ _ _ | .pace h _ | .abort h _ | .start h _ _ | .live h _ _ _ _ => some h
  | .state h _ | .samples h _ _ _ _ _ | .presenceOnly h | .commandNotInCatalogue h _ _ _ => some h
  | .arm h _ | .disarm h _ | .release h _ | .park h _ | .takeOpen h _ _ | .takeDelete h _ _ | .takeRewind h _ _ => some h
  | .cue h _ _ _ _ | .cueCancel h _ | .record h _ _ | .recordEnd h _ | .punch h _ _ _ | .sensorRead h _ _ _ => some h
  | .attention h _ _ _ | .counters h _ _ _ | .claims h _ _ _ | .roster h _ _ _ | .directory h _ _ _ => some h
  | .latch h _ _ _ | .restart h _ => some h
  | _ => none

/-- The header of a message of a kind with a payload of its own, and the length that the payload table gives it at a node of
`n` channels; no length for a COUNT above the largest of its kind (R205). -/
def payloadLength (n : Nat) : Instr → Option (Header × Option Nat)
  | .stop h _ _ => some (h, some 2)
  | .clear h _ => some (h, some 1)
  | .roll h _ count _ _ => some (h, if count.toNat ≤ 20 then some (2 + 2 * count.toNat) else none)
  | .pace h _ => some (h, some 1)
  | .abort h _ => some (h, some 1)
  | .start h _ _ => some (h, some 2)
  | .live h _ mask _ _ => some (h, some (2 + 2 * maskCount mask))
  | .state h f => some (h, some (13 + 3 * f.count.toNat))
  | .samples h _ _ _ count _ =>
    some (h, if count.toNat ≤ 42 / (2 * n + 1) then some (6 + count.toNat * (2 * n + 1)) else none)
  | _ => none

/-! ### What a tick computes -/

/-- Node `p` is node `s` after `k` clock cycles of the reference watch: where the count reaches 3N/2 within them, the reference
is lost and REF-LOST raised, and else neither changes (R24). -/
def Watched (k : Nat) (s p : State) : Prop :=
  let lost := s.cfg.timing.refUse = true ∧ 2 * s.ft.watch < 3 * s.cfg.timing.n ∧
    3 * s.cfg.timing.n ≤ 2 * (s.ft.watch + 8 * k)
  OnlyChanges [.ft, .attention] s p ∧ p.ft = { s.ft with watch := p.ft.watch, refPresent := p.ft.refPresent } ∧
    (lost → p.ft.refPresent = false ∧ p.attention = s.attention ||| 2#16) ∧
    (¬ lost → p.ft.refPresent = s.ft.refPresent ∧ p.attention = s.attention)

/-- Pieces of a tick's work done one after the other. -/
def worked (before : TickStart) (l : LineLevels) (j : Nat) (ws : List TickWork) (s : State) : State :=
  ws.foldl (fun s w => tickWork before l j w s) s

/-- Channel `i` as the computation of servo tick `j` leaves it, at a node that stands at `u` before it (R52, R59): the cursor
of the tick is formed first (R162), in one piece with it (log entry 54). -/
def computedChan (j i : Nat) (u : State) : Chan := ((formCursor j u).chans.get i).compute ((formCursor j u).tickInput j i)

/-- Channel `i` of `t` has the setpoint, the velocity, the values and the reports of that computation. -/
def Computed (j : Nat) (u t : State) (i : Nat) : Prop :=
  let c := computedChan j i u
  let d := t.chans.get i
  d.x = c.x ∧ d.v = c.v ∧ d.u = c.u ∧ d.tRaw = c.tRaw ∧ d.t = c.t ∧ d.clamped = c.clamped ∧ d.settled = c.settled ∧
    d.atRest = c.atRest ∧ d.uRep = c.uRep

/-- The drive records of channel `i` for that computation: the one with ENABLE off that is due, and the one of an output that
is on (R73). -/
def computedRecords (j : Nat) (u : State) (i : Nat) : List DriveRecord :=
  (if (u.dlu.lines.get i).offDue = true then [{ channel := i, x := (computedChan j i u).x, v := 0, enable := false }]
    else []) ++
    if (u.dlu.lines.get i).enable = true then
      [{ channel := i, x := (computedChan j i u).x, v := (computedChan j i u).v, enable := true }]
    else []

/-- The target T that R65 makes of T_RAW for a channel at `x`. -/
def TargetOf (range : Int × Int) (x tRaw t : Int) : Prop :=
  (range.2 < range.1 → t = x) ∧
    (range.1 ≤ range.2 → (tRaw < range.1 → t = range.1) ∧ (range.2 < tRaw → t = range.2) ∧
      (range.1 ≤ tRaw → tRaw ≤ range.2 → t = tRaw))

/-- Channel `d` is channel `c` driven to the target `t` of T_RAW under a speed limit for one tick (R65, R67, R69). -/
def DrivenTo (inp : TickInput) (limit : Nat) (tRaw t : Int) (c d : Chan) : Prop :=
  d.tRaw = some tRaw ∧ d.t = some t ∧ d.v = limiter inp.cfg.amax limit (t - c.x) c.v ∧ d.x = c.x + d.v ∧
    (d.clamped = true ↔ t ≠ tRaw ∨ inp.range.2 < inp.range.1) ∧ (d.settled = true ↔ d.v = 0 ∧ d.x = t) ∧
    (d.atRest = true ↔ d.v = 0)

/-- Channel `d` is channel `c` on entry to a mode other than OFF (R54, second table), with the bit of a channel brought to rest
clear (log entry 9); `table` is its calibration. -/
def EntersMode (table : List (Nat × Int)) (m : Mode) (c d : Chan) : Prop :=
  d = { c with
    mode := m, held := d.held, gPrev := d.gPrev, gCur := d.gCur, gPend := d.gPend, halt := d.halt, dev := d.dev,
    rested := false } ∧
  (m = .hold → d.held = c.x ∧ (c.mode = .halt → d.halt = c.halt) ∧ (c.mode ≠ .halt → d.halt = false)) ∧
  (m ≠ .hold → d.held = c.held) ∧ (m = .halt → d.halt = true) ∧
  (m = .live → d.gPrev = inverse table c.x ∧ d.gCur = inverse table c.x ∧ d.halt = false) ∧
  (m ≠ .live → d.gPrev = c.gPrev ∧ d.gCur = c.gCur) ∧ (m = .cue ∨ m = .play ∨ m = .stop → d.halt = false) ∧
  (m ≠ .play → d.dev = 0) ∧ (m = .play → d.dev = c.dev) ∧
  (c.mode = .live → m ≠ .live → d.gPend = none) ∧ (c.mode ≠ .live ∨ m = .live → d.gPend = c.gPend)

/-- The check of R132: channel `c` stands outside the range of an entry, or cannot stop within it at `amax`. -/
def CannotObey (amax : Nat) (c : Chan) (e : CrossCfg) : Prop :=
  c.x < e.limLow ∨ e.limHigh < c.x ∨ (0 < c.v ∧ e.limHigh - c.x < stopDistance amax c.v.natAbs) ∨
    (c.v < 0 ∧ c.x - e.limLow < stopDistance amax c.v.natAbs)

/-! ### What a stored record and a turn of a frame do -/

/-- A value of a record that is written, for a channel of the take's CHANNEL SET, lies outside the x range of the channel's
calibration table (R145). -/
def RangeFails (cfg : NodeCfg) (written chanSet : ChanSet) (r : Sample) : Prop :=
  ∃ c < 4, written.getLsbD c = true ∧ chanSet.getLsbD c = true ∧
    ((r.value c).toNat < ((cfg.chan.get c).table.headD (0, 0)).1 ∨
      ((cfg.chan.get c).table.getLastD (0, 0)).1 < (r.value c).toNat)

/-- The range latch of a take after records were stored from an index on: an empty one takes the lowest index of a record out
of range, with SAMPLE-RANGE, and nothing else changes it (R145). -/
def Latched (s t : State) (k k' : Take) (first : Nat) (rs : List Sample) : Prop :=
  ((k.latch ≠ none ∨ ∀ r ∈ rs, ¬ RangeFails s.cfg s.allChans k.chanSet r) →
    k'.latch = k.latch ∧ attentionHas t.attention .sampleRange = attentionHas s.attention .sampleRange) ∧
  ∀ n r, k.latch = none → rs[n]? = some r → RangeFails s.cfg s.allChans k.chanSet r →
    (∀ m < n, ∀ q, rs[m]? = some q → ¬ RangeFails s.cfg s.allChans k.chanSet q) →
    k'.latch = some (first + n) ∧ attentionHas t.attention .sampleRange = true

/-- A channel in LIVE with its goals turned over to a new goal, or to the pending one or the same without it (R61). -/
def turnedLive (goal : Option Nat) (c : Chan) : Chan :=
  { c with gPrev := c.gCur, gCur := goal.getD (c.gPend.getD c.gCur), gPend := none }

/-- Channel `i` of `w` is that of `s` brought to the frame after the one in progress: its goals, its LIVE AGE and the live
timeout (R61, R173, R175). -/
def LiveTurned (s w : State) (i : Nat) : Prop :=
  let l := s.tpr.live.get i
  let m := w.tpr.live.get i
  let c := s.chans.get i
  let d := w.chans.get i
  let age := min 50 (l.age + 1)
  (s.tpr.liveSet.getLsbD i = false →
    w.tpr.liveSet.getLsbD i = false ∧ m = l ∧ (c.mode ≠ .live → d = c) ∧ (c.mode = .live → d = turnedLive none c)) ∧
  (∀ u, s.tpr.liveSet.getLsbD i = true → getPend l.pend s.ft.frame = some u → 0 < s.cfg.liveTimeout →
    w.tpr.liveSet.getLsbD i = true ∧ m = { age := 0, pend := l.pend.filter fun p => p.1 != s.ft.frame } ∧
    (c.mode = .live → d = turnedLive (some u) c)) ∧
  (s.tpr.liveSet.getLsbD i = true → getPend l.pend s.ft.frame = none → age < s.cfg.liveTimeout →
    w.tpr.liveSet.getLsbD i = true ∧ m = { l with age := age } ∧ (c.mode = .live → d = turnedLive none c)) ∧
  (s.tpr.liveSet.getLsbD i = true → getPend l.pend s.ft.frame = none → s.cfg.liveTimeout ≤ age →
    w.tpr.liveSet.getLsbD i = false ∧ m.pend = [] ∧ attentionHas w.attention .liveStale = true ∧
    (s.ss.safety = .armed → (s.dlu.lines.get i).enable = true → d.mode = .halt))

/-! ### What a stop leaves -/

/-- The completion REPLY of a command, if one is pending (R191). -/
def answered (pending : Option Slot) (code : Nat) (status : Status) (s : State) : State :=
  match pending with
  | some w => reply w code status .none s
  | none => s

/-- The completion of the CUE in use that the forcing to IDLE finds pending (R169). -/
def pendingCue (s : State) : Option Slot := if s.tpr.activity.hasTake then s.tpr.cueCompletion else none

/-- The state of the Take Player with the activity IDLE and its live, mark and punch state cleared (R187, R188). -/
def idled (p : Tpr) : Tpr :=
  { p with
    activity := .idle, liveSet := 0, live := Quad.fill { age := 0, pend := [] }, markCur := 0, markPrev := 0, markPend := [],
    punch := false, punchMask := 0, punchIdx := none }

/-- Channel `c` on entry to STOP (R54, R58); the bit `rested` is that of log entry 9. -/
def stopChan (c : Chan) : Chan :=
  { c with mode := .stop, gPend := if c.mode = .live then none else c.gPend, halt := false, dev := 0, rested := false }

/-- Channel `c` on entry to OFF (R54, R55); the bit `rested` is that of log entry 9. -/
def offChan (c : Chan) : Chan :=
  { c with
    mode := .off, v := 0, tRaw := none, t := none, gPend := none, halt := false, clamped := false, dev := 0,
    rested := false }

/-- The outputs of a channel whose drive is turned off: the brake is set with it, and a record with ENABLE off is due if the
drive was on (R73, R88). -/
def offLine (l : DriveLine) : DriveLine :=
  { l with enable := false, released := false, offDue := l.offDue || l.enable }

/-- `t` has the Take Player, the takes and the ease settings of `s` with the activity forced to IDLE (R149, R169, R170, R187,
R188): from IDLE nothing changes; from LIVE the live state is cleared; a recording ends READY, or LOADING without a record;
from CUEING, CUED, PLAYING and EASING the take in use is let go, the ease flag is cleared for the next frame, and a stream
take that played is SPENT with HELD clear. -/
def ForcedIdle (s t : State) : Prop :=
  let spent (k : Take) : Take := if k.kind = .stream then { k with state := .spent, held := false } else k
  let ended (k : Take) : Take := { k with state := if k.length = 0 then .loading else .ready }
  let inUse (f : Take → Take) : List (Option Take) :=
    s.ts.dir.map (Option.map fun k => if s.tpr.take = some k.id then f k else k)
  (s.tpr.activity = .idle → t.tpr = s.tpr ∧ t.ts = s.ts ∧ t.pu = s.pu) ∧
  (s.tpr.activity = .live → t.tpr = idled s.tpr ∧ t.ts = s.ts ∧ t.pu = s.pu) ∧
  (s.tpr.activity = .recording →
    t.tpr = { idled s.tpr with take := none } ∧ t.ts = { s.ts with dir := inUse ended } ∧ t.pu = s.pu) ∧
  (s.tpr.activity.hasTake = true →
    t.tpr = { idled s.tpr with
      take := none, rate := none, override := 0, cueSet := 0, base := 0, cursor := 0, markIdx := none,
      cueCompletion := none } ∧
    t.pu = { s.pu with easePend := t.pu.easePend } ∧ getPend t.pu.easePend (s.ft.frame + 1) = some false ∧
    (∀ d, d ≠ s.ft.frame + 1 → getPend t.pu.easePend d = getPend s.pu.easePend d) ∧
    (s.tpr.activity.plays = true → t.ts = { s.ts with dir := inUse spent }) ∧
    (s.tpr.activity.plays = false → t.ts = s.ts))

/-- `t` is `s` entering STOPPING (R54, R58, R108): the brake timer stops, a pending ARM and a pending CUE complete with
STOPPED, the activity is forced to IDLE, and every channel whose drive is on and that is not in OFF is in STOP. -/
def EntersStopping (s t : State) : Prop :=
  let done := answered (pendingCue s) codeCue .stopped (answered s.ss.armPending codeArm .stopped s)
  t.ss = { s.ss with safety := .stopping, timer := none, armPending := none } ∧ ForcedIdle s t ∧
  t.lif = done.lif ∧ t.attention = done.attention ∧
  (∀ i < 4, let c := s.chans.get i
    t.chans.get i =
      if i < s.cfg.nChans ∧ (s.dlu.lines.get i).enable = true ∧ c.mode ≠ .off ∧ c.mode ≠ .stop then
        stopChan c
      else c) ∧
  OnlyChanges [.lif, .chans, .ss, .pu, .ts, .tpr, .attention] s t

/-- `t` is `s` entering DISARMED at the end of SECURING or by an own ESTOP (R55, R73, R88, R111, R112, R113, R114): the brake
timer stops, a pending ARM and a pending CUE complete with STOPPED and a pending DISARM with DONE, the activity is forced to
IDLE, and every channel has its drive off, its brake set, its fault-off flag clear and stands in OFF. -/
def EntersDisarmed (s t : State) : Prop :=
  let done := answered s.ss.disarmPending codeDisarm .done
    (answered s.ss.armPending codeArm .stopped (answered (pendingCue s) codeCue .stopped s))
  t.ss = { s.ss with safety := .disarmed, timer := none, armPending := none, disarmPending := none } ∧ ForcedIdle s t ∧
  t.lif = done.lif ∧ t.attention = done.attention ∧
  (∀ i < s.cfg.nChans,
    let l := s.dlu.lines.get i
    let c := s.chans.get i
    t.dlu.lines.get i = { offLine l with faultOff := false } ∧
    (c.mode = .off → t.chans.get i = c ∧ t.spl.readings.get i = s.spl.readings.get i) ∧
    (c.mode ≠ .off →
      t.chans.get i = offChan c ∧ t.spl.readings.get i = { s.spl.readings.get i with ferr := 0 })) ∧
  OnlyChanges [.lif, .chans, .spl, .dlu, .ss, .pu, .ts, .tpr, .attention] s t

/-! ### What a frame tick brings -/

/-- `t` is `s` after a frame tick in the five open states, in what the tick brings to the counts, the roster, the watch slots
and the Pace Unit (R7, R17, R35, R39, R41, R125, R126, R127). -/
def FrameTurned (s t : State) : Prop :=
  t.ru.learning = s.ru.learning - 1 ∧ t.lif.quiet = min 255 (s.lif.quiet + 1) ∧
  t.ru.roster = (s.ru.roster.map fun e => { e with age := min 255 (e.age + 1) }).filter (fun e =>
    e.pinned || decide (e.age ≤ 4 * s.cfg.lossTimeout)) ∧
  t.ru.slots = s.ru.slots.map (fun w => match getPend w.pend (s.ft.frame + 1) with
    | some u => { value := some u, age := 0, pend := w.pend.filter fun p => p.1 != s.ft.frame + 1 }
    | none => { w with
        age := min 255 (w.age + 1), value := if s.cfg.lossTimeout < min 255 (w.age + 1) then none else w.value }) ∧
  t.lif.dupQuiet = min 32 (s.lif.dupQuiet + 1) ∧
  (s.pu.applied < t.pu.target → t.pu.applied = min t.pu.target (s.pu.applied + s.cfg.paceStep)) ∧
  (t.pu.target < s.pu.applied → t.pu.applied = max t.pu.target (s.pu.applied - s.cfg.paceStep)) ∧
  (t.pu.target = s.pu.applied → t.pu.applied = s.pu.applied) ∧
  t.pu.entries = (s.pu.entries.map fun e => match getPend e.pend s.ft.frame with
    | some v => { e with factor := if v < 16 then some v else none, pend := e.pend.filter fun p => p.1 != s.ft.frame }
    | none => e).filter (fun e => e.factor.isSome || !e.pend.isEmpty) ∧
  (∀ v, getPend s.pu.floorPend s.ft.frame = some v → t.pu.floor = min s.pu.floor v ∧ t.pu.floorQuiet = 0) ∧
  (getPend s.pu.floorPend s.ft.frame = none → s.pu.floor < 16 →
    t.pu.floorQuiet = min 32 (s.pu.floorQuiet + 1) ∧ t.pu.floor = if 31 ≤ s.pu.floorQuiet then 16 else s.pu.floor) ∧
  (getPend s.pu.floorPend s.ft.frame = none → 16 ≤ s.pu.floor →
    t.pu.floorQuiet = s.pu.floorQuiet ∧ t.pu.floor = s.pu.floor) ∧
  (s.tpr.activity = .easing → t.pu.ease = true) ∧
  (s.tpr.activity ≠ .easing → s.tpr.abortPend = none →
    t.pu.ease = (getPend s.pu.easePend (s.ft.frame + 1)).getD s.pu.ease) ∧
  (t.pu.ease = true → t.pu.target = 0) ∧
  (t.pu.ease = false → t.pu.target ≤ 16 ∧ t.pu.target ≤ t.pu.floor ∧
    (∀ e ∈ t.pu.entries, ∀ f, e.factor = some f → t.pu.target ≤ f) ∧
    (t.pu.target = 16 ∨ t.pu.target = t.pu.floor ∨ ∃ e ∈ t.pu.entries, e.factor = some t.pu.target))

/-- `t` is `s` after the work of a frame tick in the five open states, where `p` is the node at the end of the frame that ends
(R26, R28, R42, R59, R61, R73, R173, R175, R178): the goals, the LIVE AGE and the marks turn over, then each piece of work is
done once in the order of the operand. -/
def FrameWorked (l : LineLevels) (order : List TickWork) (p s t : State) : Prop :=
  ∃ v, v.pins = { s.pins with lines := l } ∧
    t = noteReports (worked p.tickStart l 0 (workOrder order (frameWorkOf order)) v) ∧ v.ft.frame = s.ft.frame + 1 ∧
    v.ft.tick = 0 ∧ v.ft.guard = false ∧ v.cfg = s.cfg ∧
    (s.tpr.abortPend = none → s.cfg.nChans ≤ 4 →
      ∃ w, v = { zoneFrameTick (formRanges (paceTick (s.ft.frame + 1) (advanceBase w))) with pins := v.pins } ∧
        w.tpr.markPrev = s.tpr.markCur ∧ w.tpr.markCur = (getPend s.tpr.markPend s.ft.frame).getD 0 ∧
        w.tpr.markPend = (s.tpr.markPend.filter fun p => p.1 != s.ft.frame) ∧
        (∀ i < s.cfg.nChans, LiveTurned s w i) ∧
        (s.zoneCondition = none → s.estopCondition = none →
          v.chans = w.chans ∧ v.tpr = { w.tpr with base := v.tpr.base })) ∧
    (order = [] → s.cfg.nChans ≤ 4 →
      ∀ u, u = worked p.tickStart l 0
        [.peers, .cross, .conflict, .brake, .start, .poll, .faults, .limits, .zones, .underrun] v →
      (∀ i < s.cfg.nChans, Computed 0 u t i) ∧
      t.dlu.port = (List.range s.cfg.nChans).flatMap (computedRecords 0 u))

/-- The STATE of a frame tick in the five open states, where `p` is the node at the end of the frame that ends (R42, R195): it
reports `p` with the attention set as it stands when the STATE is composed, first, with a TICK-SLIP of the tick, where the
order does not name its place, and else in that place.  The tick that ends frame 0 has no TICK-SLIP (log entry 10), a generator
tick before servo tick S-1 has one (log entry 16). -/
def StatePlaced (l : LineLevels) (order : List TickWork) (p s t : State) : Prop :=
  (.report ∉ order → s.lif.ordinary = [] →
    ∃ r rest, t.lif.ordinary = { msg := { dest := 0, body := .state r }, succ := none, active := false } :: rest ∧
      ∀ u : State, u.ss.safety.isOpen = true →
        u.attention = p.attention |||
          (if s.ft.frame0 = false ∧ s.ft.tick + 1 < s.cfg.timing.s then 16#16 else 0#16) →
        composeState p u = broadcast (.state r) u) ∧
  (.report ∈ order →
    ∃ v, t = noteReports (worked p.tickStart l 0 (workOrder order (frameWorkOf order)) v) ∧
      ∀ b c : List TickWork, workOrder order (frameWorkOf order) = b ++ .report :: c →
        ∀ u, u = worked p.tickStart l 0 b v → u.ss.safety.isOpen = true ∧
          t = noteReports (worked p.tickStart l 0 c (composeState p u)))

/-! ### Invariants -/

/-- The sample store has its canonical form: positions of the store alone, no record listed twice (R134). -/
def StoreWf (s : State) : Prop := Memory.wf s.ts.store = true

/-- The claims list has at most 32 entries, in strictly increasing order of origin and cause (R93). -/
def ClaimsOrdered (s : State) : Prop :=
  s.ss.claims.length ≤ Config.claimsSize ∧ s.ss.claims.Pairwise fun a b => Claim.before a b = true

/-- A queue has at most 16 entries, no two of them with one key, and a successor has the key of its entry (R11, R12, R13). -/
def QueueSound (q : List QEntry) : Prop :=
  q.length ≤ Config.queueSize ∧
    (q.Pairwise fun a b => a.msg.body.key = none ∨ a.msg.body.key ≠ b.msg.body.key) ∧
    ∀ e ∈ q, ∀ m, e.succ = some m → m.body.key = e.msg.body.key ∧ m.body.cls = e.msg.body.cls

/-- Both transmit queues are sound, and each holds messages of its own classes (R10). -/
def QueuesSound (s : State) : Prop :=
  QueueSound s.lif.urgent ∧ QueueSound s.lif.ordinary ∧
    (∀ e ∈ s.lif.urgent, e.msg.body.cls ≤ 1) ∧ ∀ e ∈ s.lif.ordinary, 2 ≤ e.msg.body.cls

/-- No brake is released without its drive (R88). -/
def BrakesSafe (s : State) : Prop :=
  ∀ i < 4, (s.dlu.lines.get i).released = true → (s.dlu.lines.get i).enable = true

/-- A channel whose drive is off stands in OFF (R55). -/
def OffWithoutDrive (s : State) : Prop := ∀ i < 4, (s.dlu.lines.get i).enable = false → (s.chans.get i).mode = .off

/-- A pending PARK finds the node DISARMED, a pending RESTART finds it DISARMED or FAULTED (R45, R202). -/
def PassagesSafe (s : State) : Prop :=
  (s.ru.parkPending = true → s.ss.safety = .disarmed) ∧
    (s.cl.restartPending = true → s.ss.safety = .disarmed ∨ s.ss.safety = .faulted)

/-- Drive-enable outputs are on only in ARMING, ARMED, STOPPING and SECURING, and only for channels the node has (R104). -/
def DrivesGated (s : State) : Prop :=
  PassagesSafe s ∧ ∀ i < 4, (s.dlu.lines.get i).enable = true → s.ss.safety.driven = true ∧ i < s.cfg.nChans

/-- The activity is other than IDLE only in ARMED (R104, R153). -/
def ActivityGated (s : State) : Prop := PassagesSafe s ∧ (s.tpr.activity ≠ .idle → s.ss.safety = .armed)

/-- A take's extent lies in the store and its counts within its extent (R135, R146). -/
def takeSound (t : Take) : Prop :=
  1 ≤ t.size ∧ t.base + t.size ≤ Config.storeSize ∧
    match t.kind with
    | .resident => t.length ≤ t.size
    | .stream => t.retired ≤ t.fill ∧ t.fill - t.retired ≤ t.size

/-- The takes in the directory, in the order of their entries. -/
def takesOf (s : State) : List Take := s.ts.dir.filterMap id

/-- The directory has eight entries; no two takes have one ID or share a store position (R135). -/
def DirectorySound (s : State) : Prop :=
  s.ts.dir.length = Config.dirSize ∧ (∀ t ∈ takesOf s, takeSound t) ∧
    (takesOf s).Pairwise fun a b => a.id ≠ b.id ∧ (a.base + a.size ≤ b.base ∨ b.base + b.size ≤ a.base)

/-- The values of the Pace Unit lie in their ranges, and the pace list holds at most 32 entries, one for an origin (R122). -/
def PaceSound (s : State) : Prop :=
  s.pu.entries.length ≤ Config.paceListSize ∧ (s.pu.entries.Pairwise fun a b => a.origin ≠ b.origin) ∧
    (∀ e ∈ s.pu.entries, (∀ f, e.factor = some f → 1 ≤ f ∧ f ≤ 15) ∧ ∀ p ∈ e.pend, 1 ≤ p.2 ∧ p.2 ≤ 16) ∧
    (1 ≤ s.pu.floor ∧ s.pu.floor ≤ 16) ∧ (∀ p ∈ s.pu.floorPend, 1 ≤ p.2 ∧ p.2 ≤ 16) ∧
    s.pu.target ≤ 16 ∧ s.pu.applied ≤ 16

/-- The required peers of the configuration are at most 16, each named once and none of them the node itself (R199). -/
def PeersValid (c : NodeCfg) : Prop := c.peers.length ≤ 16 ∧ c.peers.Nodup ∧ c.station ∉ c.peers

/-- The roster holds at most 24 stations in increasing order, each once, and never the node's own number (R33, R34). -/
def RosterSound (s : State) : Prop :=
  PeersValid s.cfg ∧ s.ru.roster.length ≤ Config.rosterSize ∧
    (s.ru.roster.Pairwise fun a b => a.station < b.station) ∧ ∀ e ∈ s.ru.roster, e.station ≠ s.cfg.station

end Sys2Proof
end

