-- ==== Sys2Proof/Certificates/Slice0/Obligations.lean ====
section
/-! DEFINITION. The statements for the provers, in the order of OBLIGATIONS.json. -/

section Statements

open Sys2Proof Sys2Proof.Machine

/-! ### Steps, reset and start-up -/

/-- A step takes the command at the front of the queue and executes it on the state with the rest of the queue.  On an
empty queue the node idles: that clause is the model's choice (log entry 5). -/
def Obligations.StepRunsTheFrontCommand : Prop :=
  (∀ (c : Instr) (rest : List Instr) (s : State), s.pending = c :: rest → step s = exec c { s with pending := rest }) ∧
  (∀ s : State, s.pending = [] → step s = .next s)

/-- Every command leads to a next state in every state and leaves the waiting commands alone.  That a command which the manual
does not describe in a state, or an ill-formed one, has a next state too is the model's reading (log entry 27, DEDUCED); that
RESET keeps the waiting commands is the model's choice (log entry 37, DESIGN CHOICE). -/
def Obligations.EveryCommandCompletes : Prop :=
  ∀ (c : Instr) (s : State), ∃ t, exec c s = .next t ∧ t.pending = s.pending

/-- RESET gives every block the values of its RESET column, whatever the node was doing (R19, R32, R49, R75, R76, R92, R115,
R121, R128, R150, R170, R188, R196, R203); its release starts the read of the image and changes nothing else (R197).  What no RESET column gives is at the model's own
value (log entry 6). -/
def Obligations.ResetGivesTheResetColumns : Prop :=
  (∀ s : State, ∃ t, exec .reset s = .next t ∧ t = { State.reset with pending := s.pending } ∧
     t.lif.urgent = [] ∧ t.lif.ordinary = [] ∧ t.lif.failRun = 0 ∧ t.lif.txFailures = 0 ∧ t.lif.badMessages = 0 ∧
     t.lif.txDrops = 0 ∧ t.lif.quiet = 0 ∧ t.lif.dupQuiet = 32 ∧ t.lif.linkRelease = true ∧ t.lif.parkFilter = false ∧
     t.ft.running = false ∧ t.ft.frame = 0 ∧ t.ft.tick = 0 ∧ t.ft.guard = false ∧ t.ft.acc = 0 ∧ t.ft.watch = 0 ∧
     t.ft.refPresent = false ∧
     t.ru.roster = [] ∧ t.ru.learning = 0 ∧ t.ru.parkPending = false ∧
     t.ru.slots = List.replicate 8 { value := none, age := 0, pend := [] } ∧
     (∀ i < 4, (t.chans.get i).mode = .off ∧ (t.chans.get i).x = 0 ∧ (t.chans.get i).v = 0 ∧ (t.chans.get i).u = 0 ∧
       (t.chans.get i).tRaw = none ∧ (t.chans.get i).t = none ∧ (t.chans.get i).held = 0 ∧ (t.chans.get i).gPrev = 0 ∧
       (t.chans.get i).gCur = 0 ∧ (t.chans.get i).gPend = none ∧ (t.chans.get i).halt = false ∧
       (t.chans.get i).clamped = false ∧ (t.chans.get i).dev = 0 ∧ (t.chans.get i).uRep = 0) ∧
     (∀ i < 4, t.spl.readings.get i =
       { position := 0, status := none, valid := false, stale := 0, ferr := 0, received := false, hist := [] }) ∧
     t.spl.read = none ∧
     (∀ i < 4, (t.dlu.lines.get i).enable = false ∧ (t.dlu.lines.get i).released = false ∧
       (t.dlu.lines.get i).faultOff = false ∧ (t.dlu.lines.get i).fault = false ∧
       (t.dlu.lines.get i).low = { active := false, run := 0 } ∧ (t.dlu.lines.get i).high = { active := false, run := 0 }) ∧
     t.ss = { safety := .loading, claims := [], overflow := false, overflowQuiet := 0, timer := none, armPending := none,
              disarmPending := none } ∧
     t.pu = { entries := [], floor := 16, floorPend := [], floorQuiet := 0, ease := false, easePend := [], target := 16,
              applied := 16 } ∧
     t.zu.lines = List.replicate 8 { active := false, run := 0, seen := false, clear := 0 } ∧
     t.zu.estop = List.replicate 2 { active := false, run := 0, seen := false, clear := 0 } ∧ t.zu.ownFactor = 16 ∧
     (∀ p, t.ts.store.read p = { v0 := 0, v1 := 0, v2 := 0, v3 := 0, mark := 0 }) ∧ t.ts.dir = List.replicate 8 none ∧
     t.ts.width = none ∧
     t.tpr.activity = .idle ∧ t.tpr.take = none ∧ t.tpr.rate = none ∧ t.tpr.override = 0 ∧ t.tpr.cueSet = 0 ∧
     t.tpr.base = 0 ∧ t.tpr.cursor = 0 ∧ t.tpr.markIdx = none ∧ t.tpr.cueCompletion = none ∧ t.tpr.startPend = none ∧
     t.tpr.abortPend = none ∧ t.tpr.liveSet = 0 ∧ t.tpr.punch = false ∧ t.tpr.punchMask = 0 ∧ t.tpr.punchIdx = none ∧
     t.attention = 0 ∧
     t.cl.read = .idle ∧ t.cl.fault = 0 ∧ t.cl.item = 0 ∧ t.cl.spineId = false ∧ t.cl.restartPending = false) ∧
  (∀ s : State, s.pins.resetLine = true →
     exec .resetRelease s = .next { s with cl.read := .reading, pins.resetLine := false })

/-- A read that gives a valid image leaves LOADING for DISARMED with the values R201 and the "Leaving LOADING" columns name
(R19, R20, R32, R33, R39, R49, R75, R76, R92, R115, R121, R128, R133, R150, R151, R170, R188, R196, R201, R203): every block is
named, but for what no column names and the model keeps beside the rules' values (log entries 6 and 36).  The effective range
of each channel is its soft range narrowed by every entry for it (R130, R133). -/
def Obligations.ValidImageEntersDisarmed : Prop :=
  ∀ (img : Image) (s : State), s.cl.read = .reading → img.verdict = none →
    ∃ t, exec (.leavingLoading img) s = .next t ∧
      t.ss = { safety := .disarmed, claims := [], overflow := false, overflowQuiet := 0, timer := none,
               armPending := none, disarmPending := none } ∧
      t.cl.read = .done ∧ t.cl.fault = 0 ∧ t.cl.item = 0 ∧ t.cl.spineId = true ∧ t.cl.restartPending = false ∧
      t.cfg = img.config ∧
      t.ft.running = true ∧ t.ft.frame0 = true ∧ t.ft.frame = 0 ∧ t.ft.tick = 0 ∧ t.ft.guard = false ∧ t.ft.acc = 0 ∧
      t.ft.watch = 0 ∧ t.ft.refPresent = false ∧
      t.lif.urgent = [] ∧ t.lif.ordinary = [] ∧ t.lif.failRun = 0 ∧ t.lif.txFailures = 0 ∧ t.lif.badMessages = 0 ∧
      t.lif.txDrops = 0 ∧ t.lif.quiet = 0 ∧ t.lif.dupQuiet = 32 ∧ t.lif.linkRelease = true ∧ t.lif.parkFilter = false ∧
      t.ru.learning = 32 ∧ t.ru.parkPending = false ∧
      t.ru.slots = List.replicate 8 { value := none, age := 0, pend := [] } ∧
      (∀ e ∈ t.ru.roster, e.pinned = true ∧ e.heard = false ∧ e.age = 0 ∧ e.last = none) ∧
      (∀ p, p ∈ img.peers ↔ ∃ e ∈ t.ru.roster, e.station = p) ∧
      (∀ i < 4, (t.chans.get i).mode = .off ∧ (t.chans.get i).x = 0 ∧ (t.chans.get i).v = 0 ∧ (t.chans.get i).u = 0 ∧
        (t.chans.get i).tRaw = none ∧ (t.chans.get i).t = none ∧ (t.chans.get i).held = 0 ∧ (t.chans.get i).gPrev = 0 ∧
        (t.chans.get i).gCur = 0 ∧ (t.chans.get i).gPend = none ∧ (t.chans.get i).halt = false ∧
        (t.chans.get i).clamped = false ∧ (t.chans.get i).dev = 0 ∧ (t.chans.get i).uRep = 0) ∧
      (∀ i < 4, t.spl.readings.get i =
        { position := 0, status := none, valid := false, stale := 0, ferr := 0, received := false, hist := [] }) ∧
      t.spl.read = none ∧
      (∀ i < 4, (t.dlu.lines.get i).enable = false ∧ (t.dlu.lines.get i).released = false ∧
        (t.dlu.lines.get i).faultOff = false ∧ (t.dlu.lines.get i).fault = false ∧
        (t.dlu.lines.get i).low = { active := false, run := 0 } ∧ (t.dlu.lines.get i).high = { active := false, run := 0 }) ∧
      t.pu = { entries := [], floor := 16, floorPend := [], floorQuiet := 0, ease := false, easePend := [], target := 16,
               applied := 16 } ∧
      t.zu.lines = List.replicate 8 { active := false, run := 0, seen := false, clear := 0 } ∧
      t.zu.estop = List.replicate 2 { active := false, run := 0, seen := false, clear := 0 } ∧ t.zu.ownFactor = 16 ∧
      t.tpr.activity = .idle ∧ t.tpr.take = none ∧ t.tpr.rate = none ∧ t.tpr.override = 0 ∧ t.tpr.cueSet = 0 ∧
      t.tpr.base = 0 ∧ t.tpr.cursor = 0 ∧ t.tpr.markIdx = none ∧ t.tpr.cueCompletion = none ∧ t.tpr.startPend = none ∧
      t.tpr.abortPend = none ∧ t.tpr.liveSet = 0 ∧ t.tpr.punch = false ∧ t.tpr.punchMask = 0 ∧ t.tpr.punchIdx = none ∧
      t.tpr.markCur = 0 ∧ t.tpr.markPrev = 0 ∧ t.tpr.markPend = [] ∧
      (∀ i < 4, t.tpr.live.get i = { age := 0, pend := [] }) ∧
      (∀ a ∈ t.iu.active, a = true) ∧ t.iu.active.length = img.config.cross.length ∧
      (∀ i < 4, i < img.nChans → t.iu.ranges.get i =
        (((img.config.cross.filter fun e => e.channel == i).map (·.limLow)).foldl max (img.config.chan.get i).lo,
          ((img.config.cross.filter fun e => e.channel == i).map (·.limHigh)).foldl min (img.config.chan.get i).hi)) ∧
      t.ts.width = some img.nChans ∧
      (s.ts.width = some img.nChans → t.ts.store = s.ts.store ∧
        t.ts.dir = s.ts.dir.map (Option.map fun k => { k with held := false })) ∧
      (∀ n, s.ts.width = some n → n ≠ img.nChans → t.ts.store = [] ∧ t.ts.dir = List.replicate 8 none) ∧
      (s.ts.width = none → t.ts.store = s.ts.store ∧ t.ts.dir = s.ts.dir) ∧
      t.attention = s.attention ∧ t.pins = s.pins ∧ t.pending = s.pending

/-- A read that fails leaves the node FAULTED with the code and item of the first failure (R20, R151, R198, R200, R203).  From
code 8 on the take store is settled by the channel count of the image: kept for the same count, empty for another (R150,
R151).  The first failure is the first condition that does not hold in the order of R198 and R199: NO-IMAGE, the CHECK, the
length of the records, the station record, the timing values, and so on; an image without a failure meets every condition of
R199.  That octets which end before the LENGTH of the header are a read that gives NO-IMAGE is log entry 14 (DESIGN CHOICE);
that of two entries with one station the later one fails is log entry 46 (DEDUCED). -/
def Obligations.FailedReadEntersFaulted : Prop :=
  (∀ s : State, s.cl.read = .reading →
    ∃ t, exec .noImage s = .next t ∧ t.ss.safety = .faulted ∧ t.cl.fault = 1 ∧ t.cl.item = 0 ∧ t.cl.spineId = false ∧
      t.cl.read = .done ∧ t.silent = true ∧ t.ft.running = true ∧
      t.cfg.timing = { refUse := false, n := 4000000, s := 4 } ∧ t.ts = s.ts ∧ t.attention = s.attention ∧
      (∀ i < 4, (t.chans.get i).mode = .off ∧ (t.dlu.lines.get i).enable = false ∧
        (t.dlu.lines.get i).released = false)) ∧
  (∀ (img : Image) (s : State) (c : Image.Check), s.cl.read = .reading → img.verdict = some c →
    ∃ t, exec (.faulted img) s = .next t ∧ t.ss.safety = .faulted ∧ t.cl.fault = c.code ∧ t.cl.item = c.item ∧
      t.cl.spineId = (img.intact && img.identity) ∧ t.cl.read = .done ∧ t.silent = !(img.intact && img.identity)
      ∧ t.pins = s.pins ∧ t.ft.running = true ∧
      (c.code ≤ 5 → t.cfg.timing = { refUse := false, n := 4000000, s := 4 }) ∧
      (6 ≤ c.code → t.cfg.timing = img.timing) ∧
      (7 ≤ c.code → t.cfg.controlsKnown = true ∧ t.cfg.controls = img.controls) ∧
      (c.code ≤ 6 → t.cfg.controlsKnown = false) ∧
      (c.code ≤ 7 → t.ts = s.ts) ∧
      (8 ≤ c.code → t.ts.width = some img.nChans ∧
        (s.ts.width = none → t.ts.store = s.ts.store ∧ t.ts.dir = s.ts.dir) ∧
        (s.ts.width = some img.nChans → t.ts.store = s.ts.store ∧
          t.ts.dir = s.ts.dir.map (Option.map fun k => { k with held := false })) ∧
        (∀ n, s.ts.width = some n → n ≠ img.nChans → t.ts.store = [] ∧ t.ts.dir = List.replicate 8 none)) ∧
      t.ss.claims = [] ∧ t.ru.roster = [] ∧ t.lif.urgent = [] ∧ t.lif.ordinary = [] ∧ t.tpr.activity = .idle ∧
      t.attention = s.attention ∧
      (∀ i < 4, (t.chans.get i).mode = .off ∧ (t.dlu.lines.get i).enable = false ∧
        (t.dlu.lines.get i).released = false)) ∧
  (∀ (img : Image) (c : Image.Check), img.verdict = some c ↔ c.holds = false ∧
    ∃ pre post, img.headerChecks ++ img.firstChecks ++ img.laterChecks = pre ++ c :: post ∧ ∀ d ∈ pre, d.holds = true) ∧
  (∀ img : Image,
    (img.verdict = some { code := 1, item := 0, holds := false } ↔
      ¬ (5 ≤ List.length img ∧ img.version = 1 ∧ 30 ≤ img.length ∧ img.length ≤ 8192 ∧
          img.length ≤ List.length img)) ∧
    (5 ≤ List.length img → img.version = 1 → 30 ≤ img.length → img.length ≤ 8192 → img.length ≤ List.length img →
      (img.verdict = some { code := 2, item := 0, holds := false } ↔
        (crcOctets ((List.take img.length img).drop 5)).toNat ≠ img.check) ∧
      ((crcOctets ((List.take img.length img).drop 5)).toNat = img.check →
        (img.verdict = some { code := 3, item := 0, holds := false } ↔ img.endAt ≠ img.length) ∧
        (img.endAt = img.length →
          (img.verdict = some { code := 4, item := 0, holds := false } ↔
            ¬ ((1 ≤ img.station ∧ img.station ≤ 62) ∧ (img.bitRate = 1 ∨ img.bitRate = 2 ∨ img.bitRate = 4))) ∧
          (1 ≤ img.station → img.station ≤ 62 → (img.bitRate = 1 ∨ img.bitRate = 2 ∨ img.bitRate = 4) →
            (img.verdict = some { code := 5, item := 0, holds := false } ↔ img.timingGood = false)))))) ∧
  (∀ img : Image, img.timingGood = true ↔
    img.refUse ≤ 1 ∧ 1 ≤ img.periodD ∧ img.periodD ≤ 65535 ∧ 4 ≤ img.periodM ∧ img.periodM ≤ 16 ∧ 8 ≤ img.periodP ∧
      img.periodP ≤ 255 ∧ (img.ticks = 4 ∨ img.ticks = 8 ∨ img.ticks = 16) ∧ 16000 * img.ticks ≤ img.period ∧
      3 ≤ img.lossTimeout ∧ img.lossTimeout ≤ 60 ∧ 2 ≤ img.liveTimeout ∧ img.liveTimeout ≤ 50 ∧ 1 ≤ img.paceStep ∧
      img.paceStep ≤ 16 ∧ 1 ≤ img.zoneClear ∧ img.zoneClear ≤ 250 ∧ 1 ≤ img.enableSettle ∧ img.enableSettle ≤ 50 ∧
      1 ≤ img.brakeRelease ∧ img.brakeRelease ≤ 50 ∧ 1 ≤ img.brakeSet ∧ img.brakeSet ≤ 50) ∧
  (∀ img : Image, img.verdict = none →
    (1 ≤ img.nControls ∧ img.nControls ≤ 2) ∧ img.controls.Nodup ∧
    (∀ v ∈ img.controls, 1 ≤ v ∧ v ≤ 62 ∧ v ≠ img.station) ∧ (1 ≤ img.nChans ∧ img.nChans ≤ 4) ∧
    (∀ c < img.nChans,
      ((img.chan c).kind.isLens = true →
        (img.chan c).brake = false ∧ (img.chan c).lowLimit = false ∧ (img.chan c).highLimit = false) ∧
      (img.chan c).lo < (img.chan c).hi ∧ 1 ≤ (img.chan c).vmax ∧ 1 ≤ (img.chan c).vcue ∧
      (img.chan c).vcue ≤ (img.chan c).vmax ∧ 1 ≤ (img.chan c).ferrMax ∧ 1 ≤ (img.chan c).ferrTicks ∧
      (img.chan c).ferrTicks ≤ 8 ∧ 1 ≤ (img.chan c).devTol ∧ 1 ≤ (img.chan c).amax ∧ (img.chan c).amax ≤ 4095 ∧
      (img.chan c).amax ≤ (img.chan c).astop ∧ (img.chan c).astop ≤ 8191 ∧ 2 ≤ (img.chan c).table.length ∧
      (img.chan c).table.length ≤ 16 ∧ ((img.chan c).table.Pairwise fun p q => p.1 < q.1) ∧
      (((img.chan c).table.Pairwise fun p q => p.2 < q.2) ∨ (img.chan c).table.Pairwise fun p q => q.2 < p.2) ∧
      ∀ p ∈ (img.chan c).table, (img.chan c).lo ≤ p.2 ∧ p.2 ≤ (img.chan c).hi) ∧
    (∀ n < 8, ((img.zone n).cls = .slow → 1 ≤ (img.zone n).factor ∧ (img.zone n).factor ≤ 15) ∧
      ((img.zone n).cls ≠ .slow → (img.zone n).factor = 0)) ∧
    img.nPeers ≤ 16 ∧ img.peers.Nodup ∧ (∀ v ∈ img.peers, 1 ≤ v ∧ v ≤ 62 ∧ v ≠ img.station) ∧
    img.nWatch ≤ 8 ∧
    (∀ n < img.nWatch, 1 ≤ (img.watch n).station ∧ (img.watch n).station ≤ 62 ∧ (img.watch n).station ≠ img.station ∧
      (img.watch n).channel ≤ 3) ∧
    img.nCross ≤ 12 ∧
    ∀ n < img.nCross, (img.cross n).channel < img.nChans ∧ (img.cross n).slot < img.nWatch ∧
      (img.cross n).srcLow ≤ (img.cross n).srcHigh ∧ (img.cross n).limLow ≤ (img.cross n).limHigh)

/-! ### Frames and ticks -/

/-- The generator's frame tick comes in the first clock cycle in which the accumulator reaches N, begins the next frame and
keeps the remainder (R22, R26, R28); in the five open states it takes one from the learning window, adds one to the quiet
counts, ages the roster and brings the watch slots to the frame, brings the pace entries, the floor and the ease flag to the
frame, forms the target pace from them, and moves the applied pace by at most the pace step toward that target (R7, R17, R35,
R39, R41, R125, R126, R127); the goals, the LIVE AGE and the marks turn over (R61, R173, R175, R178). The pieces of work of
the tick are then done in the order of the operand (log entry 2), the STATE among them where it is named, the last of them,
where the operand names none, the computation of servo tick 0 with its drive records (R26, R59, R73; both records of a channel
turned off and on again: log entry 43). Without a pending PARK or RESTART, which the tick may carry out (R45, R202). That the
cycles before the tick pass inside its command is the model's choice (log entry 4). A tick sent before servo tick S-1 ends its
frame as an edge does, which is log entry 16 (DESIGN CHOICE); that the tick carries the levels of its lines is log entry 1
(DESIGN CHOICE). That the forming of the cursor, the computation and what follows it are one piece of that work is log entry
54 (DESIGN CHOICE). -/
def Obligations.FlywheelTickBeginsTheNextFrame : Prop :=
  (∀ (l : LineLevels) (order : List TickWork) (s : State), s.ft.running = true → s.cl.restartPending = false →
     s.ft.acc < s.cfg.timing.n →
     ∃ t k, exec (.flywheelTick l order) s = .next t ∧ t.ft.frame = s.ft.frame + 1 ∧ t.ft.tick = 0 ∧
       t.ft.guard = false ∧ t.ft.running = true ∧ t.ft.acc + s.cfg.timing.n = s.ft.acc + 8 * k ∧ t.ft.acc < 8 ∧
       OnlyChanges [.lif, .ft, .ru, .chans, .spl, .dlu, .ss, .pu, .iu, .zu, .ts, .store, .tpr, .attention, .pins, .cl] s t ∧
       t.cl.read = s.cl.read ∧ t.cl.fault = s.cl.fault ∧ t.cl.item = s.cl.item ∧ t.cl.spineId = s.cl.spineId) ∧
  (∀ (l : LineLevels) (order : List TickWork) (s : State), s.ft.running = true → s.ss.safety.isOpen = true →
     s.cl.restartPending = false → s.ru.parkPending = false →
     ∃ t, exec (.flywheelTick l order) s = .next t ∧ FrameTurned s t) ∧
  (∀ (l : LineLevels) (order : List TickWork) (s : State), s.ft.running = true → s.ss.safety.isOpen = true →
     s.cl.restartPending = false → s.ru.parkPending = false →
     ∃ k p t, exec (.flywheelTick l order) s = .next t ∧ s.cfg.timing.n ≤ s.ft.acc + 8 * k ∧
       (∀ k' < k, s.ft.acc + 8 * k' < s.cfg.timing.n) ∧ Watched k s p ∧ FrameWorked l order p s t)

/-- A reference edge is accepted as a frame tick in frame 0 and after servo tick 1, absorbed before servo tick 1, and without
effect where the reference is not used (R23, R25, R27); an accepted edge carries out a RESTART that is due (R202), which the
first clause leaves out. An accepted edge does the work of a frame tick (R26): in the five open states what O6 states of the
generator's tick, with the node as it stood at the edge for the end of the frame before. While the reference is present, and
outside the five states in any case, the edge is the tick of a generator whose accumulator stands at N; the edge that sets the
flag differs from that tick in the REF-PRESENT of its STATE alone (log entry 49, DESIGN CHOICE). The reference is found lost
in the clock cycle in which the watch count reaches 3N/2: the flag is cleared and REF-LOST raised, and no frame, tick, claim
or safety state changes (R24). That the cycles before it pass inside the command is the model's choice (log entry 4). That the
edge carries the levels of its lines is log entry 1 (DESIGN CHOICE). That the forming of the cursor, the computation and what
follows it are one piece of that work is log entry 54 (DESIGN CHOICE). -/
def Obligations.ReferenceEdgesAndTheirLoss : Prop :=
  (∀ (l : LineLevels) (order : List TickWork) (s : State), s.ft.running = true → s.cfg.timing.refUse = true →
    s.cl.restartPending = false → (s.ft.frame0 = true ∨ 1 ≤ s.ft.tick) →
    ∃ t, exec (.referenceEdge l order) s = .next t ∧ t.ft.frame = s.ft.frame + 1 ∧ t.ft.tick = 0 ∧ t.ft.guard = false ∧
      t.ft.acc = 0 ∧ t.ft.watch = 0 ∧ t.ft.refPresent = true ∧
      (s.ft.frame0 = false → s.ft.tick + 1 < s.cfg.timing.s → attentionHas t.attention .tickSlip = true) ∧
      OnlyChanges [.lif, .ft, .ru, .chans, .spl, .dlu, .ss, .pu, .iu, .zu, .ts, .store, .tpr, .attention, .pins, .cl] s t) ∧
  (∀ (l : LineLevels) (order : List TickWork) (s : State), s.ft.running = true → s.cfg.timing.refUse = true →
    (s.ft.frame0 = true ∨ 1 ≤ s.ft.tick) → s.ss.safety.isOpen = true → s.cl.restartPending = false →
    s.ru.parkPending = false →
    ∃ t, exec (.referenceEdge l order) s = .next t ∧ FrameTurned s t ∧ FrameWorked l order s s t) ∧
  (∀ (l : LineLevels) (order : List TickWork) (s : State), s.ft.running = true → s.cfg.timing.refUse = true →
    (s.ft.frame0 = true ∨ 1 ≤ s.ft.tick) → (s.ft.refPresent = true ∨ s.ss.safety.isOpen = false) →
    exec (.referenceEdge l order) s =
      exec (.flywheelTick l order)
        { s with ft := { s.ft with acc := s.cfg.timing.n, watch := 0, refPresent := true } }) ∧
  (∀ (l : LineLevels) (order : List TickWork) (s : State), s.ft.running = true → s.cfg.timing.refUse = true →
    s.ft.frame0 = false → s.ft.tick = 0 →
    exec (.referenceEdge l order) s = .next { s with ft := { s.ft with acc := 0, watch := 0, refPresent := true } }) ∧
  (∀ (l : LineLevels) (order : List TickWork) (s : State), s.cfg.timing.refUse = false →
    exec (.referenceEdge l order) s = .next s) ∧
  (∀ s : State, s.ft.running = true → s.cfg.timing.refUse = true → 2 * s.ft.watch < 3 * s.cfg.timing.n →
     ∃ t k, exec .refLost s = .next t ∧ t.ft.refPresent = false ∧ attentionHas t.attention .refLost = true ∧
       t.attention = s.attention ||| 2#16 ∧
       t.ft.watch = s.ft.watch + 8 * k ∧ 3 * s.cfg.timing.n ≤ 2 * t.ft.watch ∧
       2 * t.ft.watch < 3 * s.cfg.timing.n + 16 ∧ t.ft.frame = s.ft.frame ∧ t.ft.tick = s.ft.tick ∧
       t.ft.guard = s.ft.guard ∧ t.ft.running = true ∧ OnlyChanges [.ft, .attention] s t)

/-- Servo tick j comes in the first clock cycle in which S times the accumulator is at least j × N; it sets the tick index,
and servo tick S-1 sets the guard flag (R26). That the cycles before it pass inside the command is the model's choice (log
entry 4). Its pieces of work are then each done once, in the order of the operand (log entry 2), and the channel records of
the next STATE noted (R42; log entry 41); the order of a frame tick may name the place of its STATE too (R195). The
computation reads what R52 names, gives every channel the values of its mode and sends the drive records, in channel order,
the record with ENABLE off once (R52, R59, R73, R88). That a channel turned off and on again between two computations has both
records is log entry 43. The tests made after it stand in the order of log entry 2, the UNDERRUN that its work has not raised
before it among them (R164). That the tick carries the levels of its lines is log entry 1 (DESIGN CHOICE). That the forming of
the cursor, the computation and what follows it are one piece of that work is log entry 54 (DESIGN CHOICE). -/
def Obligations.ServoTickSetsIndexAndGuard : Prop :=
  (∀ (l : LineLevels) (order : List TickWork) (s : State), s.ft.running = true → s.ft.frame0 = false →
    s.ft.tick + 1 < s.cfg.timing.s →
    ∃ t k, exec (.servoTick l order) s = .next t ∧ t.ft.tick = s.ft.tick + 1 ∧ t.ft.frame = s.ft.frame ∧
      t.ft.guard = decide (s.ft.tick + 2 = s.cfg.timing.s) ∧ t.ft.running = true ∧
      t.ft.acc = s.ft.acc + 8 * k ∧ (s.ft.tick + 1) * s.cfg.timing.n ≤ s.cfg.timing.s * t.ft.acc ∧
      (∀ k' < k, s.cfg.timing.s * (s.ft.acc + 8 * k') < (s.ft.tick + 1) * s.cfg.timing.n) ∧
      OnlyChanges [.lif, .ft, .chans, .spl, .dlu, .ss, .pu, .zu, .ts, .store, .tpr, .attention, .pins] s t) ∧
  (∀ order : List TickWork, (workOrder order servoWork).Perm servoWork ∧
    (workOrder order (frameWorkOf order)).Perm (frameWorkOf order) ∧
    (order.Perm servoWork → workOrder order servoWork = order) ∧
    (order.Perm (frameWorkOf order) → workOrder order (frameWorkOf order) = order) ∧
    (.report ∉ order → frameWorkOf order = frameWork) ∧ (.report ∈ order → frameWorkOf order = .report :: frameWork) ∧
    (∀ w : TickWork, w ∈ frameWork ↔ w ≠ .report) ∧ ∀ w : TickWork, w ∈ servoWork ↔ w.frameOnly = false) ∧
  (∀ (l : LineLevels) (order : List TickWork) (s : State), s.ft.running = true → s.ft.frame0 = false →
    s.ft.tick + 1 < s.cfg.timing.s → s.ss.safety ≠ .loading → s.ss.safety ≠ .faulted →
    ∃ v t, exec (.servoTick l order) s = .next t ∧ v.pins = { s.pins with lines := l } ∧
      (v.attention = s.attention ∨ v.attention = s.attention ||| 2#16) ∧ v.ft.tick = s.ft.tick + 1 ∧
      OnlyChanges [.ft, .attention, .pins] s v ∧
      t = noteReports (worked s.tickStart l (s.ft.tick + 1) (workOrder order servoWork) v) ∧
      (order = [] → s.cfg.nChans ≤ 4 →
        ∀ u, u = worked s.tickStart l (s.ft.tick + 1) [.poll, .faults, .limits, .zones, .underrun] v →
        (∀ i < s.cfg.nChans, Computed (s.ft.tick + 1) u t i) ∧
        t.dlu.port = (List.range s.cfg.nChans).flatMap (computedRecords (s.ft.tick + 1) u))) ∧
  (∀ (j i : Nat) (u : State), u.tickInput j i =
    { cfg := u.cfg.chan.get i, arming := u.ss.safety == .arming, pace := u.pu.applied, range := u.iu.ranges.get i, tick := j,
      ticks := u.cfg.timing.s, takeValue := u.takeValue i, position := (u.spl.readings.get i).position,
      valid := (u.spl.readings.get i).valid }) ∧
  (∀ (b : TickStart) (l : LineLevels) (j : Nat) (u : State), u.ss.safety ≠ .loading → u.ss.safety ≠ .faulted →
    u.cfg.nChans ≤ 4 →
    (∀ i < u.cfg.nChans, Computed j u (tickWork b l j .compute u) i) ∧
    (tickWork b l j .compute u).dlu.port = (List.range u.cfg.nChans).flatMap (computedRecords j u) ∧
    (∀ i < 4, ((tickWork b l j .compute u).dlu.lines.get i).offDue = false ∧
      ((tickWork b l j .compute u).dlu.lines.get i).enable = (u.dlu.lines.get i).enable)) ∧
  (∀ (b : TickStart) (l : LineLevels) (j : Nat) (u : State), u.ss.safety ≠ .loading → u.ss.safety ≠ .faulted →
    ∃ w, w = sendRecords (handHistory (computeChannels j (formCursor j u))) ∧
      ∃ r, r = playerTests (underrunOf ((formCursor j u).underrunTake j)
          (raiseLimits (raiseDeviation (punchWrite (if j = 0 then recordingWrite w else w))))) ∧
        (u.ss.safety = .stopping → tickWork b l j .compute u = stoppingTest r) ∧
        (u.ss.safety ≠ .stopping → tickWork b l j .compute u = r)) ∧
  (∀ s : State, playerTests s = endOfLive (endOfTake (cueTest s))) ∧
  (∀ (b : TickStart) (l : LineLevels) (j : Nat) (u : State), u.ss.safety.isOpen = true →
    tickWork b l j .peers u = losePeers u ∧ tickWork b l j .cross u = raiseCross b.active u ∧
    tickWork b l j .conflict u = raiseConflict u ∧ tickWork b l j .start u = startIfDue u ∧
    tickWork b l j .poll u = pollTick u ∧ tickWork b l j .faults u = sampleFaults l u ∧
    tickWork b l j .limits u = sampleLimits l u ∧ tickWork b l j .zones u = sampleZones l (sampleEstop l u) ∧
    tickWork b l j .underrun u = raiseUnderrun j u ∧ ∀ p : State, tickWork p.tickStart l j .report u = composeState p u)

/-! ### What a frame tick brings to its end -/

/-- The ends that touch one field: ROSTER_REMOVAL, WATCH_SLOT_UNKNOWN, LEARNING_WINDOW_END, PACE_FLOOR_RETURN, OVERFLOW_CLEAR
and LINK_QUIET (R17, R35, R39, R41, R102, R125). The quiet count of the pace floor stands at 32 until the next pending floor
value (R125); that the one of the overflow condition stands as well is the model's reading (log entry 39, DEDUCED). That these
rows act as commands of their own where the count or age stands at its end is log entry 3 (DESIGN CHOICE). -/
def Obligations.CountsAndAgesReachTheirEnds : Prop :=
  (∀ s : State, s.ss.safety.isOpen = true →
    exec .rosterRemoval s = .next { s with
      ru.roster := s.ru.roster.filter fun e => e.pinned || decide (e.age ≤ 4 * s.cfg.lossTimeout) }) ∧
  (∀ s : State, s.ss.safety.isOpen = true →
    exec .watchSlotUnknown s = .next { s with
      ru.slots := s.ru.slots.map fun w => if s.cfg.lossTimeout < w.age then { w with value := none } else w }) ∧
  (∀ s : State, s.ss.safety.isOpen = true → s.ru.learning = 1 →
    exec .learningWindowEnd s = .next { s with ru.learning := 0 }) ∧
  (∀ s : State, s.ss.safety.isOpen = true → s.pu.floorQuiet = 32 → s.pu.floor < 16 →
    exec .paceFloorReturn s = .next { s with pu.floor := 16 }) ∧
  (∀ s : State, s.ss.safety.isOpen = true → s.ss.overflowQuiet = 32 → s.ss.overflow = true →
    exec .overflowClear s = .next { s with ss.overflow := false }) ∧
  (∀ s : State, s.ss.safety ≠ .loading → s.ss.safety ≠ .parked → s.lif.quiet = 8 →
    exec .linkQuiet s = .next { s with attention := s.attention ||| 64#16 })

/-- PEER_LOST raises the node's own PEER claim with the lowest station of the lost set as detail (R38, R94). That the row acts
as a command of its own where such a station stands in the roster is log entry 3 (DESIGN CHOICE). -/
def Obligations.PeerLostRaisesPeer : Prop :=
  ∀ (s : State) (d : Nat), s.ss.safety.isOpen = true →
    (∃ e ∈ s.ru.roster, e.pinned = true ∧ e.heard = true ∧ e.age = s.cfg.lossTimeout + 1) →
    d ∈ s.lostSet → (∀ x ∈ s.lostSet, d ≤ x) →
    exec .peerLost s = .next (raiseOwn .peer d s) ∧
    (findClaim s.ss.claims s.cfg.station .peer = none → s.ss.claims.length < 32 →
      ∃ t, exec .peerLost s = .next t ∧
        findClaim t.ss.claims s.cfg.station .peer =
          some { origin := s.cfg.station, cause := .peer, detail := d, latched := true })

/-- An own cause: a new entry is added and its STOP queued, with a queued ROLL composed afresh, and what it brings about in the
safety state follows without another urgent message (R95, R101); in ARMING and ARMED the node enters STOPPING in the same event,
the timer stops, the activity is IDLE and every channel whose drive is on goes to STOP; a standing entry takes a new detail
(R94, R95, R108).  Entering STOPPING, a pending ARM and a pending CUE complete with STOPPED; the activity
is forced to IDLE: its take, rate, masks, cue set, cursor, marks, LIVE SET, goals and punch state are cleared, a recording ends,
a stream take that played is SPENT with HELD clear, and the ease flag is cleared for the next frame (R108, R169, R170, R187,
R188).  In a full list the remote entry that stands last gives way to it, which is a refusal and sets the overflow
condition (R95, R102).  An own ESTOP cuts the drives at once: from ARMING, ARMED, STOPPING and SECURING the node enters
DISARMED with every drive off, every brake set and every channel OFF, the activity forced to IDLE in the same way, a pending ARM
and CUE completed with STOPPED and a pending DISARM with DONE (R112, R113, R114).  A raising of the SPL or the DLU is handed
on when the entry does not stand or the new detail is lower (R80), and DEVIATION names the lowest channel in PLAY whose count
stands at 2 (R70). -/
def Obligations.OwnCauseIsEnteredAndStopsTheNode : Prop :=
  (∀ (c : Cause) (d : Nat) (s u : State), s.ss.safety.isOpen = true → findClaim s.ss.claims s.cfg.station c = none →
    s.ss.claims.length < 32 →
    u = recomposeRoll (broadcast (.stop c d) { s with
      ss.claims := insertClaim { origin := s.cfg.station, cause := c, detail := d, latched := c.isLatched } s.ss.claims }) →
    (c ≠ .estop → raiseOwn c d s = stopIfMoving u) ∧ (c = .estop → raiseOwn c d s = estopCut u) ∧
    (raiseOwn c d s).lif.urgent = u.lif.urgent ∧
    (s.lif.urgent.length < 16 → ∃ e ∈ (raiseOwn c d s).lif.urgent,
      e.msg = { dest := 0, body := .stop c d } ∨ e.active = true ∧ e.succ = some { dest := 0, body := .stop c d })) ∧
  (∀ s : State, (s.ss.safety.canStop = false → stopIfMoving s = s) ∧ (s.ss.safety.driven = false → estopCut s = s) ∧
    (s.ss.safety.canStop = true → s.cfg.nChans ≤ 4 → EntersStopping s (stopIfMoving s)) ∧
    (s.ss.safety.driven = true → s.cfg.nChans ≤ 4 → EntersDisarmed s (estopCut s))) ∧
  (∀ (c : Cause) (d : Nat) (s : State), c ≠ .estop → s.ss.safety.canStop = true → s.cfg.nChans ≤ 4 →
    findClaim s.ss.claims s.cfg.station c = none → s.ss.claims.length < 32 →
    (∃ u, u = recomposeRoll (broadcast (.stop c d) { s with ss.claims := (raiseOwn c d s).ss.claims }) ∧
      EntersStopping u (raiseOwn c d s)) ∧ ForcedIdle s (raiseOwn c d s) ∧
    (raiseOwn c d s).ss.safety = .stopping ∧ (raiseOwn c d s).ss.timer = none ∧
    (raiseOwn c d s).ss.armPending = none ∧ (raiseOwn c d s).tpr.activity = .idle ∧
    (raiseOwn c d s).ss.claims =
      insertClaim { origin := s.cfg.station, cause := c, detail := d, latched := c.isLatched } s.ss.claims ∧
    OnlyChanges [.lif, .chans, .ss, .pu, .ts, .tpr, .attention] s (raiseOwn c d s) ∧
    ∀ i < s.cfg.nChans, (s.dlu.lines.get i).enable = true → (s.chans.get i).mode ≠ .off →
      ((raiseOwn c d s).chans.get i).mode = .stop) ∧
  (∀ (c : Cause) (d : Nat) (s : State), c ≠ .estop → s.ss.safety.isOpen = true → s.ss.safety.canStop = false →
    findClaim s.ss.claims s.cfg.station c = none → s.ss.claims.length < 32 →
    raiseOwn c d s = recomposeRoll (broadcast (.stop c d) { s with
      ss.claims := insertClaim { origin := s.cfg.station, cause := c, detail := d, latched := c.isLatched } s.ss.claims })) ∧
  (∀ (c : Cause) (d : Nat) (e : Claim) (s : State), s.ss.safety.isOpen = true →
    findClaim s.ss.claims s.cfg.station c = some e → e.detail ≠ d →
    raiseOwn c d s = recomposeRoll (broadcast (.stop c d) { s with
      ss.claims := s.ss.claims.map fun k =>
        if k.origin = s.cfg.station ∧ k.cause = c then { k with detail := d } else k })) ∧
  (∀ (c : Cause) (d : Nat) (e : Claim) (s : State), findClaim s.ss.claims s.cfg.station c = some e → e.detail = d →
    raiseOwn c d s = s) ∧
  (∀ (c : Cause) (d : Nat) (s : State), s.ss.safety.isOpen = false → raiseOwn c d s = s) ∧
  (∀ (d : Nat) (s : State), s.ss.safety.driven = true → s.cfg.nChans ≤ 4 →
     findClaim s.ss.claims s.cfg.station .estop = none → s.ss.claims.length < 32 →
     (∃ u, u = recomposeRoll (broadcast (.stop .estop d) { s with ss.claims := (raiseOwn .estop d s).ss.claims }) ∧
       EntersDisarmed u (raiseOwn .estop d s)) ∧ ForcedIdle s (raiseOwn .estop d s) ∧
     (raiseOwn .estop d s).ss.safety = .disarmed ∧ (raiseOwn .estop d s).ss.timer = none ∧
     (raiseOwn .estop d s).ss.armPending = none ∧ (raiseOwn .estop d s).ss.disarmPending = none ∧
     (raiseOwn .estop d s).tpr.activity = .idle ∧
     (raiseOwn .estop d s).ss.claims =
       insertClaim { origin := s.cfg.station, cause := .estop, detail := d, latched := false } s.ss.claims ∧
     OnlyChanges [.lif, .chans, .spl, .dlu, .ss, .pu, .ts, .tpr, .attention] s (raiseOwn .estop d s) ∧
     ∀ i < s.cfg.nChans, ((raiseOwn .estop d s).dlu.lines.get i).enable = false ∧
       ((raiseOwn .estop d s).dlu.lines.get i).released = false ∧
       ((raiseOwn .estop d s).dlu.lines.get i).faultOff = false ∧
       ((raiseOwn .estop d s).chans.get i).mode = .off ∧
       ((s.chans.get i).mode ≠ .off → ((raiseOwn .estop d s).chans.get i).v = 0)) ∧
  (∀ (c : Cause) (d : Nat) (s : State) (pre post : List Claim) (k : Claim), s.ss.safety.isOpen = true →
    findClaim s.ss.claims s.cfg.station c = none → s.ss.claims.length = 32 → s.ss.claims = pre ++ k :: post →
    k.origin ≠ s.cfg.station → (∀ x ∈ post, x.origin = s.cfg.station) →
    (raiseOwn c d s).ss.claims =
      insertClaim { origin := s.cfg.station, cause := c, detail := d, latched := c.isLatched } (pre ++ post) ∧
    (raiseOwn c d s).ss.overflow = true ∧ (raiseOwn c d s).ss.overflowQuiet = 0 ∧
    attentionHas (raiseOwn c d s).attention .claimOverflow = true ∧
    (∃ u w, u = recomposeRoll (broadcast (.stop c d) { s with ss.claims := (raiseOwn c d s).ss.claims }) ∧
      w = { u with ss := { u.ss with overflow := true, overflowQuiet := 0 }, attention := u.attention ||| 1#16 } ∧
      (c ≠ .estop → raiseOwn c d s = stopIfMoving w) ∧ (c = .estop → raiseOwn c d s = estopCut (stopIfMoving w)) ∧
      (raiseOwn c d s).lif.urgent = u.lif.urgent ∧
      (s.lif.urgent.length < 16 → ∃ e ∈ (raiseOwn c d s).lif.urgent,
        e.msg = { dest := 0, body := .stop c d } ∨ e.active = true ∧ e.succ = some { dest := 0, body := .stop c d })) ∧
    (c ≠ .estop → s.ss.safety.canStop = true →
      (raiseOwn c d s).ss.safety = .stopping ∧ (raiseOwn c d s).tpr.activity = .idle) ∧
    (c ≠ .estop → s.ss.safety.canStop = false → (raiseOwn c d s).ss.safety = s.ss.safety ∧
      ∃ u, u = recomposeRoll (broadcast (.stop c d) { s with ss.claims := (raiseOwn c d s).ss.claims }) ∧
        raiseOwn c d s = { u with
          ss := { u.ss with overflow := true, overflowQuiet := 0 }, attention := u.attention ||| 1#16 }) ∧
    (c = .estop → s.ss.safety.driven = true →
      (raiseOwn c d s).ss.safety = .disarmed ∧ (raiseOwn c d s).tpr.activity = .idle ∧
      ∀ i < 4, i < s.cfg.nChans → ((raiseOwn c d s).dlu.lines.get i).enable = false ∧
        ((raiseOwn c d s).dlu.lines.get i).released = false) ∧
    OnlyChanges [.lif, .chans, .spl, .dlu, .ss, .pu, .ts, .tpr, .attention] s (raiseOwn c d s)) ∧
  (∀ (c : Cause) (d : Nat) (s : State),
    (findClaim s.ss.claims s.cfg.station c = none → raiseFiltered c d s = raiseOwn c d s) ∧
    ∀ e, findClaim s.ss.claims s.cfg.station c = some e →
      (d < e.detail → raiseFiltered c d s = raiseOwn c d s) ∧ (e.detail ≤ d → raiseFiltered c d s = s)) ∧
  (∀ s : State,
    (∀ i < s.cfg.nChans, (s.chans.get i).mode = .play → (s.chans.get i).dev = 2 →
      (∀ k < i, (s.chans.get k).mode = .play → (s.chans.get k).dev ≠ 2) →
      raiseDeviation s = raiseOwn .deviation i s) ∧
    ((∀ i < s.cfg.nChans, (s.chans.get i).mode = .play → (s.chans.get i).dev ≠ 2) → raiseDeviation s = s))

/-- ZONE_CLEAR and ESTOP_CLEAR: a line or input whose clear count stands at its clear time becomes clear; when the last active
one clears, the condition ends and the own entry is gone (R96, R117, R118, R120). A frame tick counts a whole inactive frame
of an active line, or sets the count to 0, and clears first the inputs, then the lines that have reached their clear time
(R117, R120; the order is log entry 44). A line becomes active at its second consecutive active sample, and a limit line turns
at the second sample that disagrees (R90, R116). A sample or a clearing that changes the ZONE or the ESTOP condition raises
the own claim with the lowest active line as detail, or withdraws it (R118, R120), and one that changes the own factor queues
PACE (R119), after the claim's message (log entry 47). A drive-fault line active at its sample turns an output that is on off
with its fault-off flag set, and raises DRIVE with the lowest such channel (R89). LIMIT is raised at the sample that makes a
limit line active and after a velocity toward an active line (R91); that a line pressed before the node left LOADING is one
whose samples since have all been active is log entry 40 (DEDUCED). That the two rows act as commands of their own is log
entry 3, that a tick carries the levels of its lines log entry 1 (DESIGN CHOICE). -/
def Obligations.ZoneAndEstopLinesClear : Prop :=
  (∀ s : State, s.ss.safety.isOpen = true →
    ∃ t, exec .zoneClear s = .next t ∧
      t.zu.lines = s.zu.lines.map (fun l =>
        if l.active = true ∧ s.cfg.zoneClearTime ≤ l.clear then { l with active := false, run := 0 } else l) ∧
      t.zu.ownFactor = t.slowFactor ∧
      (s.zoneCondition ≠ none → t.zoneCondition = none → findClaim t.ss.claims s.cfg.station .zone = none) ∧
      t.zu.estop = s.zu.estop ∧ OnlyChanges [.lif, .chans, .ss, .pu, .zu, .ts, .tpr, .attention] s t) ∧
  (∀ s : State, s.ss.safety.isOpen = true →
    ∃ t, exec .estopClear s = .next t ∧
      t.zu.estop = s.zu.estop.map (fun l =>
        if l.active = true ∧ 2 ≤ l.clear then { l with active := false, run := 0 } else l) ∧
      (s.estopCondition ≠ none → t.estopCondition = none → findClaim t.ss.claims s.cfg.station .estop = none) ∧
      t.zu.lines = s.zu.lines ∧ t.zu.ownFactor = s.zu.ownFactor ∧
      OnlyChanges [.lif, .chans, .spl, .dlu, .ss, .pu, .zu, .ts, .tpr, .attention] s t) ∧
  (∀ f : LineFilter, f.active = false →
    (f.run = 0 → f.sample true = { f with run := 1 }) ∧
    (1 ≤ f.run → f.sample true = { active := true, run := 0, seen := true, clear := 0 }) ∧
    f.sample false = { f with run := 0 }) ∧
  (∀ (n : Nat) (f : LineFilter), (f.active = false → f.count n = f) ∧
    (f.active = true → f.seen = true → f.count n = { f with clear := 0, seen := false }) ∧
    (f.active = true → f.seen = false → f.count n = { f with clear := min n (f.clear + 1) })) ∧
  (∀ s w : State, s.ss.safety.isOpen = true →
    w = { s with zu := { s.zu with
      lines := s.zu.lines.map (LineFilter.count s.cfg.zoneClearTime), estop := s.zu.estop.map (LineFilter.count 2) } } →
    ∃ v, exec .estopClear w = .next v ∧ exec .zoneClear v = .next (zoneFrameTick s)) ∧
  (∀ f : LineFilter, f.active = true → f.sample true = { f with seen := true, clear := 0 } ∧ f.sample false = f) ∧
  (∀ (a : Bool) (l : LimitLine), l.sample l.active = { l with run := 0 } ∧
    (l.active ≠ a → 1 ≤ l.run → l.sample a = { active := a, run := 0 }) ∧
    (l.active ≠ a → l.run = 0 → l.sample a = { l with run := 1 })) ∧
  (∀ (s : State) (d : Nat), (s.zoneCondition = some d ↔ d < 8 ∧ (∃ f, s.zu.lines[d]? = some f ∧ f.active = true) ∧
      (NodeCfg.zone s.cfg d).cls = .stop ∧
      ∀ k < d, ∀ f, s.zu.lines[k]? = some f → f.active = true → (NodeCfg.zone s.cfg k).cls ≠ .stop) ∧
    (s.estopCondition = some d ↔ d < 2 ∧ (∃ f, s.zu.estop[d]? = some f ∧ f.active = true) ∧
      ∀ k < d, ∀ f, s.zu.estop[k]? = some f → f.active = false)) ∧
  (∀ s : State, s.slowFactor ≤ 16 ∧
    (∀ n < 8, ∀ f, s.zu.lines[n]? = some f → f.active = true → (NodeCfg.zone s.cfg n).cls = .slow →
      s.slowFactor ≤ (NodeCfg.zone s.cfg n).factor) ∧
    (s.slowFactor = 16 ∨ ∃ n < 8, ∃ f, s.zu.lines[n]? = some f ∧ f.active = true ∧ (NodeCfg.zone s.cfg n).cls = .slow ∧
      s.slowFactor = (NodeCfg.zone s.cfg n).factor) ∧
    (s.slowFactor = s.zu.ownFactor → reportFactor s = s) ∧
    (s.slowFactor ≠ s.zu.ownFactor →
      reportFactor s = recomposeRoll (broadcast (.pace s.slowFactor) { s with zu.ownFactor := s.slowFactor }))) ∧
  (∀ (l : LineLevels) (s : State),
    sampleZones l s = changeZones (fun s => s.zu.lines.mapIdx fun n f =>
      f.sample (l.zone.getLsbD n == (NodeCfg.zone s.cfg n).high)) s ∧
    sampleEstop l s = changeEstop (fun s => s.zu.estop.mapIdx fun n f => f.sample (l.estop.getLsbD n)) s ∧
    (s.ss.safety.isOpen = true → exec .zoneClear s = .next (changeZones (fun s => s.zu.lines.map fun f =>
      if f.active = true ∧ s.cfg.zoneClearTime ≤ f.clear then { f with active := false, run := 0 } else f) s))) ∧
  (∀ (g : State → List LineFilter) (s w : State), w = { s with zu.lines := g s } →
    (w.zoneCondition = s.zoneCondition → changeZones g s = reportFactor w) ∧
    (∀ d, w.zoneCondition = some d → s.zoneCondition ≠ some d →
      changeZones g s = reportFactor (raiseOwn .zone d w) ∧
      (s.ss.safety.isOpen = true →
        (findClaim s.ss.claims s.cfg.station .zone ≠ none ∨ s.ss.claims.length < 32) →
        (∃ k, findClaim (changeZones g s).ss.claims s.cfg.station .zone = some k ∧ k.detail = d) ∧
        (findClaim s.ss.claims s.cfg.station .zone = none → s.ss.safety.canStop = true →
          (changeZones g s).ss.safety = .stopping))) ∧
    (w.zoneCondition = none → s.zoneCondition ≠ none →
      changeZones g s = reportFactor (withdrawOwn .zone w) ∧
      findClaim (changeZones g s).ss.claims s.cfg.station .zone = none)) ∧
  (∀ (g : State → List LineFilter) (s w : State), w = { s with zu.estop := g s } →
    (w.estopCondition = s.estopCondition → changeEstop g s = w) ∧
    (∀ d, w.estopCondition = some d → s.estopCondition ≠ some d →
      changeEstop g s = raiseOwn .estop d w ∧
      (s.ss.safety.isOpen = true →
        (findClaim s.ss.claims s.cfg.station .estop ≠ none ∨ s.ss.claims.length < 32) →
        (∃ k, findClaim (changeEstop g s).ss.claims s.cfg.station .estop = some k ∧ k.detail = d) ∧
        (findClaim s.ss.claims s.cfg.station .estop = none → s.ss.safety.driven = true →
          (changeEstop g s).ss.safety = .disarmed))) ∧
    (w.estopCondition = none → s.estopCondition ≠ none →
      changeEstop g s = withdrawOwn .estop w ∧
      findClaim (changeEstop g s).ss.claims s.cfg.station .estop = none)) ∧
  (∀ (l : LineLevels) (s : State), s.ss.safety ≠ .loading → s.ss.safety ≠ .faulted → s.cfg.nChans ≤ 4 →
    (∀ i < s.cfg.nChans,
      ((sampleFaults l s).dlu.lines.get i).fault = l.fault.getLsbD i ∧
      (l.fault.getLsbD i = false →
        (sampleFaults l s).dlu.lines.get i = { s.dlu.lines.get i with fault := false }) ∧
      (l.fault.getLsbD i = true → (s.dlu.lines.get i).enable = true →
        ((sampleFaults l s).dlu.lines.get i).enable = false ∧ ((sampleFaults l s).dlu.lines.get i).released = false ∧
        ((sampleFaults l s).dlu.lines.get i).faultOff = true ∧ ((sampleFaults l s).chans.get i).mode = .off) ∧
      (l.fault.getLsbD i = true → (s.dlu.lines.get i).enable = false →
        ((sampleFaults l s).dlu.lines.get i) = { s.dlu.lines.get i with fault := true }) ∧
      (l.fault.getLsbD i = true → (∀ k < i, l.fault.getLsbD k = false) → s.ss.safety.isOpen = true →
        findClaim s.ss.claims s.cfg.station .drive = none → s.ss.claims.length < 32 →
        findClaim (sampleFaults l s).ss.claims s.cfg.station .drive =
          some { origin := s.cfg.station, cause := .drive, detail := i, latched := true } ∧
        (s.ss.safety.canStop = true → (sampleFaults l s).ss.safety = .stopping))) ∧
    ((∀ i < s.cfg.nChans, l.fault.getLsbD i = false) → OnlyChanges [.dlu] s (sampleFaults l s)) ∧
    (s.ss.safety.isOpen = false → OnlyChanges [.chans, .spl, .dlu] s (sampleFaults l s)) ∧
    OnlyChanges [.lif, .chans, .spl, .dlu, .ss, .pu, .ts, .tpr, .attention] s (sampleFaults l s)) ∧
  (∀ (a : Bool) (i : Nat) (s : State), i < 4 →
    ((s.cfg.chan.get i).lowLimit = false → sampleLow a i s = s) ∧
    ((s.cfg.chan.get i).highLimit = false → sampleHigh a i s = s) ∧
    ((s.cfg.chan.get i).lowLimit = true →
      ∃ w, w = { s with dlu.lines := s.dlu.lines.set i { s.dlu.lines.get i with
          low := (s.dlu.lines.get i).low.sample a, lowHeld := (s.dlu.lines.get i).lowHeld && a } } ∧
        ((s.dlu.lines.get i).low.active = false → ((s.dlu.lines.get i).low.sample a).active = true →
          (s.dlu.lines.get i).lowHeld = false → sampleLow a i s = raiseFiltered .limit (2 * i) w) ∧
        ((s.dlu.lines.get i).low.active = true ∨ ((s.dlu.lines.get i).low.sample a).active = false ∨
          (s.dlu.lines.get i).lowHeld = true → sampleLow a i s = w)) ∧
    ((s.cfg.chan.get i).highLimit = true →
      ∃ w, w = { s with dlu.lines := s.dlu.lines.set i { s.dlu.lines.get i with
          high := (s.dlu.lines.get i).high.sample a, highHeld := (s.dlu.lines.get i).highHeld && a } } ∧
        ((s.dlu.lines.get i).high.active = false → ((s.dlu.lines.get i).high.sample a).active = true →
          (s.dlu.lines.get i).highHeld = false → sampleHigh a i s = raiseFiltered .limit (2 * i + 1) w) ∧
        ((s.dlu.lines.get i).high.active = true ∨ ((s.dlu.lines.get i).high.sample a).active = false ∨
          (s.dlu.lines.get i).highHeld = true → sampleHigh a i s = w))) ∧
  (∀ s : State, (∀ i < s.cfg.nChans, ((s.dlu.lines.get i).low.active = true → 0 ≤ (s.chans.get i).v) ∧
      ((s.dlu.lines.get i).high.active = true → (s.chans.get i).v ≤ 0)) → raiseLimits s = s) ∧
  (∀ (s : State) (i d : Nat), s.ss.safety.isOpen = true → s.cfg.nChans ≤ 4 → i < s.cfg.nChans →
    ((s.dlu.lines.get i).low.active = true ∧ (s.chans.get i).v < 0 ∧ d = 2 * i ∨
      (s.dlu.lines.get i).high.active = true ∧ 0 < (s.chans.get i).v ∧ d = 2 * i + 1) →
    (∀ k < i, ((s.dlu.lines.get k).low.active = true → 0 ≤ (s.chans.get k).v) ∧
      ((s.dlu.lines.get k).high.active = true → (s.chans.get k).v ≤ 0)) →
    findClaim s.ss.claims s.cfg.station .limit = none → s.ss.claims.length < 32 →
    raiseLimits s = raiseOwn .limit d s ∧
    findClaim (raiseLimits s).ss.claims s.cfg.station .limit =
      some { origin := s.cfg.station, cause := .limit, detail := d, latched := true } ∧
    (s.ss.safety.canStop = true → (raiseLimits s).ss.safety = .stopping))

/-- LIVE_TIMEOUT: a live channel whose LIVE AGE has reached the live timeout leaves the LIVE SET, its pending goals are
emptied, it halts and LIVE-STALE is raised; a channel that has not timed out keeps its live control (R175). After a computed
tick the activity LIVE ends when the LIVE SET is empty and every channel is in HOLD, and not before (R176). That the row acts
as a command of its own where a LIVE AGE stands at the timeout is log entry 3 (DESIGN CHOICE). -/
def Obligations.LiveTimeoutHaltsTheChannel : Prop :=
  (∀ (s : State) (i : Nat), s.ss.safety = .armed → s.cfg.nChans ≤ 4 → i < s.cfg.nChans →
    ∃ t, exec .liveTimeout s = .next t ∧
      (s.tpr.liveSet.getLsbD i = true → s.cfg.liveTimeout ≤ (s.tpr.live.get i).age →
        t.tpr.liveSet.getLsbD i = false ∧ (t.tpr.live.get i).pend = [] ∧ attentionHas t.attention .liveStale = true ∧
        ((s.dlu.lines.get i).enable = true → (t.chans.get i).mode = .halt)) ∧
      (s.tpr.liveSet.getLsbD i = false ∨ (s.tpr.live.get i).age < s.cfg.liveTimeout →
        t.tpr.liveSet.getLsbD i = s.tpr.liveSet.getLsbD i ∧ t.tpr.live.get i = s.tpr.live.get i ∧
        t.chans.get i = s.chans.get i) ∧
      OnlyChanges [.chans, .tpr, .attention] s t) ∧
  (∀ s : State, s.tpr.activity = .live → s.tpr.liveSet = 0 → (∀ i < s.cfg.nChans, (s.chans.get i).mode = .hold) →
    endOfLive s = { s with tpr := { s.tpr with
      activity := .idle, liveSet := 0, live := Quad.fill { age := 0, pend := [] }, markCur := 0, markPrev := 0,
      markPend := [], punch := false, punchMask := 0, punchIdx := none } }) ∧
  (∀ s : State, (s.tpr.activity ≠ .live ∨ s.tpr.liveSet ≠ 0 ∨ ∃ i < s.cfg.nChans, (s.chans.get i).mode ≠ .hold) →
    endOfLive s = s)

/-- The three ends of the brake timer: ENABLE_SETTLE_END releases the brakes that can be released and starts the brake-release
time; BRAKE_RELEASE_END makes the node ARMED and completes the ARM; BRAKE_SET_END makes it DISARMED with every drive off and
every channel OFF, whatever the claims list holds, and completes a pending DISARM with DONE (R107, R111, R112, R114). A frame
tick takes one from a phase that stood before it and leaves a phase that began within it (the sequence of section 6.6), and
does the end that the count comes to. After a tick computed in STOPPING with every channel at rest the node enters SECURING
with its brakes set, and not before (R110). That the three rows act as commands of their own where the timer stands at its end
is log entry 3 (DESIGN CHOICE). -/
def Obligations.BrakeTimerEnds : Prop :=
  (∀ s : State, s.ss.safety = .arming → s.ss.timer = some { phase := .enable, frames := 0 } → s.cfg.nChans ≤ 4 →
    ∃ t, exec .enableSettleEnd s = .next t ∧
      t.ss = { s.ss with timer := some { phase := .release, frames := s.cfg.brakeRelease } } ∧
      (∀ i < s.cfg.nChans, (t.dlu.lines.get i).released =
        ((s.dlu.lines.get i).released || ((s.cfg.chan.get i).brake && (s.dlu.lines.get i).enable)) ∧
        (t.dlu.lines.get i).enable = (s.dlu.lines.get i).enable) ∧
      OnlyChanges [.ss, .dlu] s t) ∧
  (∀ (s : State) (w : Slot), s.ss.safety = .arming → s.ss.timer = some { phase := .release, frames := 0 } →
    s.ss.armPending = some w →
    ∃ t, exec .brakeReleaseEnd s = .next t ∧
      t.ss = { s.ss with safety := .armed, timer := none, armPending := none } ∧
      t.lif = (reply w codeArm .done .none s).lif ∧ OnlyChanges [.ss, .lif, .attention] s t) ∧
  (∀ s : State, s.ss.safety = .securing → s.ss.timer = some { phase := .set, frames := 0 } → s.cfg.nChans ≤ 4 →
    ∃ t, exec .brakeSetEnd s = .next t ∧ EntersDisarmed s t ∧
      (∀ w, s.ss.disarmPending = some w → s.ss.armPending = none → s.tpr.activity = .idle →
        t.lif = (reply w codeDisarm .done .none s).lif) ∧ t.ss.safety = .disarmed ∧ t.ss.timer = none ∧ t.ss.disarmPending = none ∧
      t.ss.claims = s.ss.claims ∧ t.ss.overflow = s.ss.overflow ∧ t.tpr.activity = .idle ∧
      OnlyChanges [.lif, .chans, .spl, .dlu, .ss, .pu, .ts, .tpr, .attention] s t ∧
      ∀ i < s.cfg.nChans, (t.dlu.lines.get i).enable = false ∧ (t.dlu.lines.get i).released = false ∧
        (t.dlu.lines.get i).faultOff = false ∧ (t.chans.get i).mode = .off) ∧
  (∀ (b : TickStart) (l : LineLevels) (j : Nat) (k : BrakeTimer) (s : State), s.ss.safety.isOpen = true →
    s.ss.timer = some k →
    (b.phase ≠ some k.phase → tickWork b l j .brake s = s) ∧
    (b.phase = some k.phase → 2 ≤ k.frames →
      tickWork b l j .brake s = { s with ss.timer := some { phase := k.phase, frames := k.frames - 1 } }) ∧
    (b.phase = some k.phase → k.frames ≤ 1 →
      exec (match k.phase with
        | .enable => .enableSettleEnd
        | .release => .brakeReleaseEnd
        | .set => .brakeSetEnd) { s with ss.timer := some { phase := k.phase, frames := 0 } } =
      .next (tickWork b l j .brake s))) ∧
  (∀ (b : TickStart) (l : LineLevels) (j : Nat) (s : State), s.ss.timer = none → tickWork b l j .brake s = s) ∧
  (∀ s : State, s.ss.safety = .stopping → s.cfg.nChans ≤ 4 →
    ((∀ i < s.cfg.nChans, (s.chans.get i).atRest = true ∨ (s.chans.get i).mode = .off) →
      (stoppingTest s).ss = { s.ss with safety := .securing, timer := some { phase := .set, frames := s.cfg.brakeSet } } ∧
      (∀ i < s.cfg.nChans, ((stoppingTest s).dlu.lines.get i).released = false ∧
        ((stoppingTest s).dlu.lines.get i).enable = (s.dlu.lines.get i).enable) ∧
      OnlyChanges [.dlu, .ss] s (stoppingTest s)) ∧
    ((∃ i < s.cfg.nChans, (s.chans.get i).atRest = false ∧ (s.chans.get i).mode ≠ .off) → stoppingTest s = s))

/-- START_ACTION at a qualified node enters PLAYING with the cursor at 0 and PLAY on the cue channels; at a node that holds
the take but is not qualified it queues ABORT, whatever its safety state and activity, and a running cue of the take ends with
CANCELLED; at a node that does not hold the take, and in PLAYING and EASING, it has no effect; before its frame it waits
(R161). The mark of index 0 is taken at the start, and on a punch-in pass the punch channels go live (R166, R183). That the
row acts as a command of its own where the frame in progress is the action frame, and has no effect in another frame, is log
entry 3 (DESIGN CHOICE). -/
def Obligations.StartActsOnTheQualifiedNode : Prop :=
  (∀ (s : State) (id : Nat), s.ss.safety = .armed → s.ss.claims = [] → s.ss.overflow = false →
    s.tpr.activity = .cued → s.tpr.take = some id → s.tpr.startPend = some { take := id, frame := s.ft.frame } →
    ∃ t, exec .startAction s = .next t ∧ t.tpr.activity = .playing ∧ t.tpr.take = some id ∧ t.tpr.base = 0 ∧
      t.tpr.cursor = 0 ∧ t.tpr.startPend = none ∧
      ((s.findTake id).isSome = true → t.tpr.markIdx.isSome = true) ∧
      (s.cfg.nChans ≤ 4 → s.tpr.punch = false → ∀ i < 4, s.tpr.cueSet.getLsbD i = true →
        (s.dlu.lines.get i).enable = true → (t.chans.get i).mode = .play) ∧
      (s.tpr.punch = true → ∀ i < 4, s.tpr.punchMask.getLsbD i = true →
        t.tpr.liveSet.getLsbD i = true ∧ t.tpr.live.get i = { age := 0, pend := [] } ∧
        ((s.dlu.lines.get i).enable = true → (t.chans.get i).mode = .live)) ∧
      OnlyChanges [.lif, .chans, .tpr, .attention] s t) ∧
  (∀ (s : State) (id : Nat), s.ss.safety.isOpen = true → s.tpr.startPend = some { take := id, frame := s.ft.frame } →
    s.ss.safety ≠ .armed → (s.findTake id).isSome = true → s.tpr.activity = .idle →
    exec .startAction s = .next (broadcast (.abort id) { s with tpr.startPend := none })) ∧
  (∀ (s : State) (id : Nat), s.ss.safety.isOpen = true → s.tpr.startPend = some { take := id, frame := s.ft.frame } →
    (s.findTake id).isSome = true → s.tpr.activity = .cueing → s.tpr.take = some id →
    ∃ t, exec .startAction s = .next t ∧
      t = passageToIdle .cancelled (broadcast (.abort id) { s with tpr.startPend := none }) ∧
      t.tpr.activity = .idle ∧ t.tpr.take = none ∧ t.tpr.cueCompletion = none) ∧
  (∀ (s : State) (id : Nat), s.ss.safety.isOpen = true → s.tpr.startPend = some { take := id, frame := s.ft.frame } →
    (s.tpr.activity = .playing ∨ s.tpr.activity = .easing) →
    exec .startAction s = .next { s with tpr.startPend := none }) ∧
  (∀ (s : State) (id : Nat), s.ss.safety.isOpen = true → s.tpr.startPend = some { take := id, frame := s.ft.frame } →
    s.tpr.activity ≠ .playing → s.tpr.activity ≠ .easing →
    (s.ss.safety ≠ .armed ∨ s.ss.claims ≠ [] ∨ s.ss.overflow = true ∨ s.tpr.activity ≠ .cued ∨ s.tpr.take ≠ some id) →
    ((s.findTake id).isSome = true → (s.tpr.activity ≠ .cueing ∨ s.tpr.take ≠ some id) →
      exec .startAction s = .next (broadcast (.abort id) { s with tpr.startPend := none })) ∧
    (s.findTake id = none → exec .startAction s = .next { s with tpr.startPend := none })) ∧
  (∀ s : State, s.ss.safety.isOpen = true → (∀ a, s.tpr.startPend = some a → a.frame ≠ s.ft.frame) →
    exec .startAction s = .next s)

/-- ABORT_ACTION: PLAYING becomes EASING with the ease flag set for the frame; CUEING and CUED pass to IDLE, a running cue
with completion CANCELLED (R154, R167). The ABORT ends punch-in: the punch channels leave live control and halt, and every
other channel stands (R185). After a computed tick PLAYING ends when the cue channels are settled and the cursor stands at the
cap, EASING when they are settled and the cursor stands at the cap or the applied pace is 0, and neither before: the activity
passes to IDLE, a stream take becomes SPENT with HELD clear, and the ease flag is cleared for the next frame (R149, R154,
R163, R165, R168). That the row acts as a command of its own where the frame in progress is the action frame is log entry 3
(DESIGN CHOICE). -/
def Obligations.AbortActsAtItsFrame : Prop :=
  (∀ (s : State) (id : Nat), s.ss.safety.isOpen = true → s.tpr.abortPend = some { take := id, frame := s.ft.frame } →
    s.tpr.take = some id → s.tpr.activity = .playing →
    ∃ t, exec .abortAction s = .next t ∧ t.tpr.activity = .easing ∧ t.tpr.abortPend = none ∧
      t.tpr.take = some id ∧ t.tpr.punch = false ∧ getPend t.pu.easePend s.ft.frame = some true ∧
      (s.tpr.startPend = some { take := id, frame := s.ft.frame } → t.tpr.startPend = none) ∧
      t.tpr.cursor = s.tpr.cursor ∧ OnlyChanges [.chans, .pu, .tpr] s t ∧
      (s.tpr.punch = false → t.chans = s.chans ∧ t.tpr.liveSet = s.tpr.liveSet ∧ t.tpr.live = s.tpr.live ∧
        t.tpr.punchMask = s.tpr.punchMask ∧ t.tpr.punchIdx = s.tpr.punchIdx) ∧
      (s.tpr.punch = true → t.tpr.punchMask = 0 ∧ t.tpr.punchIdx = none ∧
        t.tpr.liveSet = s.tpr.liveSet &&& ~~~s.tpr.punchMask ∧ ∀ i < 4,
          (s.tpr.punchMask.getLsbD i = true → (t.tpr.live.get i).pend = [] ∧
            (s.ss.safety = .armed → (s.dlu.lines.get i).enable = true → (t.chans.get i).mode = .halt)) ∧
          (s.tpr.punchMask.getLsbD i = false → t.chans.get i = s.chans.get i ∧
            t.tpr.live.get i = s.tpr.live.get i))) ∧
  (∀ (s : State) (id : Nat), s.ss.safety.isOpen = true → s.tpr.abortPend = some { take := id, frame := s.ft.frame } →
    s.tpr.take = some id → (s.tpr.activity = .cueing ∨ s.tpr.activity = .cued) →
    ∃ t, exec .abortAction s = .next t ∧ t.tpr.activity = .idle ∧ t.tpr.abortPend = none ∧ t.tpr.take = none ∧
      t.tpr.rate = none ∧ t.tpr.override = 0 ∧ t.tpr.cursor = 0 ∧ t.tpr.cueCompletion = none ∧
      (∀ w, s.tpr.cueCompletion = some w → t.lif = (reply w codeCue .cancelled .none s).lif) ∧ t.ts = s.ts ∧
      OnlyChanges [.lif, .chans, .pu, .tpr, .attention] s t) ∧
  (∀ k : Take, (k.kind = .resident → k.cap = some ((k.length - 1) * 4096)) ∧
    (k.kind = .stream → k.endReceived = true → k.cap = some ((k.fill - 1) * 4096)) ∧
    (k.kind = .stream → k.endReceived = false → k.cap = none)) ∧
  (∀ (s : State) (id : Nat) (k : Take), s.tpr.take = some id → s.findTake id = some k →
    (∀ i < 4, s.tpr.cueSet.getLsbD i = true → (s.chans.get i).settled = true) →
    (s.tpr.activity = .playing ∧ k.cap = some s.tpr.cursor ∨
      s.tpr.activity = .easing ∧ (k.cap = some s.tpr.cursor ∨ s.pu.applied = 0)) →
    (endOfTake s).tpr.activity = .idle ∧ (endOfTake s).tpr.take = none ∧ (endOfTake s).tpr.rate = none ∧
    (endOfTake s).tpr.override = 0 ∧ (endOfTake s).tpr.cueSet = 0 ∧ (endOfTake s).tpr.base = 0 ∧
    (endOfTake s).tpr.cursor = 0 ∧ (endOfTake s).tpr.markIdx = none ∧ (endOfTake s).tpr.liveSet = 0 ∧
    (endOfTake s).tpr.punch = false ∧ (endOfTake s).tpr.startPend = s.tpr.startPend ∧
    (k.kind = .resident → (endOfTake s).findTake id = some k) ∧
    (k.kind = .stream → (endOfTake s).findTake id = some { k with state := .spent, held := false }) ∧
    (endOfTake s).ts.store = s.ts.store ∧
    (s.pu.ease = true → getPend (endOfTake s).pu.easePend (s.ft.frame + 1) = some false) ∧
    (s.pu.ease = false → (endOfTake s).pu = s.pu) ∧ (s.tpr.cueCompletion = none → (endOfTake s).lif = s.lif) ∧
    (s.ss.safety = .armed → s.cfg.nChans ≤ 4 → ∀ i < s.cfg.nChans, (s.dlu.lines.get i).enable = true →
      (s.chans.get i).mode ≠ .hold →
      ((endOfTake s).chans.get i).mode = (if (s.chans.get i).v = 0 then .hold else .halt)) ∧
    OnlyChanges [.lif, .chans, .pu, .ts, .tpr, .attention] s (endOfTake s)) ∧
  (∀ (s : State) (id : Nat) (k : Take), s.tpr.take = some id → s.findTake id = some k →
    ((∃ i < 4, s.tpr.cueSet.getLsbD i = true ∧ (s.chans.get i).settled = false) ∨
      (k.cap ≠ some s.tpr.cursor ∧ (s.tpr.activity = .playing ∨ s.pu.applied ≠ 0))) → endOfTake s = s) ∧
  (∀ s : State, s.tpr.activity ≠ .playing → s.tpr.activity ≠ .easing → endOfTake s = s)

/-- PARK_TIMEOUT enters PARKED, silent and with the queues empty; RESTART_TIMEOUT enters LOADING and starts the read, with the
take store kept and the cross-limit table none (R18, R45, R46, R115, R133, R202, R203). That the other configured values of
the last image stand until the read has ended is the model's reading of R75 (log entry 35). A frame tick counts each pending
passage, and the second after its acceptance carries it out (R45, R202). That the two rows act as commands of their own where
the count of frame ticks stands at its end is log entry 3 (DESIGN CHOICE). -/
def Obligations.PendingPassagesAreCarriedOut : Prop :=
  (∀ (l : LineLevels) (order : List TickWork) (s : State), s.ft.running = true → s.ss.safety = .disarmed →
    s.ru.parkPending = true → s.cl.restartPending = false →
    ∃ t, exec (.flywheelTick l order) s = .next t ∧
      (s.ru.parkTicks = 0 → t.ss.safety = .disarmed ∧ t.ru.parkPending = true ∧ t.ru.parkTicks = 1) ∧
      (1 ≤ s.ru.parkTicks → t.ss.safety = .parked ∧ t.ru.parkPending = false ∧ t.lif.urgent = [] ∧ t.lif.ordinary = [])) ∧
  (∀ (l : LineLevels) (order : List TickWork) (s : State), s.ft.running = true →
    (s.ss.safety = .disarmed ∨ s.ss.safety = .faulted) → s.cl.restartPending = true → s.ru.parkPending = false →
    ∃ t, exec (.flywheelTick l order) s = .next t ∧
      (s.cl.restartTicks = 0 → t.ss.safety = s.ss.safety ∧ t.cl.restartPending = true ∧ t.cl.restartTicks = 1) ∧
      (1 ≤ s.cl.restartTicks → t.ss.safety = .loading ∧ t.cl.restartPending = false ∧ t.cl.read = .reading ∧ t.ts = s.ts ∧
        t.lif.urgent = [] ∧ t.lif.ordinary = [])) ∧
  (∀ s : State, s.ru.parkPending = true → 2 ≤ s.ru.parkTicks →
    ∃ t, exec .parkTimeout s = .next t ∧ t.ss.safety = .parked ∧ t.ss.claims = s.ss.claims ∧
      t.ss.overflow = s.ss.overflow ∧ t.ru.parkPending = false ∧ t.ru.roster = s.ru.roster ∧
      t.ru.learning = s.ru.learning ∧ t.ru.slots = s.ru.slots ∧ t.lif.urgent = [] ∧ t.lif.ordinary = [] ∧
      t.lif.parkFilter = true ∧ t.lif.failRun = 0 ∧ t.lif.quiet = 0 ∧ t.lif.badMessages = s.lif.badMessages ∧
      t.silent = true ∧ t.spl.read = none ∧ t.tpr.startPend = none ∧ t.tpr.abortPend = none ∧
      t.pu.entries = s.pu.entries ∧ t.pu.floor = s.pu.floor ∧ t.pu.applied = s.pu.applied ∧
      OnlyChanges [.lif, .ru, .chans, .spl, .ss, .pu, .tpr, .cl] s t) ∧
  (∀ s : State, s.cl.restartPending = true → 2 ≤ s.cl.restartTicks →
    ∃ t, exec .restartTimeout s = .next t ∧ t.ss.safety = .loading ∧ t.ss.claims = [] ∧ t.cl.read = .reading ∧
      t.cl.fault = s.cl.fault ∧ t.cl.item = s.cl.item ∧ t.cl.spineId = false ∧ t.cl.restartPending = false ∧
      t.ts = s.ts ∧ t.attention = 0 ∧ t.lif.urgent = [] ∧ t.lif.ordinary = [] ∧ t.lif.badMessages = 0 ∧
      t.lif.txFailures = 0 ∧ t.lif.txDrops = 0 ∧ t.ft.running = false ∧ t.ft.frame = 0 ∧ t.ru.roster = [] ∧
      t.pu.applied = 16 ∧ t.tpr.activity = .idle ∧ t.cfg = { s.cfg with cross := [] } ∧ t.iu.active = [] ∧ t.pins = s.pins ∧
      ∀ i < 4, (t.chans.get i).mode = .off ∧ (t.dlu.lines.get i).enable = false ∧ (t.dlu.lines.get i).released = false)

/-- WAKE_FRAME_TICK at the frame a matching WAKE named: the LIF, RU, SS, PU, IU, ZU and DLU take the values of their WAKE
columns (R19, R48, R49, R92, R115, R121, R128, R133). The node is DISARMED with empty lists, a roster of its required peers
alone and a learning window of 32; every cross-limit entry is active and narrows the effective ranges, every zone line and
E-stop input is clear, and every fault-off flag is cleared. Its first STATE, with the channel records of the last servo tick,
is in the queue (R44; log entry 41). With the drives gated, as they stay, every channel is in OFF with its drive off and its
brake set (R48, R114). The frame tick of a parked node that begins the named frame does this waking and the servo work after
it, and any other leaves the node parked (R47, R48); at an accepted edge it is the same tick (O7). That this tick wakes first
and then does the work of servo tick 0 in DISARMED, with the roster, the watch slots, the learning window and the ranges as
the WAKE columns give them and not advanced, is log entry 22 (DEDUCED); the order of that work is log entry 2 and the cycles
that pass before the tick within its command log entry 4 (DESIGN CHOICE). That the row acts as a command of its own in the
named frame, and has no effect in another frame or state, is log entry 3 (DESIGN CHOICE). That the forming of the cursor, the
computation and what follows it are one piece of that work is log entry 54 (DESIGN CHOICE); that the tick carries the levels
of its lines, which the node keeps, is log entry 1 (DESIGN CHOICE). -/
def Obligations.WakeAtTheNamedFrame : Prop :=
  (∀ s : State, s.ss.safety = .parked → s.ru.wake = some s.ft.frame →
    ∃ t, exec .wakeFrameTick s = .next t ∧
      t.ss = { safety := .disarmed, claims := [], overflow := false, overflowQuiet := 0, timer := none, armPending := none,
               disarmPending := none } ∧
      t.ru.learning = 32 ∧ t.ru.wake = none ∧ t.ru.parkPending = false ∧
      (∀ e ∈ t.ru.roster, e.pinned = true ∧ e.heard = false ∧ e.age = 0 ∧ e.last = none) ∧
      (∀ p, p ∈ s.cfg.peers ↔ ∃ e ∈ t.ru.roster, e.station = p) ∧
      t.ru.slots = List.replicate 8 { value := none, age := 0, pend := [] } ∧
      t.lif.urgent = [] ∧ (∃ r, t.lif.ordinary = [{ msg := { dest := 0, body := .state r }, succ := none, active := false }] ∧
        r.safety = .disarmed ∧ r.claims = 0 ∧ r.learning = true ∧
        r.chans = (List.range s.cfg.nChans).map fun i => (s.chans.get i).shown) ∧
      t.lif.parkFilter = false ∧ t.lif.failRun = 0 ∧ t.lif.quiet = 0 ∧ t.lif.dupQuiet = 32 ∧ t.lif.linkRelease = true ∧
      t.lif.badMessages = s.lif.badMessages ∧ t.lif.txFailures = s.lif.txFailures ∧ t.lif.txDrops = s.lif.txDrops ∧
      t.pu = { entries := [], floor := 16, floorPend := [], floorQuiet := 0, ease := false, easePend := [], target := 16,
               applied := s.pu.applied } ∧
      t.zu = { lines := List.replicate 8 { active := false, run := 0, seen := false, clear := 0 },
               estop := List.replicate 2 { active := false, run := 0, seen := false, clear := 0 }, ownFactor := 16 } ∧
      t.zoneCondition = none ∧ t.estopCondition = none ∧
      (∀ a ∈ t.iu.active, a = true) ∧ t.iu.active.length = s.cfg.cross.length ∧
      (∀ i < 4, i < s.cfg.nChans → t.iu.ranges.get i =
        (((s.cfg.cross.filter fun e => e.channel == i).map (·.limLow)).foldl max (s.cfg.chan.get i).lo,
          ((s.cfg.cross.filter fun e => e.channel == i).map (·.limHigh)).foldl min (s.cfg.chan.get i).hi)) ∧
      t.dlu.port = s.dlu.port ∧ (∀ i < 4, t.dlu.lines.get i = { s.dlu.lines.get i with faultOff := false }) ∧
      (DrivesGated s → BrakesSafe s → OffWithoutDrive s → ∀ i < 4, (t.dlu.lines.get i).enable = false ∧
        (t.dlu.lines.get i).released = false ∧ (t.chans.get i).mode = .off) ∧
      OnlyChanges [.lif, .ru, .dlu, .ss, .pu, .iu, .zu] s t) ∧
  (∀ s : State, (s.ss.safety ≠ .parked ∨ s.ru.wake ≠ some s.ft.frame) → exec .wakeFrameTick s = .next s) ∧
  (∀ (l : LineLevels) (order : List TickWork) (s : State), s.ft.running = true → s.ss.safety = .parked →
    s.cl.restartPending = false → s.ru.parkPending = false →
    (s.ru.wake = some (s.ft.frame + 1) →
      ∃ k p b w t, exec (.flywheelTick l order) s = .next t ∧ s.cfg.timing.n ≤ s.ft.acc + 8 * k ∧
        (∀ k' < k, s.ft.acc + 8 * k' < s.cfg.timing.n) ∧ Watched k s p ∧ b.ft.frame = s.ft.frame + 1 ∧ b.ft.tick = 0 ∧
        OnlyChanges [.lif, .ft, .attention] s b ∧ exec .wakeFrameTick b = .next w ∧ w.ss.safety = .disarmed ∧
        t = noteReports (worked p.tickStart l 0 (workOrder order servoWork) { w with pins.lines := l }) ∧
        t.ss.safety = .disarmed ∧ t.ru = w.ru ∧ t.iu = w.iu) ∧
    (s.ru.wake ≠ some (s.ft.frame + 1) →
      ∃ t, exec (.flywheelTick l order) s = .next t ∧ t.ft.frame = s.ft.frame + 1 ∧ t.ss = s.ss ∧ t.ru = s.ru ∧
        t.lif.urgent = s.lif.urgent ∧ t.lif.ordinary = s.lif.ordinary))

/-! ### The spine line -/

/-- The transmit queues from the placing of a message to its attempt. A message of class 0 or 1 is placed in the urgent queue,
one of class 2 to 6 in the ordinary queue (R10; the classes of section 1.3): STOP and CLEAR replace the queued message of
their cause in its place, PACE, ABORT of one take, STATE and ROLL likewise; during the attempt of that entry the message
becomes its successor, in place of one it has; every other message takes a free entry at the end of the order (R11, R12, R13).
A message that finds all 16 entries in use and overtakes none is dropped: TX-DROP is raised and its counter is one higher, up
to 65,535 (R11, R12). A silent node, and FAULTED for all but STATE and REPLY, discards without TX-DROP (R10). A REPLY has DEST
the station of its command and is placed so, at its command and at the completion of a long-running one (R190, R191); a
message to all stations has DEST 0. Messages are placed in queues that hold no key twice, as they do (O54). ATTEMPT selects
the lowest class present in both queues and within it the entry that has stood longest, and starts its attempt (R14); the line
is then no longer idle (R1; log entry 7, DEDUCED). Without an entry, on a busy line, during an attempt and at a silent node
nothing begins. -/
def Obligations.AttemptSelectsTheLowestClassFirst : Prop :=
  (∀ (s : State) (pre post : List QEntry) (e : QEntry), s.lif.lineIdle = true → s.silent = false → s.lif.busy = false →
    s.lif.urgent = pre ++ e :: post → (∀ x ∈ pre, e.msg.body.cls < x.msg.body.cls) →
    (∀ x ∈ post, e.msg.body.cls ≤ x.msg.body.cls) → (∀ x ∈ s.lif.ordinary, e.msg.body.cls < x.msg.body.cls) →
    exec .attempt s = .next { s with
      lif.urgent := pre ++ { e with active := true } :: post, lif.lineIdle := false }) ∧
  (∀ (s : State) (pre post : List QEntry) (e : QEntry), s.lif.lineIdle = true → s.silent = false → s.lif.busy = false →
    s.lif.ordinary = pre ++ e :: post → (∀ x ∈ pre, e.msg.body.cls < x.msg.body.cls) →
    (∀ x ∈ post, e.msg.body.cls ≤ x.msg.body.cls) → (∀ x ∈ s.lif.urgent, e.msg.body.cls < x.msg.body.cls) →
    exec .attempt s = .next { s with
      lif.ordinary := pre ++ { e with active := true } :: post, lif.lineIdle := false }) ∧
  (∀ s : State, s.lif.urgent = [] → s.lif.ordinary = [] → exec .attempt s = .next s) ∧
  (∀ s : State, s.lif.lineIdle = false ∨ s.lif.busy = true ∨ s.silent = true → exec .attempt s = .next s) ∧
  (∀ (m : Msg) (s : State), QueuesSound s → mayQueue m.body s = true →
    (m.body.cls ≤ 1 →
      (HasPlace m s.lif.urgent → ∃ q, place m s = { s with lif.urgent := q } ∧ PlacedIn m s.lif.urgent q) ∧
      (¬ HasPlace m s.lif.urgent → place m s = txDropped s)) ∧
    (2 ≤ m.body.cls →
      (HasPlace m s.lif.ordinary → ∃ q, place m s = { s with lif.ordinary := q } ∧ PlacedIn m s.lif.ordinary q) ∧
      (¬ HasPlace m s.lif.ordinary → place m s = txDropped s))) ∧
  (∀ (m : Msg) (s : State), mayQueue m.body s = false → place m s = s) ∧
  (∀ b : Body, b.cls = match b with
    | .stop _ _ | .clear _ => 0
    | .pace _ | .abort _ => 1
    | .state _ => 3
    | .reply _ _ _ _ | .hold _ _ | .resume _ _ => 4
    | .mark _ _ _ => 5
    | .roll _ _ => 6) ∧
  (∀ (b : Body) (s : State), broadcast b s = place { dest := 0, body := b } s) ∧
  (∀ (who : Slot) (code : Nat) (status : Status) (data : ReplyData) (s : State), reply who code status data s =
    place { dest := who.station, body := .reply who.serial code status data } s) ∧
  (∀ (h : Header) (serial start clear : Byte) (s : State), obeys h 3 s = true →
    ∃ t, exec (.counters h serial start clear) s = .next t ∧ t.lif.urgent = s.lif.urgent ∧
      (s.lif.ordinary.length < 16 → t.lif.txDrops = s.lif.txDrops ∧ t.lif.ordinary = s.lif.ordinary ++ [freshEntry h.source.toNat
        (.reply serial 14 .done (.counters s.lif.badMessages s.lif.txFailures s.lif.txDrops))]) ∧
      (16 ≤ s.lif.ordinary.length → t.lif.ordinary = s.lif.ordinary ∧
        t.lif.txDrops = min 65535 (s.lif.txDrops + 1) ∧ attentionHas t.attention .txDrop = true)) ∧
  (∀ (address : Byte) (v : BitVec 32) (s : State) (w : ReadSlot), s.ss.safety.isOpen = true → s.spl.readActive = true →
    s.spl.read = some w → address.toNat = w.channel →
    ∃ t, exec (.readResponse .good address 0 v) s = .next t ∧ t.lif.urgent = s.lif.urgent ∧
      (s.lif.ordinary.length < 16 → t.lif.txDrops = s.lif.txDrops ∧ t.lif.ordinary = s.lif.ordinary ++
        [freshEntry w.slot.station (.reply w.slot.serial 13 .done (.value v))]) ∧
      (16 ≤ s.lif.ordinary.length → t.lif.ordinary = s.lif.ordinary ∧
        t.lif.txDrops = min 65535 (s.lif.txDrops + 1) ∧ attentionHas t.attention .txDrop = true))

/-- A lost arbitration and a failed attempt: the entry stays at its place, or its successor replaces it (R3, R13, R15). A lost
arbitration changes no count; a failure adds 1 to both, and the one that brings the consecutive count to 16 raises LINK (R15,
R16). That an attempt whose entry was dropped on entering PARKED counts in the same way is log entry 20 (DEDUCED). -/
def Obligations.UnsuccessfulAttemptsKeepTheEntry : Prop :=
  (∀ s : State, s.lif.busy = true →
    ∃ t, exec .arbitrationLost s = .next t ∧
      t.lif.urgent = s.lif.urgent.map (fun e =>
        if e.active then { msg := e.succ.getD e.msg, succ := none, active := false } else e) ∧
      t.lif.ordinary = s.lif.ordinary.map (fun e =>
        if e.active then { msg := e.succ.getD e.msg, succ := none, active := false } else e) ∧
      t.lif.failRun = s.lif.failRun ∧ t.lif.txFailures = s.lif.txFailures ∧ t.lif.badMessages = s.lif.badMessages ∧
      OnlyChanges [.lif] s t) ∧
  (∀ s : State, s.lif.busy = true → min 255 (s.lif.failRun + 1) ≠ 16 →
    ∃ t, exec .transmitFailure s = .next t ∧
      t.lif.urgent = s.lif.urgent.map (fun e =>
        if e.active then { msg := e.succ.getD e.msg, succ := none, active := false } else e) ∧
      t.lif.ordinary = s.lif.ordinary.map (fun e =>
        if e.active then { msg := e.succ.getD e.msg, succ := none, active := false } else e) ∧
      t.lif.failRun = min 255 (s.lif.failRun + 1) ∧ t.lif.txFailures = min 65535 (s.lif.txFailures + 1) ∧
      t.lif.badMessages = s.lif.badMessages ∧ t.lif.linkRelease = s.lif.linkRelease ∧ OnlyChanges [.lif] s t) ∧
  (∀ s : State, s.lif.busy = true → s.lif.failRun = 15 → s.ss.safety.isOpen = true →
    findClaim s.ss.claims s.cfg.station .link = none → s.ss.claims.length < 32 →
    ∃ t u, exec .transmitFailure s = .next t ∧ t.lif.failRun = 16 ∧ t.lif.linkRelease = false ∧
      t.lif.txFailures = min 65535 (s.lif.txFailures + 1) ∧ t = raiseOwn .link s.cfg.station u ∧
      u = { s with lif := { s.lif with
        urgent := s.lif.urgent.map (fun e =>
          if e.active then { msg := e.succ.getD e.msg, succ := none, active := false } else e)
        ordinary := s.lif.ordinary.map (fun e =>
          if e.active then { msg := e.succ.getD e.msg, succ := none, active := false } else e)
        orphan := false, failRun := 16, txFailures := min 65535 (s.lif.txFailures + 1), linkRelease := false } } ∧
      findClaim t.ss.claims s.cfg.station .link =
        some { origin := s.cfg.station, cause := .link, detail := s.cfg.station, latched := true } ∧
      (s.ss.safety.canStop = true → t.ss.safety = .stopping) ∧
      OnlyChanges [.lif, .chans, .ss, .pu, .ts, .tpr, .attention] s t)

/-- A successful attempt: the entry leaves the queue and its successor takes its place, the consecutive count is 0 and the
LINK-release flag set (R13, R15); a PACE or ROLL that it carried brings its factor into the own pace list (R124).  The DONE of
a PARK parks the node (R45), the DONE of a RESTART takes it to LOADING and starts the read, with the take store kept and the
cross-limit table none (R133, R202).  That the other configured values stand until the read has ended is log entry 35
(DEDUCED). -/
def Obligations.SuccessfulAttemptSendsTheEntry : Prop :=
  (∀ (s : State) (e : QEntry), s.lif.busy = true → s.lif.inAttempt = some e → e.msg.body.factorCarried = none →
    e.msg.body.isDone codePark = false → e.msg.body.isDone codeRestart = false →
    exec .attemptSuccess s = .next { s with
      lif.urgent := s.lif.urgent.filterMap (fun q =>
        if q.active then q.succ.map fun m => { msg := m, succ := none, active := false } else some q)
      lif.ordinary := s.lif.ordinary.filterMap (fun q =>
        if q.active then q.succ.map fun m => { msg := m, succ := none, active := false } else some q)
      lif.orphan := false, lif.failRun := 0, lif.linkRelease := true }) ∧
  (∀ (s : State) (e : QEntry) (f : Nat), s.lif.busy = true → s.lif.inAttempt = some e →
    e.msg.body.factorCarried = some f →
    ∃ t, exec .attemptSuccess s = .next t ∧ t.lif.failRun = 0 ∧ t.lif.linkRelease = true ∧
      t.lif = { s.lif with
        urgent := s.lif.urgent.filterMap (fun q =>
          if q.active then q.succ.map fun m => { msg := m, succ := none, active := false } else some q)
        ordinary := s.lif.ordinary.filterMap (fun q =>
          if q.active then q.succ.map fun m => { msg := m, succ := none, active := false } else some q)
        orphan := false, failRun := 0, linkRelease := true } ∧
      t.pu = (takeFactor s.cfg.station f s.dateNow s).pu ∧ OnlyChanges [.lif, .pu, .attention] s t) ∧
  (∀ (s : State) (e : QEntry), s.lif.busy = true → s.lif.inAttempt = some e → e.msg.body.isDone codePark = true →
    s.ru.parkPending = true → ∃ t, exec .attemptSuccess s = .next t ∧ t.ss.safety = .parked ∧ t.ru.parkPending = false ∧
      OnlyChanges [.lif, .ru, .chans, .spl, .ss, .pu, .tpr, .cl] s t) ∧
  (∀ (s : State) (e : QEntry), s.lif.busy = true → s.lif.inAttempt = some e → e.msg.body.isDone codeRestart = true →
    s.cl.restartPending = true → ∃ t, exec .attemptSuccess s = .next t ∧ t.ss.safety = .loading ∧ t.cl.read = .reading ∧
      t.ts = s.ts ∧ t.cfg = { s.cfg with cross := [] } ∧ t.pins = s.pins)

/-- A bad message adds 1 to its counter and makes the receiver wait for the line to fall idle (R5); LINE_IDLE ends the wait; an
impostor message sets the duplicate quiet count to 0 and raises the own DUPLICATE claim (R7).  That a message
which ends early leaves the line idle is the model's reading (log entry 7). -/
def Obligations.BadAndImpostorMessages : Prop :=
  (∀ (s : State) (r : BadReason), r ≠ .early → s.deaf = false → s.lif.rxWait = false →
    exec (.badMessage r) s = .next { s with
      lif.lineIdle := false, lif.badMessages := min 65535 (s.lif.badMessages + 1), lif.rxWait := true }) ∧
  (∀ s : State, s.deaf = false → s.lif.rxWait = false → s.lif.busy = false →
    exec (.badMessage .early) s = .next { s with
      lif.lineIdle := true, lif.badMessages := min 65535 (s.lif.badMessages + 1), lif.rxWait := false }) ∧
  (∀ s : State, s.lif.busy = false → exec .lineIdle s = .next { s with lif.lineIdle := true, lif.rxWait := false }) ∧
  (∀ s : State, s.ss.safety.isOpen = true → s.lif.rxWait = false →
    exec .impostorMessage s =
      .next (raiseOwn .duplicate s.cfg.station { s with lif.lineIdle := false, lif.dupQuiet := 0 }))

/-! ### Messages of other stations -/

/-- A valid message that no owner takes still counts: the quiet count is 0, and the roster entry of its station is heard with
AGE 0, or is made if there is room (R6, R8, R17, R34). A message of a kind other than COMMAND whose LENGTH is not that of its
payload, or whose COUNT is above the largest of its kind, is reported in the same way and has no other effect (R205). That a
message on the line clears the flag of the idle line is log entry 7 (DEDUCED). -/
def Obligations.ValidMessageIsReported : Prop :=
  (∀ (h : Header) (s : State), receives h s = true →
    exec (.presenceOnly h) s = .next (heard h s) ∧ (heard h s).lif.quiet = 0 ∧ (heard h s).lif.lineIdle = false ∧
    OnlyChanges [.lif, .ru, .attention] s (heard h s) ∧
    (s.ss.safety.isOpen = true → (s.ru.roster.any fun e => e.station == h.source.toNat) = true →
      (heard h s).ru.roster = s.ru.roster.map (fun e =>
        if e.station = h.source.toNat then { e with age := 0, heard := true } else e) ∧
      (heard h s).attention = s.attention) ∧
    (s.ss.safety.isOpen = true → (s.ru.roster.any fun e => e.station == h.source.toNat) = false →
      s.ru.roster.length < 24 →
      (∃ e ∈ (heard h s).ru.roster, e.station = h.source.toNat ∧ e.pinned = false ∧ e.heard = true ∧ e.age = 0 ∧
        e.last = none ∧ (e.role = .control ↔ s.isControl h.source.toNat = true)) ∧
      (heard h s).ru.roster.length = s.ru.roster.length + 1) ∧
    (s.ss.safety.isOpen = true → (s.ru.roster.any fun e => e.station == h.source.toNat) = false →
      24 ≤ s.ru.roster.length → (heard h s).ru = s.ru ∧ attentionHas (heard h s).attention .rosterFull = true) ∧
    (s.ss.safety.isOpen = false → (heard h s).ru = s.ru)) ∧
  (∀ (c : Instr) (h : Header) (n : Option Nat) (s : State), receives h s = true →
    payloadLength s.cfg.nChans c = some (h, n) → n ≠ some h.length.toNat → exec c s = .next (heard h s)) ∧
  (∀ (h : Header) (mask : BitVec 64) (c0 c1 c2 c3 : BitVec 32) (s : State), s.ss.safety = .parked →
    h.length.toNat ≤ 48 → h.length.toNat ≠ 24 → exec (.wake h mask c0 c1 c2 c3) s = .next { s with lif.lineIdle := false })

/-- STOP of another station: a standing entry takes the detail; a new one is added and stops a moving node; a full list
refuses it and sets the overflow condition; a cause outside the table, or OPERATOR from a station that is not a control
station, changes nothing, and no claim is taken outside the five open states (R97, R102, R108). -/
def Obligations.StopMessageEntersAClaim : Prop :=
  (∀ (h : Header) (cause detail : Byte) (s : State), hears h 2 s = true →
    (∀ c, Cause.ofCode cause.toNat = some c → (c = .operator → s.isControl h.source.toNat = true) →
      (∀ e, findClaim s.ss.claims h.source.toNat c = some e →
        exec (.stop h cause detail) s = .next { heard h s with
          ss.claims := s.ss.claims.map fun k =>
            if k.origin = h.source.toNat ∧ k.cause = c then { k with detail := detail.toNat } else k }) ∧
      (findClaim s.ss.claims h.source.toNat c = none → s.ss.claims.length < 32 →
        ∃ t, exec (.stop h cause detail) s = .next t ∧
          t.ss.claims = insertClaim
            { origin := h.source.toNat, cause := c, detail := detail.toNat, latched := false } s.ss.claims ∧
          (s.ss.safety.canStop = true → t.ss.safety = .stopping ∧ t.tpr.activity = .idle) ∧
          OnlyChanges [.lif, .ru, .chans, .ss, .pu, .ts, .tpr, .attention] s t ∧
          (s.ss.safety.canStop = false → t = { heard h s with ss.claims := t.ss.claims })) ∧
      (findClaim s.ss.claims h.source.toNat c = none → 32 ≤ s.ss.claims.length →
        ∃ t, exec (.stop h cause detail) s = .next t ∧ t.ss.claims = s.ss.claims ∧ t.ss.overflow = true ∧
          t.ss.overflowQuiet = 0 ∧ attentionHas t.attention .claimOverflow = true ∧
          (s.ss.safety.canStop = true → t.ss.safety = .stopping) ∧
          OnlyChanges [.lif, .ru, .chans, .ss, .pu, .ts, .tpr, .attention] s t)) ∧
    (Cause.ofCode cause.toNat = none → exec (.stop h cause detail) s = .next (heard h s)) ∧
    (Cause.ofCode cause.toNat = some .operator → s.isControl h.source.toNat = false →
      exec (.stop h cause detail) s = .next (heard h s))) ∧
  (∀ (h : Header) (cause detail : Byte) (s : State), receives h s = true → s.ss.safety.isOpen = false →
    exec (.stop h cause detail) s = .next (heard h s))

/-- CLEAR of another station removes the entry of that station and cause, if it stands, and no other; a cause outside 1 … 13
discards the message, and no claim is taken outside the five open states (R98). -/
def Obligations.ClearMessageRemovesItsEntry : Prop :=
  (∀ (h : Header) (cause : Byte) (s : State), hears h 1 s = true →
    (∀ c, Cause.ofCode cause.toNat = some c →
      exec (.clear h cause) s = .next { heard h s with
        ss.claims := s.ss.claims.filter fun k => !(k.origin == h.source.toNat && k.cause == c) }) ∧
    (∀ c, Cause.ofCode cause.toNat = some c → findClaim s.ss.claims h.source.toNat c = none →
      exec (.clear h cause) s = .next (heard h s)) ∧
    (Cause.ofCode cause.toNat = none → exec (.clear h cause) s = .next (heard h s)) ∧
    (Cause.ofCode cause.toNat = none ↔ cause.toNat = 0 ∨ 13 < cause.toNat)) ∧
  (∀ (h : Header) (cause : Byte) (s : State), receives h s = true → s.ss.safety.isOpen = false →
    exec (.clear h cause) s = .next (heard h s))

/-- ROLL of another station.  A pair with a cause that its station may state stands afterwards with the last detail of that
cause, if its key stood or the list had room; a new key stops a moving node; a new key that finds the list full is refused and
sets the overflow condition; a pair of another cause is skipped (R97, R99, R102, R108).  With MORE clear the entries of the
station are afterwards those of the stated causes and no others, with MORE set none is removed, and no entry of another station
is touched.  The factor is taken as that of a PACE (R123); a COUNT above 20 and a node outside the five open states take
nothing (R97, R205).  The own ROLL is composed in the own slot and afresh at every change while it stands in the queue, so that
after a frame tick of that slot it states the own claims and the own factor as they stand (R101). -/
def Obligations.RollStatesTheClaimsOfItsStation : Prop :=
  (∀ (h : Header) (more : Bool) (count : BitVec 5) (factor : Byte) (pairs : List (Byte × Byte)) (s : State),
    hears h (2 + 2 * count.toNat) s = true → count.toNat ≤ 20 → pairs.length = count.toNat →
    ∃ t, exec (.roll h more count factor pairs) s = .next t ∧
      (t.ss.claims.filter fun k => k.origin != h.source.toNat) =
        (s.ss.claims.filter fun k => k.origin != h.source.toNat) ∧
      (∀ c, (c = .operator → s.isControl h.source.toNat = true) →
        (∃ p ∈ pairs, Cause.ofCode p.1.toNat = some c) →
        (findClaim s.ss.claims h.source.toNat c ≠ none ∨ s.ss.claims.length + pairs.length ≤ 32) →
        ∃ k, findClaim t.ss.claims h.source.toNat c = some k ∧
          (∀ pre p post, pairs = pre ++ p :: post → Cause.ofCode p.1.toNat = some c →
            (∀ q ∈ post, Cause.ofCode q.1.toNat ≠ some c) → k.detail = p.2.toNat) ∧
          (findClaim s.ss.claims h.source.toNat c = none → k.latched = false)) ∧
      (∀ c, (c = .operator → s.isControl h.source.toNat = true) →
        (∃ p ∈ pairs, Cause.ofCode p.1.toNat = some c) → findClaim s.ss.claims h.source.toNat c = none →
        (s.ss.safety.canStop = true → t.ss.safety = .stopping ∧ t.tpr.activity = .idle) ∧
        (32 ≤ s.ss.claims.length → findClaim t.ss.claims h.source.toNat c = none ∧ t.ss.overflow = true ∧
          t.ss.overflowQuiet = 0 ∧ attentionHas t.attention .claimOverflow = true)) ∧
      ((∀ p ∈ pairs, ∀ c, Cause.ofCode p.1.toNat = some c → (c = .operator → s.isControl h.source.toNat = true) →
          findClaim s.ss.claims h.source.toNat c ≠ none) →
        t.ss = { s.ss with claims := t.ss.claims } ∧ OnlyChanges [.lif, .ru, .ss, .pu, .attention] s t) ∧
      (s.ss.safety.canStop = false → t.ss.safety = s.ss.safety) ∧
      (more = false → ∀ k ∈ t.ss.claims, k.origin = h.source.toNat →
        (k.cause = .operator → s.isControl h.source.toNat = true) ∧
        ∃ p ∈ pairs, Cause.ofCode p.1.toNat = some k.cause) ∧
      (∀ k ∈ s.ss.claims, k.origin = h.source.toNat →
        (more = true ∨ (k.cause = .operator → s.isControl h.source.toNat = true) ∧
          ∃ p ∈ pairs, Cause.ofCode p.1.toNat = some k.cause) →
        ∃ k' ∈ t.ss.claims, k'.origin = k.origin ∧ k'.cause = k.cause ∧
          ((∀ p ∈ pairs, Cause.ofCode p.1.toNat ≠ some k.cause) → k' = k)) ∧
      (pairs = [] → more = false →
        t.ss.claims = (s.ss.claims.filter fun k => k.origin != h.source.toNat) ∧ t.ss.safety = s.ss.safety) ∧
      (∀ u, exec (.pace { h with length := 1 } factor) s = .next u →
        t.pu.entries = u.pu.entries ∧ t.pu.floor = u.pu.floor ∧ t.pu.floorPend = u.pu.floorPend ∧
        t.pu.floorQuiet = u.pu.floorQuiet) ∧
      OnlyChanges [.lif, .ru, .chans, .ss, .pu, .ts, .tpr, .attention] s t) ∧
  (∀ (h : Header) (more : Bool) (count : BitVec 5) (factor : Byte) (pairs : List (Byte × Byte)) (s : State),
    receives h s = true → (20 < count.toNat ∨ s.ss.safety.isOpen = false) →
    exec (.roll h more count factor pairs) s = .next (heard h s)) ∧
  (∀ s : State,
    (s.ft.frame.toNat % 16 = s.cfg.station % 16 → rollCall s = broadcast
      (.roll s.zu.ownFactor ((s.ss.claims.filter fun k => k.origin == s.cfg.station).map fun k => (k.cause, k.detail))) s) ∧
    (s.ft.frame.toNat % 16 ≠ s.cfg.station % 16 → rollCall s = s) ∧
    ((∃ e ∈ s.lif.ordinary, ∃ f ps, e.msg.body = .roll f ps) → recomposeRoll s = broadcast
      (.roll s.zu.ownFactor ((s.ss.claims.filter fun k => k.origin == s.cfg.station).map fun k => (k.cause, k.detail))) s) ∧
    ((∀ e ∈ s.lif.ordinary, ∀ f ps, e.msg.body ≠ .roll f ps) → recomposeRoll s = s)) ∧
  (∀ (l : LineLevels) (order : List TickWork) (s : State), s.ft.running = true → s.ss.safety.isOpen = true →
    s.cl.restartPending = false → s.ru.parkPending = false → s.lif.ordinary.length ≤ 14 →
    (s.ft.frame + 1).toNat % 16 = s.cfg.station % 16 →
    ∃ t m, exec (.flywheelTick l order) s = .next t ∧
      m = { dest := 0, body := .roll t.zu.ownFactor
              ((t.ss.claims.filter fun k => k.origin == t.cfg.station).map fun k => (k.cause, k.detail)) } ∧
      ∃ e ∈ t.lif.ordinary, if e.active then e.succ = some m else e.msg = m)

/-- PACE of another station is placed with its date: in the station's entry, in a new entry, or, when the list is full, in the
pace floor's pending values with CLAIM-OVERFLOW; 16 from a station without an entry, and a value outside 1 … 16, change
nothing (R123).  That a new entry stands at the end of the list is the model's choice (log entry 31, DESIGN CHOICE: R122 gives
the list no order). -/
def Obligations.PaceMessageIsPlacedWithItsDate : Prop :=
  ∀ (h : Header) (factor : Byte) (s : State), hears h 1 s = true →
    (1 ≤ factor.toNat → factor.toNat ≤ 16 → (s.pu.entries.any fun e => e.origin == h.source.toNat) = true →
      exec (.pace h factor) s = .next { heard h s with
        pu.entries := s.pu.entries.map fun e =>
          if e.origin = h.source.toNat then { e with pend := setPend e.pend s.dateNow factor.toNat } else e }) ∧
    (1 ≤ factor.toNat → factor.toNat ≤ 15 → (s.pu.entries.any fun e => e.origin == h.source.toNat) = false →
      s.pu.entries.length < 32 →
      exec (.pace h factor) s = .next { heard h s with
        pu.entries := s.pu.entries ++
          [{ origin := h.source.toNat, factor := none, pend := [(s.dateNow, factor.toNat)] }] }) ∧
    (1 ≤ factor.toNat → factor.toNat ≤ 15 → (s.pu.entries.any fun e => e.origin == h.source.toNat) = false →
      32 ≤ s.pu.entries.length →
      ∃ t v, exec (.pace h factor) s = .next t ∧ getPend t.pu.floorPend s.dateNow = some v ∧ v ≤ factor.toNat ∧
        (getPend s.pu.floorPend s.dateNow = none → v = factor.toNat) ∧
        (∀ w, getPend s.pu.floorPend s.dateNow = some w → v = min factor.toNat w) ∧
        t.pu.entries = s.pu.entries ∧ attentionHas t.attention .claimOverflow = true ∧
        OnlyChanges [.lif, .ru, .pu, .attention] s t) ∧
    (factor.toNat = 16 → (s.pu.entries.any fun e => e.origin == h.source.toNat) = false →
      exec (.pace h factor) s = .next (heard h s)) ∧
    (factor.toNat = 0 ∨ 16 < factor.toNat → exec (.pace h factor) s = .next (heard h s))

/-- ABORT and START wait for their frame: ABORT of the take in use for the frame after its date, START for the frame its lead
names, the lead taken as 2 below 2 and as 60 above 60 (R160, R167). -/
def Obligations.AbortAndStartWaitForTheirFrame : Prop :=
  (∀ (h : Header) (take : Byte) (s : State), hears h 1 s = true → take ≠ 0 → s.tpr.take = some take.toNat →
    (s.tpr.activity = .cueing ∨ s.tpr.activity = .cued ∨ s.tpr.activity = .playing) →
    (∀ a, s.tpr.abortPend = some a → a.take ≠ take.toNat) →
    exec (.abort h take) s = .next { heard h s with
      tpr.abortPend := some { take := take.toNat, frame := s.dateNow + 1 } }) ∧
  (∀ (h : Header) (take : Byte) (s : State), hears h 1 s = true →
    (take = 0 ∨ s.tpr.take ≠ some take.toNat ∨
      (s.tpr.activity ≠ .cueing ∧ s.tpr.activity ≠ .cued ∧ s.tpr.activity ≠ .playing) ∨
      ∃ a, s.tpr.abortPend = some a ∧ a.take = take.toNat) →
    exec (.abort h take) s = .next (heard h s)) ∧
  (∀ (h : Header) (take lead : Byte) (s : State), hears h 2 s = true → take ≠ 0 → s.isControl h.source.toNat = true →
    exec (.start h take lead) s = .next { heard h s with
      tpr.startPend := some {
        take := take.toNat
        frame := s.dateNow + BitVec.ofNat 32
          (if lead.toNat < 2 then 2 else if 60 < lead.toNat then 60 else lead.toNat) } }) ∧
  (∀ (h : Header) (take lead : Byte) (s : State), hears h 2 s = true →
    (take = 0 ∨ s.isControl h.source.toNat = false) → exec (.start h take lead) s = .next (heard h s))

/-- LIVE in ARMED from a control station: each channel it names that the activity admits enters live control if it is not in
it, its value waits for the date and the activity IDLE becomes LIVE; with ENABLE clear a live channel leaves live control and
halts.  Entry to LIVE gives both goals of the channel the inverse calibration of its setpoint and clears its HALT FLAG, entry
to HALT sets the flag (R54).  IDLE, LIVE and RECORDING admit every channel, CUEING, CUED and EASING those of the OVERRIDE MASK, PLAYING those and,
with PUNCH set, those of the PUNCH MASK; a channel that is not admitted is left as it is.  In any other state, from any other
station and to another DEST it is only reported (R171, R172, R174, R178). -/
def Obligations.LiveMessageDrivesItsChannels : Prop :=
  (∀ (h : Header) (mask : ChanSet) (mark : Byte) (values : List U16) (s : State) (i : Nat),
    hears h (2 + 2 * maskCount mask) s = true → s.addressed h = true → s.isControl h.source.toNat = true →
    s.ss.safety = .armed → (s.tpr.activity = .idle ∨ s.tpr.activity = .live ∨ s.tpr.activity = .recording) →
    s.cfg.nChans ≤ 4 → i < s.cfg.nChans → mask.getLsbD i = true →
    ∃ t, exec (.live h true mask mark values) s = .next t ∧ t.tpr.liveSet.getLsbD i = true ∧
      getPend (t.tpr.live.get i).pend s.dateNow = some (liveValue mask values i) ∧
      (s.tpr.activity = .idle → t.tpr.activity = .live) ∧ (s.tpr.activity ≠ .idle → t.tpr.activity = s.tpr.activity) ∧
      getPend t.tpr.markPend s.dateNow = some mark.toNat ∧
      (s.tpr.liveSet.getLsbD i = false → (t.tpr.live.get i).age = 0 ∧
        ((s.dlu.lines.get i).enable = true → (t.chans.get i).mode = .live ∧
          ((s.chans.get i).mode ≠ .live →
            EntersMode (s.cfg.chan.get i).table .live (s.chans.get i) (t.chans.get i)))) ∧
      (∀ j < 4, mask.getLsbD j = false → t.chans.get j = s.chans.get j ∧ t.tpr.live.get j = s.tpr.live.get j) ∧
      OnlyChanges [.lif, .ru, .chans, .tpr, .attention] s t) ∧
  (∀ (h : Header) (mask : ChanSet) (mark : Byte) (values : List U16) (s : State) (i : Nat),
    hears h (2 + 2 * maskCount mask) s = true → s.addressed h = true → s.isControl h.source.toNat = true →
    s.ss.safety = .armed → (s.tpr.activity = .live ∨ s.tpr.activity = .recording) →
    s.cfg.nChans ≤ 4 → i < s.cfg.nChans → mask.getLsbD i = true → s.tpr.liveSet.getLsbD i = true →
    ∃ t, exec (.live h false mask mark values) s = .next t ∧ t.tpr.liveSet.getLsbD i = false ∧
      (t.tpr.live.get i).pend = [] ∧ ((s.dlu.lines.get i).enable = true → (t.chans.get i).mode = .halt ∧
        ((s.chans.get i).mode ≠ .halt →
          EntersMode (s.cfg.chan.get i).table .halt (s.chans.get i) (t.chans.get i))) ∧
      t.tpr.activity = s.tpr.activity ∧ OnlyChanges [.lif, .ru, .chans, .tpr, .attention] s t) ∧
  (∀ (h : Header) (enable : Bool) (mask : ChanSet) (mark : Byte) (values : List U16) (s : State),
    hears h (2 + 2 * maskCount mask) s = true →
    (s.addressed h = false ∨ s.isControl h.source.toNat = false ∨ s.ss.safety ≠ .armed) →
    exec (.live h enable mask mark values) s = .next (heard h s)) ∧
  (∀ (h : Header) (enable : Bool) (mask : ChanSet) (mark : Byte) (values : List U16) (s : State) (i : Nat),
    hears h (2 + 2 * maskCount mask) s = true → s.addressed h = true → s.isControl h.source.toNat = true →
    s.ss.safety = .armed → s.tpr.activity.hasTake = true → s.cfg.nChans ≤ 4 → i < 4 →
    ∃ t, exec (.live h enable mask mark values) s = .next t ∧ t.tpr.activity = s.tpr.activity ∧
      t.tpr.markPend = s.tpr.markPend ∧ OnlyChanges [.lif, .ru, .chans, .tpr, .attention] s t ∧
      ((mask.getLsbD i = true ∧ i < s.cfg.nChans ∧ (s.tpr.override.getLsbD i = true ∨
          s.tpr.activity = .playing ∧ s.tpr.punch = true ∧ s.tpr.punchMask.getLsbD i = true)) →
        (enable = true → t.tpr.liveSet.getLsbD i = true ∧
          getPend (t.tpr.live.get i).pend s.dateNow = some (liveValue mask values i) ∧
          (s.tpr.liveSet.getLsbD i = false → (t.tpr.live.get i).age = 0 ∧
            ((s.dlu.lines.get i).enable = true → (t.chans.get i).mode = .live ∧
              ((s.chans.get i).mode ≠ .live →
                EntersMode (s.cfg.chan.get i).table .live (s.chans.get i) (t.chans.get i)))) ∧
          (s.tpr.liveSet.getLsbD i = true → (t.tpr.live.get i).age = (s.tpr.live.get i).age ∧
            t.chans.get i = s.chans.get i)) ∧
        (enable = false → s.tpr.liveSet.getLsbD i = true → t.tpr.liveSet.getLsbD i = false ∧
          (t.tpr.live.get i).pend = [] ∧ ((s.dlu.lines.get i).enable = true → (t.chans.get i).mode = .halt ∧
            ((s.chans.get i).mode ≠ .halt →
              EntersMode (s.cfg.chan.get i).table .halt (s.chans.get i) (t.chans.get i))))) ∧
      ((mask.getLsbD i = false ∨ s.cfg.nChans ≤ i ∨ (s.tpr.override.getLsbD i = false ∧
          (s.tpr.activity ≠ .playing ∨ s.tpr.punch = false ∨ s.tpr.punchMask.getLsbD i = false))) →
        t.tpr.liveSet.getLsbD i = s.tpr.liveSet.getLsbD i ∧ t.tpr.live.get i = s.tpr.live.get i ∧
        t.chans.get i = s.chans.get i))

/-- STATE of another station with its fields in range sets the ROLE and the LAST fields of its entry, and gives a watch slot
on one of its channels a pending value for the frame after its date unless the channel is stale or absent (R36, R40); with a
field out of range it is only reported (R205). A STATE of a required peer that shows FAULTED raises PEER with the lowest
station of the lost set (R38). The STATE that the node composes carries what R43 and R44 name, the channel records as noted
after the work of the last servo tick (log entry 41), the fault code alone in FAULTED (R42). A frame tick, of the generator or
at an accepted edge, places the one that reports the node as it stood before the tick, after a loss of the reference on the
way to it (log entry 4), with the attention set as it stands when the STATE is composed and the REF-PRESENT of before the tick
(R31; log entry 49, DESIGN CHOICE): first, with a TICK-SLIP of that tick, or where the order names it (R42, R195; log entry
2). That the STATE of the tick which ends frame 0 shows no TICK-SLIP of it, at an accepted edge either, is log entry 10
(DEDUCED: R20 gives frame 0 no servo ticks that R27 could skip, where R23 read literally applies R27 to it); that a generator
tick sent before servo tick S-1 raises TICK-SLIP as an early edge does is log entry 16 (DESIGN CHOICE). That the forming of
the cursor, the computation and what follows it are one piece of that work is log entry 54 (DESIGN CHOICE); that the tick
carries the levels of its lines, which the node keeps, is log entry 1 (DESIGN CHOICE). -/
def Obligations.StateMessageFillsRosterAndSlots : Prop :=
  (∀ (h : Header) (f : StateFields) (p : Published) (a : Activity) (s : State), hears h (13 + 3 * f.count.toNat) s = true →
    f.count.toNat ≤ 4 → Published.ofCode f.safety.toNat = some p → Activity.ofCode f.activity.toNat = some a →
    f.chans.length = f.count.toNat →
    ∃ t, exec (.state h f) s = .next t ∧
      (∀ e ∈ t.ru.roster, e.station = h.source.toNat →
        e.role = (if p = .control then .control else .node) ∧
        e.last = some { safety := p, activity := a, take := f.take.toNat } ∧ e.heard = true ∧ e.age = 0) ∧
      (∀ (i : Nat) (w : WatchSlot) (k : WatchCfg) (r : U16 × Byte), s.ru.slots[i]? = some w → s.cfg.watch[i]? = some k → k.station = h.source.toNat →
        f.chans[k.channel]? = some r → r.2.getLsbD 3 = false →
        ∃ w' : WatchSlot, t.ru.slots[i]? = some w' ∧ w'.value = w.value ∧ w'.age = w.age ∧
          getPend w'.pend (s.dateNow + 1) = some r.1.toNat) ∧
      (∀ (i : Nat) (w : WatchSlot) (k : WatchCfg), s.ru.slots[i]? = some w → s.cfg.watch[i]? = some k →
        (k.station ≠ h.source.toNat ∨ f.count.toNat ≤ k.channel ∨
          ∃ r : U16 × Byte, f.chans[k.channel]? = some r ∧ r.2.getLsbD 3 = true) →
        t.ru.slots[i]? = some w) ∧
      OnlyChanges [.lif, .ru, .chans, .ss, .pu, .ts, .tpr, .attention] s t ∧
      ((p ≠ .node .faulted ∨ ∀ e ∈ s.ru.roster, e.station = h.source.toNat → e.pinned = false) →
        t = { heard h s with ru := { (heard h s).ru with roster := t.ru.roster, slots := t.ru.slots } }) ∧
      (p = .node .faulted → (∃ e ∈ s.ru.roster, e.station = h.source.toNat ∧ e.pinned = true) →
        ∃ u d, u = { heard h s with ru := { (heard h s).ru with roster := t.ru.roster, slots := t.ru.slots } } ∧
          t = raiseOwn .peer d u ∧ h.source.toNat ∈ u.lostSet ∧ d ∈ u.lostSet ∧ (∀ x ∈ u.lostSet, d ≤ x) ∧
          (findClaim s.ss.claims s.cfg.station .peer = none → s.ss.claims.length < 32 →
            findClaim t.ss.claims s.cfg.station .peer =
              some { origin := s.cfg.station, cause := .peer, detail := d, latched := true } ∧
            (s.ss.safety.canStop = true → t.ss.safety = .stopping)))) ∧
  (∀ (h : Header) (f : StateFields) (s : State), hears h (13 + 3 * f.count.toNat) s = true →
    (4 < f.count.toNat ∨ 8 < f.safety.toNat ∨ 6 < f.activity.toNat) → exec (.state h f) s = .next (heard h s)) ∧
  (∀ before s : State, s.ss.safety.isOpen = true →
    ∃ r, composeState before s = broadcast (.state r) s ∧ r.safety = before.ss.safety ∧ r.activity = before.tpr.activity ∧
      ((before.tpr.activity = .idle ∨ before.tpr.activity = .live) → r.take = 0) ∧
      (∀ id, before.tpr.take = some id → before.tpr.activity ≠ .idle → before.tpr.activity ≠ .live → r.take = id) ∧
      ((before.tpr.activity = .playing ∨ before.tpr.activity = .easing) → r.cursor = before.tpr.cursor / 4096) ∧
      (∀ id k, before.tpr.activity = .recording → before.tpr.take = some id → before.findTake id = some k →
        r.cursor = k.length) ∧
      ((before.tpr.activity = .idle ∨ before.tpr.activity = .live ∨ before.tpr.activity = .cueing ∨
        before.tpr.activity = .cued) → r.cursor = 0) ∧
      r.applied = before.pu.applied ∧ r.target = before.pu.target ∧ r.claims = before.ss.claims.length ∧
      ((∀ a, attentionHas s.attention a = false) → r.attention = 0) ∧
      (∀ a, attentionHas s.attention a = true →
        (∀ b, attentionHas s.attention b = true → a.code ≤ b.code) → r.attention = a.code) ∧
      (∀ n < 8, ∀ z, before.zu.lines[n]? = some z → r.zones.getLsbD n = z.active) ∧
      r.refPresent = before.ft.refPresent ∧ r.learning = decide (0 < before.ru.learning) ∧
      r.overflow = before.ss.overflow ∧ r.peerMissing = !before.peersReady ∧
      r.chans = (List.range before.cfg.nChans).map fun i => (before.chans.get i).shown) ∧
  (∀ before s : State, s.ss.safety = .faulted → composeState before s = broadcast (.state
    { safety := .faulted, activity := .idle, take := 0, cursor := 0, applied := 0, target := 0, claims := 0,
      attention := before.cl.fault, zones := 0, refPresent := false, learning := false, overflow := false,
      peerMissing := false, chans := [] }) s) ∧
  (∀ before s : State, (s.ss.safety = .loading ∨ s.ss.safety = .parked) → composeState before s = s) ∧
  (∀ (s : State) (i : Nat), s.cfg.nChans ≤ 4 → i < s.cfg.nChans →
    (noteReports s).chans.get i = { s.chans.get i with shown := {
      uRep := if (s.spl.readings.get i).valid then (s.chans.get i).uRep else 0
      moving := decide ((s.chans.get i).v ≠ 0), clamped := (s.chans.get i).clamped, halted := (s.chans.get i).halt
      stale := !(s.spl.readings.get i).valid || decide (0 < (s.spl.readings.get i).stale)
      driveOff := !(s.dlu.lines.get i).enable } } ∧
    OnlyChanges [.chans] s (noteReports s)) ∧
  (∀ (l : LineLevels) (order : List TickWork) (s : State), s.ft.running = true → s.ss.safety.isOpen = true →
    s.cl.restartPending = false → s.ru.parkPending = false →
    ∃ k p t, exec (.flywheelTick l order) s = .next t ∧ s.cfg.timing.n ≤ s.ft.acc + 8 * k ∧
      (∀ k' < k, s.ft.acc + 8 * k' < s.cfg.timing.n) ∧ Watched k s p ∧ StatePlaced l order p s t) ∧
  (∀ (l : LineLevels) (order : List TickWork) (s : State), s.ft.running = true → s.cfg.timing.refUse = true →
    (s.ft.frame0 = true ∨ 1 ≤ s.ft.tick) → s.ss.safety.isOpen = true → s.cl.restartPending = false →
    s.ru.parkPending = false → ∃ t, exec (.referenceEdge l order) s = .next t ∧ StatePlaced l order s s t)

/-- SAMPLES that pass the tests are stored at the take's store positions, a ring's modulo its size, and move its expected index;
the first test that fails answers its error REPLY and stores nothing (R142, R143, R146).  A COUNT of 0 without END changes
nothing, and with END closes a load that holds a sample.  A HOLD or RESUME follows the occupancy of a ring (R148).  An empty
range LATCH takes the lowest index whose values are out of range, with SAMPLE-RANGE (R145).  Samples of
the take in use are followed by the test of the cue (R157); that a HOLD of the same message is placed before is log entry 42
(DESIGN CHOICE).  SAMPLES of a station that is not a control station, or for another DEST, are reported and do no more (R8,
R141). -/
def Obligations.SamplesAreStoredOrRefused : Prop :=
  (∀ (h : Header) (id : Byte) (first : U24) (last : Bool) (count : Byte) (rs : List Sample) (s : State),
    receives h s = true → (s.isControl h.source.toNat = false ∨ s.addressed h = false) →
    exec (.samples h id first last count rs) s = .next (heard h s)) ∧
  (∀ (h : Header) (id : Byte) (first : U24) (last : Bool) (count : Byte) (rs : List Sample) (s : State),
    hears h (6 + count.toNat * (2 * s.cfg.nChans + 1)) s = true → s.addressed h = true →
    s.isControl h.source.toNat = true → count.toNat ≤ 42 / (2 * s.cfg.nChans + 1) → rs.length = count.toNat →
    (s.findTake id.toNat = none →
      exec (.samples h id first last count rs) s =
        .next (loadError h.source.toNat id.toNat first.toNat 0 .noTake (heard h s))) ∧
    (∀ k, s.findTake id.toNat = some k → k.loader ≠ h.source.toNat →
      exec (.samples h id first last count rs) s =
        .next (loadError h.source.toNat id.toNat first.toNat 0 .refused (heard h s))) ∧
    (∀ k, s.findTake id.toNat = some k → k.loader = h.source.toNat → k.state ≠ .loading →
      exec (.samples h id first last count rs) s =
        .next (loadError h.source.toNat id.toNat first.toNat 0 .refused (heard h s))) ∧
    (∀ k, s.findTake id.toNat = some k → k.loader = h.source.toNat → k.state = .loading → k.kind = .resident →
      first.toNat ≠ k.length →
      exec (.samples h id first last count rs) s =
        .next (loadError h.source.toNat id.toNat first.toNat k.length .gap (heard h s))) ∧
    (∀ k, s.findTake id.toNat = some k → k.loader = h.source.toNat → k.state = .loading → k.kind = .resident →
      first.toNat = k.length → k.size < first.toNat + rs.length →
      exec (.samples h id first last count rs) s =
        .next (loadError h.source.toNat id.toNat first.toNat k.length .full (heard h s))) ∧
    (∀ k, s.findTake id.toNat = some k → k.loader = h.source.toNat → k.state = .loading → k.kind = .resident →
      first.toNat = k.length → first.toNat + rs.length ≤ k.size → 1 ≤ rs.length → k.base + k.size ≤ 8192 → StoreWf s →
      ∃ t, (s.tpr.take ≠ some id.toNat → exec (.samples h id first last count rs) s = .next t) ∧
        (s.tpr.take = some id.toNat → exec (.samples h id first last count rs) s = .next (cueTest t)) ∧
        (∀ n r, rs[n]? = some r → t.ts.store.read (k.base + first.toNat + n) = r.truncate s.cfg.nChans) ∧
        (∀ p, p < k.base + first.toNat ∨ k.base + first.toNat + rs.length ≤ p →
          t.ts.store.read p = s.ts.store.read p) ∧
        (∃ k', t.findTake id.toNat = some k' ∧ k'.length = first.toNat + rs.length ∧
          k'.state = (if last then .ready else .loading) ∧ k'.base = k.base ∧ k'.size = k.size ∧
          Latched s t k k' first.toNat rs) ∧
        OnlyChanges [.lif, .ru, .ts, .store, .attention] s t) ∧
    (∀ k, s.findTake id.toNat = some k → k.loader = h.source.toNat → k.state = .loading → k.kind = .stream →
      k.endReceived = false → first.toNat = k.fill → k.retired ≤ k.fill → k.fill + rs.length - k.retired ≤ k.size →
      k.fill + rs.length ≤ 16777215 → 1 ≤ rs.length → k.base + k.size ≤ 8192 → StoreWf s →
      ∃ t, (s.tpr.take ≠ some id.toNat → exec (.samples h id first last count rs) s = .next t) ∧
        (s.tpr.take = some id.toNat → exec (.samples h id first last count rs) s = .next (cueTest t)) ∧
        (∀ n r, rs[n]? = some r →
          t.ts.store.read (k.base + (k.fill + n) % k.size) = r.truncate s.cfg.nChans) ∧
        (∀ p, (∀ n < rs.length, p ≠ k.base + (k.fill + n) % k.size) → t.ts.store.read p = s.ts.store.read p) ∧
        (∃ k', t.findTake id.toNat = some k' ∧ k'.fill = k.fill + rs.length ∧ k'.retired = k.retired ∧
          k'.endReceived = last ∧ k'.state = .loading ∧
          (k.held = false → k'.held = decide (k.high ≤ k.fill + rs.length - k.retired)) ∧
          (k.held = true → k'.held = decide (k.low < k.fill + rs.length - k.retired)) ∧
          Latched s t k k' k.fill rs) ∧
        (k.held = false → k.high ≤ k.fill + rs.length - k.retired →
          t.lif = (place { dest := k.loader, body := .hold id.toNat (k.fill + rs.length) } (heard h s)).lif) ∧
        (k.held = true → k.fill + rs.length - k.retired ≤ k.low →
          t.lif = (place { dest := k.loader, body := .resume id.toNat (k.fill + rs.length) } (heard h s)).lif) ∧
        OnlyChanges [.lif, .ru, .ts, .store, .attention] s t) ∧
    (∀ k, s.findTake id.toNat = some k → k.loader = h.source.toNat → k.state = .loading → k.kind = .stream →
      (k.endReceived = true →
        exec (.samples h id first last count rs) s =
          .next (loadError h.source.toNat id.toNat first.toNat 0 .refused (heard h s))) ∧
      (k.endReceived = false → first.toNat ≠ k.fill →
        exec (.samples h id first last count rs) s =
          .next (loadError h.source.toNat id.toNat first.toNat k.fill .gap (heard h s))) ∧
      (k.endReceived = false → first.toNat = k.fill →
        (k.size < k.fill + rs.length - k.retired ∨ 16777215 < k.fill + rs.length) →
        exec (.samples h id first last count rs) s =
          .next (loadError h.source.toNat id.toNat first.toNat k.fill .full (heard h s))) ∧
      (k.endReceived = false → first.toNat = 0 → k.fill = 0 → rs = [] → last = true →
        exec (.samples h id first last count rs) s =
          .next (loadError h.source.toNat id.toNat first.toNat 0 .badArg (heard h s))) ∧
      (k.endReceived = false → first.toNat = k.fill → k.fill - k.retired ≤ k.size → rs = [] → last = false →
        exec (.samples h id first last count rs) s = .next (heard h s)) ∧
      (k.endReceived = false → first.toNat = k.fill → k.fill - k.retired ≤ k.size → rs = [] → last = true → 1 ≤ k.fill →
        k.held = decide (k.high ≤ k.fill - k.retired) → k.low < k.fill - k.retired ∨ k.held = false →
        ∃ t, t = { heard h s with ts.dir := s.ts.dir.map (Option.map fun q =>
            if q.id = id.toNat then Take.loaded k.fill true q else q) } ∧
          t.findTake id.toNat = some { k with endReceived := true } ∧
          (s.tpr.take ≠ some id.toNat → exec (.samples h id first last count rs) s = .next t) ∧
          (s.tpr.take = some id.toNat → exec (.samples h id first last count rs) s = .next (cueTest t)))) ∧
    (∀ k, s.findTake id.toNat = some k → k.loader = h.source.toNat → k.state = .loading → k.kind = .resident →
      rs = [] → first.toNat = k.length → k.length ≤ k.size →
      (last = false → exec (.samples h id first last count rs) s = .next (heard h s)) ∧
      (last = true → k.length = 0 →
        exec (.samples h id first last count rs) s =
          .next (loadError h.source.toNat id.toNat first.toNat 0 .badArg (heard h s))) ∧
      (last = true → 1 ≤ k.length →
        ∃ t, t = { heard h s with ts.dir := s.ts.dir.map (Option.map fun q =>
            if q.id = id.toNat then Take.loaded k.length true q else q) } ∧
          t.findTake id.toNat = some { k with state := .ready } ∧
          (s.tpr.take ≠ some id.toNat → exec (.samples h id first last count rs) s = .next t) ∧
          (s.tpr.take = some id.toNat → exec (.samples h id first last count rs) s = .next (cueTest t))))) ∧
  (∀ (id : Nat) (k : Take) (s : State), s.findTake id = some k →
    (k.kind = .stream → k.state = .loading → k.held = false → k.high ≤ k.fill - k.retired →
      ∃ w, w = { s with ts.dir := s.ts.dir.map (Option.map fun q => if q.id = id then { q with held := true } else q) } ∧
        waterMark id s = place { dest := k.loader, body := .hold id k.fill } w) ∧
    (k.kind = .stream → k.state = .loading → k.held = true → k.fill - k.retired ≤ k.low →
      ∃ w, w = { s with ts.dir := s.ts.dir.map (Option.map fun q => if q.id = id then { q with held := false } else q) } ∧
        waterMark id s = place { dest := k.loader, body := .resume id k.fill } w) ∧
    ((k.kind = .resident ∨ k.state ≠ .loading ∨ (k.held = false ∧ k.fill - k.retired < k.high) ∨
      (k.held = true ∧ k.low < k.fill - k.retired)) → waterMark id s = s)) ∧
  (∀ (k : Take) (n : Nat) (written : ChanSet) (r : Sample) (s w : State),
    w = { s with ts.store := s.ts.store.write (k.position n) r } →
    (RangeFails s.cfg written k.chanSet r → storeRecord k n written r s = latchRange k.id n w) ∧
    (¬ RangeFails s.cfg written k.chanSet r → storeRecord k n written r s = w)) ∧
  (∀ (id n : Nat) (k : Take) (s : State), s.findTake id = some k →
    (k.latch = none → (latchRange id n s).findTake id = some { k with latch := some n } ∧
      attentionHas (latchRange id n s).attention .sampleRange = true ∧
      OnlyChanges [.ts, .attention] s (latchRange id n s) ∧ (latchRange id n s).ts.store = s.ts.store) ∧
    (k.latch ≠ none → latchRange id n s = s)) ∧
  (∀ (s : State) (c : Nat), c < 4 → s.allChans.getLsbD c = decide (c < s.cfg.nChans))

/-- A parked node that hears a matching WAKE waits for the frame after its date; another WAKE, a message of any other kind and an
impostor message leave it as it is but for the line (R18, R47).  A node that is not parked takes a WAKE as a report alone
(R8). -/
def Obligations.WakeMessageIsTakenWhileParked : Prop :=
  (∀ (h : Header) (mask : BitVec 64) (c0 c1 c2 c3 : BitVec 32) (s : State), s.ss.safety = .parked →
    s.lif.rxWait = false → h.length.toNat = 24 → 1 ≤ h.source.toNat → h.source.toNat ≤ 62 →
    (s.isControl h.source.toNat = true → mask.getLsbD s.cfg.station = true → c0 = s.cfg.crane → c1 = s.cfg.crane →
      c2 = s.cfg.crane → c3 = s.cfg.crane → s.ru.wake = none →
      exec (.wake h mask c0 c1 c2 c3) s = .next { s with lif.lineIdle := false, ru.wake := some (s.dateNow + 1) }) ∧
    (s.isControl h.source.toNat = false ∨ mask.getLsbD s.cfg.station = false ∨ c0 ≠ s.cfg.crane ∨ c1 ≠ s.cfg.crane ∨
      c2 ≠ s.cfg.crane ∨ c3 ≠ s.cfg.crane ∨ s.ru.wake ≠ none →
      exec (.wake h mask c0 c1 c2 c3) s = .next { s with lif.lineIdle := false })) ∧
  (∀ (h : Header) (serial cause detail : Byte) (s : State), s.ss.safety = .parked → h.length.toNat ≤ 48 →
    exec (.stop h cause detail) s = .next { s with lif.lineIdle := false } ∧
    exec (.arm h serial) s = .next { s with lif.lineIdle := false } ∧
    exec (.presenceOnly h) s = .next { s with lif.lineIdle := false } ∧
    exec .impostorMessage s = .next { s with lif.lineIdle := false }) ∧
  (∀ (h : Header) (mask : BitVec 64) (c0 c1 c2 c3 : BitVec 32) (s : State), receives h s = true →
    exec (.wake h mask c0 c1 c2 c3) s = .next (heard h s)) ∧
  (∀ (c : Instr) (h : Header) (s : State), s.ss.safety = .parked → messageHeader c = some h → h.length.toNat ≤ 48 →
    exec c s = .next { s with lif.lineIdle := false })

/-! ### Commands -/

/-- The tests of the Command Unit, in their order, for a COMMAND of any code: NOT-CONTROL, BAD-ARG, REFUSED, BUSY, then a
LENGTH that does not agree, then the owner (R189, R205); in FAULTED without a validated list every station passes the first.
A CODE outside the catalogue, and a STATUS-QUERY of an unknown ITEM, are answered BAD-ARG and have no other effect (R189,
R192). -/
def Obligations.CommandTestsInTheirOrder : Prop :=
  (∀ (h : Header) (serial : Byte) (code : Nat) (owner : Slot → State → State) (s : State), receives h s = true →
     (s.addressed h = false → command h serial code owner s = .next (heard h s)) ∧
     (h.length.toNat < 2 → command h serial code owner s = .next (heard h s)) ∧
     (s.addressed h = true → 2 ≤ h.length.toNat →
       (s.isControl h.source.toNat = false → (s.ss.safety ≠ .faulted ∨ s.cfg.controlsKnown = true) →
         command h serial code owner s = .next (reply (caller h serial) code .notControl .none (heard h s))) ∧
       ((s.isControl h.source.toNat = true ∨ (s.ss.safety = .faulted ∧ s.cfg.controlsKnown = false)) →
         (argOctets code = none →
           command h serial code owner s = .next (reply (caller h serial) code .badArg .none (heard h s))) ∧
         (argOctets code ≠ none → s.ss.safety = .faulted → code ≠ 14 → code ≠ 15 →
           command h serial code owner s = .next (reply (caller h serial) code .refused .none (heard h s))) ∧
         (argOctets code ≠ none → (s.ss.safety.isOpen = true ∨ (s.ss.safety = .faulted ∧ (code = 14 ∨ code = 15))) →
           (code ≠ 14 → (s.ru.parkPending = true ∨ s.cl.restartPending = true) →
             command h serial code owner s = .next (reply (caller h serial) code .busy .none (heard h s))) ∧
           ((code = 14 ∨ (s.ru.parkPending = false ∧ s.cl.restartPending = false)) →
             (argOctets code ≠ some (h.length.toNat - 2) →
               command h serial code owner s = .next (reply (caller h serial) code .badArg .none (heard h s))) ∧
             (argOctets code = some (h.length.toNat - 2) →
               command h serial code owner s = .next (owner (caller h serial) (heard h s)))))))) ∧
  (∀ (h : Header) (serial code : Byte) (args : List Byte) (s : State), receives h s = true → s.addressed h = true →
     2 ≤ h.length.toNat → s.isControl h.source.toNat = true → s.ss.safety.isOpen = true → s.ru.parkPending = false →
     s.cl.restartPending = false → unknownCommand code args = true →
     exec (.commandNotInCatalogue h serial code args) s =
       .next (reply (caller h serial) code.toNat .badArg .none (heard h s)))

/-- ARM: the tests of R106 in their order, and on acceptance ARMING with the enable-settle time, every channel without a
fault-off flag enabled and seeded on its reading, and the reply ACCEPTED (R55, R88, R106). -/
def Obligations.ArmIsTestedAndAccepted : Prop :=
  ∀ (h : Header) (serial : Byte) (s : State), obeys h 0 s = true →
    (s.ss.safety = .disarmed →
      (s.ss.claims ≠ [] ∨ s.ss.overflow = true →
        exec (.arm h serial) s = .next (reply (caller h serial) 1 .claims .none (heard h s))) ∧
      (s.ss.claims = [] → s.ss.overflow = false →
        (s.ru.learning ≠ 0 →
          exec (.arm h serial) s = .next (reply (caller h serial) 1 .learning .none (heard h s))) ∧
        (s.ru.learning = 0 →
          ((heard h s).peersReady = false →
            exec (.arm h serial) s = .next (reply (caller h serial) 1 .missing .none (heard h s))) ∧
          ((heard h s).peersReady = true →
            (s.readingsReady = false →
              exec (.arm h serial) s = .next (reply (caller h serial) 1 .sensor .none (heard h s))) ∧
            (s.readingsReady = true → s.cfg.nChans ≤ 4 →
              ∃ t, exec (.arm h serial) s = .next t ∧
                t.ss = { s.ss with
                  safety := .arming, timer := some { phase := .enable, frames := s.cfg.enableSettle },
                  armPending := some (caller h serial) } ∧
                t.lif = (reply (caller h serial) 1 .accepted .none (heard h s)).lif ∧
                (∀ i < s.cfg.nChans, (s.dlu.lines.get i).faultOff = false →
                  (t.dlu.lines.get i).enable = true ∧ (t.dlu.lines.get i).released = (s.dlu.lines.get i).released ∧
                  (t.chans.get i).mode = .hold ∧ (t.chans.get i).v = 0 ∧
                  (t.chans.get i).x = (s.spl.readings.get i).position ∧
                  (t.chans.get i).held = (s.spl.readings.get i).position ∧ (t.chans.get i).halt = false ∧
                  (t.chans.get i).clamped = false ∧ (t.chans.get i).dev = 0 ∧ (t.chans.get i).gPend = none ∧
                  (t.spl.readings.get i).ferr = 0 ∧ (t.spl.readings.get i).hist = []) ∧
                (∀ i < s.cfg.nChans, (s.dlu.lines.get i).faultOff = true →
                  t.dlu.lines.get i = s.dlu.lines.get i ∧ t.chans.get i = s.chans.get i) ∧
                OnlyChanges [.lif, .ru, .chans, .spl, .dlu, .ss, .attention] s t))))) ∧
    (s.ss.safety = .arming → s.ss.armPending ≠ none →
      exec (.arm h serial) s = .next (reply (caller h serial) 1 .busy .none (heard h s))) ∧
    (s.ss.safety = .armed ∨ s.ss.safety = .stopping ∨ s.ss.safety = .securing →
      exec (.arm h serial) s = .next (reply (caller h serial) 1 .refused .none (heard h s)))

/-- DISARM: accepted in ARMED with the activity IDLE and every channel at rest, with the brakes set and the brake-set time
running; MOVING, BUSY and REFUSED otherwise (R112). -/
def Obligations.DisarmIsTestedAndAccepted : Prop :=
  ∀ (h : Header) (serial : Byte) (s : State), obeys h 0 s = true →
    (s.ss.safety = .armed → s.tpr.activity = .idle → s.allAtRest = true → s.cfg.nChans ≤ 4 →
      ∃ t, exec (.disarm h serial) s = .next t ∧
        t.ss = { s.ss with
          safety := .securing, timer := some { phase := .set, frames := s.cfg.brakeSet },
          disarmPending := some (caller h serial) } ∧
        t.lif = (reply (caller h serial) 2 .accepted .none (heard h s)).lif ∧
        (∀ i < s.cfg.nChans, (t.dlu.lines.get i).released = false ∧
          (t.dlu.lines.get i).enable = (s.dlu.lines.get i).enable ∧
          ((s.dlu.lines.get i).enable = true → (s.chans.get i).mode ≠ .off → (t.chans.get i).mode = .stop) ∧
          (t.chans.get i).x = (s.chans.get i).x ∧ (t.chans.get i).v = (s.chans.get i).v) ∧
        OnlyChanges [.lif, .ru, .chans, .dlu, .ss, .attention] s t) ∧
    (s.ss.safety = .armed → (s.tpr.activity ≠ .idle ∨ s.allAtRest = false) →
      exec (.disarm h serial) s = .next (reply (caller h serial) 2 .moving .none (heard h s))) ∧
    (s.ss.safety = .securing → s.ss.disarmPending ≠ none →
      exec (.disarm h serial) s = .next (reply (caller h serial) 2 .busy .none (heard h s))) ∧
    (s.ss.safety = .disarmed ∨ s.ss.safety = .arming ∨ s.ss.safety = .stopping ∨
        (s.ss.safety = .securing ∧ s.ss.disarmPending = none) →
      exec (.disarm h serial) s = .next (reply (caller h serial) 2 .refused .none (heard h s)))

/-- RELEASE removes the own latched entries whose condition is absent, leaves every other entry, and answers DONE with the
causes of the own entries that remain (R103); the entries are withdrawn in the order of the list, and each queues its CLEAR
(R96). -/
def Obligations.ReleaseRemovesWhatIsReleasable : Prop :=
  (∀ (h : Header) (serial : Byte) (s : State), obeys h 0 s = true → ClaimsOrdered s →
    ∃ u, exec (.release h serial) s =
        .next (reply (caller h serial) 3 .done
          (.causes ((u.ss.claims.filter fun k => k.origin == s.cfg.station).map (·.cause))) u) ∧
      u.ss = { s.ss with claims := s.ss.claims.filter fun k =>
        !(k.origin == s.cfg.station && k.latched && (heard h s).releasable k.cause) } ∧
      u = (s.ss.claims.filter fun k => k.origin == s.cfg.station && k.latched && (heard h s).releasable k.cause).foldl
        (fun v k => withdrawOwn k.cause v) (heard h s) ∧
      OnlyChanges [.lif, .ru, .ss, .attention] s u) ∧
  (∀ (c : Cause) (s : State), findClaim s.ss.claims s.cfg.station c ≠ none →
    withdrawOwn c s = recomposeRoll (broadcast (.clear c) { s with
      ss.claims := s.ss.claims.filter fun k => !(k.origin == s.cfg.station && k.cause == c) })) ∧
  (∀ (c : Cause) (s : State), findClaim s.ss.claims s.cfg.station c = none → withdrawOwn c s = s) ∧
  (∀ (c : Cause) (s : State), (c = .limit ∨ c = .follow ∨ c = .underrun ∨ c = .deviation ∨ c = .cross) →
    s.releasable c = true) ∧
  (∀ s : State, s.releasable .encoder = s.readingsReady ∧ s.releasable .peer = s.peersReady ∧
    s.releasable .duplicate = (s.lif.dupQuiet == 32) ∧ s.releasable .link = s.lif.linkRelease ∧
    (s.releasable .drive = true ↔ ∀ i < s.cfg.nChans, (s.dlu.lines.get i).fault = false))

/-- PARK and RESTART are accepted in DISARMED, RESTART in FAULTED too, answered DONE, and wait with their flag set; elsewhere
they are refused (R45, R202). -/
def Obligations.ParkAndRestartWaitWithTheirFlag : Prop :=
  (∀ (h : Header) (serial : Byte) (s : State), obeys h 0 s = true →
    (s.ss.safety = .disarmed →
      exec (.park h serial) s = .next (reply (caller h serial) 4 .done .none
        { heard h s with ru.parkPending := true, ru.parkTicks := 0 }) ∧
      exec (.restart h serial) s = .next (reply (caller h serial) 15 .done .none
        { heard h s with cl.restartPending := true, cl.restartTicks := 0 })) ∧
    (s.ss.safety ≠ .disarmed →
      exec (.park h serial) s = .next (reply (caller h serial) 4 .refused .none (heard h s)) ∧
      exec (.restart h serial) s = .next (reply (caller h serial) 15 .refused .none (heard h s)))) ∧
  (∀ (h : Header) (serial : Byte) (s : State), receives h s = true → s.addressed h = true → h.length.toNat = 2 →
    s.ss.safety = .faulted → (s.isControl h.source.toNat = true ∨ s.cfg.controlsKnown = false) →
    s.ru.parkPending = false → s.cl.restartPending = false →
    exec (.restart h serial) s = .next (reply (caller h serial) 15 .done .none
      { heard h s with cl.restartPending := true, cl.restartTicks := 0 }))

/-- TAKE-OPEN: BAD-ARG, EXISTS, DIR-FULL, NO-ROOM in that order; otherwise the lowest free run that is long enough and the
lowest free entry are taken, and the records of the extent are cleared (R134, R137, R138). -/
def Obligations.TakeOpenAllocatesFirstFit : Prop :=
  (∀ (h : Header) (serial : Byte) (a : TakeOpenArgs) (s : State), obeys h 10 s = true →
    (a.kind ≠ 0 → a.kind ≠ 1 →
      exec (.takeOpen h serial a) s = .next (reply (caller h serial) 5 .badArg .none (heard h s))) ∧
    (∀ k, TakeKind.ofCode a.kind = some k →
      (openArgsGood a k s.cfg.nChans = false →
        exec (.takeOpen h serial a) s = .next (reply (caller h serial) 5 .badArg .none (heard h s))) ∧
      (openArgsGood a k s.cfg.nChans = true → s.findTake a.id.toNat ≠ none →
        exec (.takeOpen h serial a) s = .next (reply (caller h serial) 5 .exists_ .none (heard h s))) ∧
      (openArgsGood a k s.cfg.nChans = true → s.findTake a.id.toNat = none → (∀ e ∈ s.ts.dir, e ≠ none) →
        exec (.takeOpen h serial a) s = .next (reply (caller h serial) 5 .dirFull .none (heard h s))) ∧
      (openArgsGood a k s.cfg.nChans = true → s.findTake a.id.toNat = none → (∃ e ∈ s.ts.dir, e = none) →
        (∀ p, runFree s.extents a.size.toNat p = false) →
        exec (.takeOpen h serial a) s = .next (reply (caller h serial) 5 .noRoom .none (heard h s))) ∧
      (openArgsGood a k s.cfg.nChans = true → s.findTake a.id.toNat = none → (∃ e ∈ s.ts.dir, e = none) →
        (∃ p, runFree s.extents a.size.toNat p = true) →
        ∃ e base u, exec (.takeOpen h serial a) s = .next (reply (caller h serial) 5 .done (.opened e base) u) ∧
          s.ts.dir[e]? = some none ∧ (∀ e' < e, s.ts.dir[e']? ≠ some none) ∧
          runFree s.extents a.size.toNat base = true ∧ (∀ p < base, runFree s.extents a.size.toNat p = false) ∧
          u = { heard h s with ts := u.ts } ∧ u.ts.width = s.ts.width ∧
          u.ts.dir = s.ts.dir.set e (some {
            id := a.id.toNat, kind := k, state := .loading, chanSet := chanSetOf a.chanSet,
            editSet := chanSetOf a.editSet, base := base, size := a.size.toNat, loader := h.source.toNat, length := 0,
            fill := 0, retired := 0, endReceived := false, high := if k = .stream then a.high.toNat else 0,
            low := if k = .stream then a.low.toNat else 0, held := false, latch := none }) ∧
          (∀ p, base ≤ p → p < base + a.size.toNat → u.ts.store.read p = blank) ∧
          (∀ p, p < base ∨ base + a.size.toNat ≤ p → u.ts.store.read p = s.ts.store.read p)))) ∧
  (∀ (a : TakeOpenArgs) (n : Nat), openArgsGood a .resident n = true ↔
    a.id ≠ 0 ∧ (∃ c < 4, (chanSetOf a.chanSet).getLsbD c = true) ∧
    (∀ c < 4, (chanSetOf a.chanSet).getLsbD c = true → c < n) ∧
    (∀ c < 4, (chanSetOf a.editSet).getLsbD c = true → (chanSetOf a.chanSet).getLsbD c = true) ∧
    1 ≤ a.size.toNat ∧ a.size.toNat ≤ 8192) ∧
  (∀ (a : TakeOpenArgs) (n : Nat), openArgsGood a .stream n = true ↔
    a.id ≠ 0 ∧ (∃ c < 4, (chanSetOf a.chanSet).getLsbD c = true) ∧
    (∀ c < 4, (chanSetOf a.chanSet).getLsbD c = true → c < n) ∧
    (∀ c < 4, (chanSetOf a.editSet).getLsbD c = true → (chanSetOf a.chanSet).getLsbD c = true) ∧
    64 ≤ a.size.toNat ∧ a.size.toNat ≤ 4096 ∧ a.low.toNat < a.high.toNat ∧ a.high.toNat < a.size.toNat)

/-- TAKE-DELETE: NO-TAKE, IN-USE, or the entry is freed and DONE answered; no record changes and nothing else is sent (R136,
R139). -/
def Obligations.TakeDeleteFreesTheEntry : Prop :=
  ∀ (h : Header) (serial take : Byte) (s : State), obeys h 1 s = true →
    (s.findTake take.toNat = none →
      exec (.takeDelete h serial take) s = .next (reply (caller h serial) 6 .noTake .none (heard h s))) ∧
    (s.findTake take.toNat ≠ none →
      (s.tpr.take = some take.toNat ∧ s.tpr.activity ≠ .idle ∧ s.tpr.activity ≠ .live →
        exec (.takeDelete h serial take) s = .next (reply (caller h serial) 6 .inUse .none (heard h s))) ∧
      (s.tpr.take ≠ some take.toNat ∨ s.tpr.activity = .idle ∨ s.tpr.activity = .live →
        exec (.takeDelete h serial take) s = .next (reply (caller h serial) 6 .done .none { heard h s with
          ts.dir := s.ts.dir.map fun e => match e with
            | some k => if k.id = take.toNat then none else some k
            | none => none })))

/-- TAKE-REWIND: NO-TAKE, IN-USE for the take in use, BAD-ARG for a resident take, or the stream take is empty, in LOADING and
of the sender, its extent, sets and water marks kept, and DONE answered (R140, R158, R177).  That a resident take in use has the
IN-USE of R158 and R177 and not the BAD-ARG of R140 is the model's reading (log entry 38, DEDUCED). -/
def Obligations.TakeRewindEmptiesTheRing : Prop :=
  ∀ (h : Header) (serial take : Byte) (s : State), obeys h 1 s = true →
    (s.findTake take.toNat = none →
      exec (.takeRewind h serial take) s = .next (reply (caller h serial) 7 .noTake .none (heard h s))) ∧
    (∀ k, s.findTake take.toNat = some k → s.tpr.take = some take.toNat → s.tpr.activity ≠ .idle → s.tpr.activity ≠ .live →
      exec (.takeRewind h serial take) s = .next (reply (caller h serial) 7 .inUse .none (heard h s))) ∧
    (∀ k, s.findTake take.toNat = some k →
      (s.tpr.take ≠ some take.toNat ∨ s.tpr.activity = .idle ∨ s.tpr.activity = .live) →
      (k.kind = .resident →
        exec (.takeRewind h serial take) s = .next (reply (caller h serial) 7 .badArg .none (heard h s))) ∧
      (k.kind = .stream →
        exec (.takeRewind h serial take) s = .next (reply (caller h serial) 7 .done .none { heard h s with
          ts.dir := s.ts.dir.map (Option.map fun k =>
            if k.id = take.toNat then
              { k with fill := 0, retired := 0, endReceived := false, held := false, latch := none, state := .loading,
                       loader := h.source.toNat }
            else k) })))

/-- CUE: the tests of R155 in their order, and on acceptance CUEING with the take, rate and masks, CUE and LIVE requested for
their channels, and the reply ACCEPTED (R156). -/
def Obligations.CueIsTestedAndAccepted : Prop :=
  ∀ (h : Header) (serial take rate mask : Byte) (s : State), obeys h 3 s = true →
    (s.tpr.activity = .cueing →
      exec (.cue h serial take rate mask) s = .next (reply (caller h serial) 8 .busy .none (heard h s))) ∧
    (s.tpr.activity ≠ .cueing → (s.ss.safety ≠ .armed ∨ s.tpr.activity ≠ .idle) →
      exec (.cue h serial take rate mask) s = .next (reply (caller h serial) 8 .refused .none (heard h s))) ∧
    (s.ss.safety = .armed → s.tpr.activity = .idle →
      (rate = 0 ∨ 16 < rate.toNat ∨ (∃ c < 4, (chanSetOf mask).getLsbD c = true ∧ s.cfg.nChans ≤ c) →
        exec (.cue h serial take rate mask) s = .next (reply (caller h serial) 8 .badArg .none (heard h s))) ∧
      (1 ≤ rate.toNat → rate.toNat ≤ 16 → (∀ c < 4, (chanSetOf mask).getLsbD c = true → c < s.cfg.nChans) →
        (s.findTake take.toNat = none →
          exec (.cue h serial take rate mask) s = .next (reply (caller h serial) 8 .noTake .none (heard h s))) ∧
        (∀ k, s.findTake take.toNat = some k →
          (k.canCue = false →
            exec (.cue h serial take rate mask) s = .next (reply (caller h serial) 8 .refused .none (heard h s))) ∧
          (k.canCue = true → k.chanSet &&& ~~~(chanSetOf mask) = 0 →
            exec (.cue h serial take rate mask) s = .next (reply (caller h serial) 8 .badArg .none (heard h s))) ∧
          (k.canCue = true → k.chanSet &&& ~~~(chanSetOf mask) ≠ 0 →
            (∃ c < 4, (k.chanSet &&& ~~~(chanSetOf mask)).getLsbD c = true ∧
              (cal (s.cfg.chan.get c).table ((s.ts.store.read k.base).value c).toNat < (s.iu.ranges.get c).1 ∨
                (s.iu.ranges.get c).2 < cal (s.cfg.chan.get c).table ((s.ts.store.read k.base).value c).toNat)) →
            exec (.cue h serial take rate mask) s =
              .next (reply (caller h serial) 8 .unreachable .none (heard h s))) ∧
          (k.canCue = true → k.chanSet &&& ~~~(chanSetOf mask) ≠ 0 →
            (∀ c < 4, (k.chanSet &&& ~~~(chanSetOf mask)).getLsbD c = true →
              (s.iu.ranges.get c).1 ≤ cal (s.cfg.chan.get c).table ((s.ts.store.read k.base).value c).toNat ∧
                cal (s.cfg.chan.get c).table ((s.ts.store.read k.base).value c).toNat ≤ (s.iu.ranges.get c).2) →
            ∃ t, exec (.cue h serial take rate mask) s = .next t ∧ t.tpr.activity = .cueing ∧
              t.tpr.take = some take.toNat ∧ t.tpr.rate = some rate.toNat ∧ t.tpr.override = chanSetOf mask ∧
              t.tpr.cueSet = k.chanSet &&& ~~~(chanSetOf mask) ∧ t.tpr.base = 0 ∧ t.tpr.cursor = 0 ∧
              t.tpr.markIdx = none ∧ t.tpr.cueCompletion = some (caller h serial) ∧
              t.lif = (reply (caller h serial) 8 .accepted .none (heard h s)).lif ∧
              (∀ c < 4, (s.dlu.lines.get c).enable = true →
                (t.tpr.cueSet.getLsbD c = true → (t.chans.get c).mode = .cue) ∧
                (t.tpr.override.getLsbD c = true → (t.chans.get c).mode = .live ∧ t.tpr.liveSet.getLsbD c = true) ∧
                (t.tpr.cueSet.getLsbD c = false → t.tpr.override.getLsbD c = false →
                  t.chans.get c = s.chans.get c)) ∧
              OnlyChanges [.lif, .ru, .chans, .tpr, .attention] s t))))

/-- CUE-CANCEL: in CUEING and CUED the activity passes to IDLE, a running cue completes with CANCELLED to its own sender, and
DONE is answered after it, an order that is log entry 45 (DESIGN CHOICE); elsewhere it is refused (R154, R159).  The test of a running cue: a settled channel with its CLAMPED
FLAG set ends it with UNREACHABLE; otherwise, with every cue channel settled and the take there, or the ring at HIGH or
received whole, the node is CUED, its cue channels hold and the completion is DONE; otherwise the cue goes on (R157). -/
def Obligations.CueCancelEndsTheCue : Prop :=
  (∀ (h : Header) (serial : Byte) (s : State), obeys h 0 s = true →
    (s.tpr.activity = .cueing ∨ s.tpr.activity = .cued →
      ∃ t, exec (.cueCancel h serial) s = .next t ∧ t.tpr.activity = .idle ∧ t.tpr.take = none ∧ t.tpr.rate = none ∧
        t.tpr.override = 0 ∧ t.tpr.base = 0 ∧ t.tpr.cursor = 0 ∧ t.tpr.markIdx = none ∧ t.tpr.cueCompletion = none ∧
        t.tpr.liveSet = 0 ∧ t.tpr.punch = false ∧ t.tpr.startPend = s.tpr.startPend ∧
        (s.tpr.cueCompletion = none → t.lif = (reply (caller h serial) 9 .done .none (heard h s)).lif) ∧
        (∀ w, s.tpr.cueCompletion = some w →
          t.lif = (reply (caller h serial) 9 .done .none (reply w 8 .cancelled .none (heard h s))).lif) ∧
        (s.ss.safety = .armed → s.cfg.nChans ≤ 4 → ∀ i < s.cfg.nChans, (s.dlu.lines.get i).enable = true →
          (s.chans.get i).mode ≠ .hold →
          (t.chans.get i).mode = (if (s.chans.get i).v = 0 then .hold else .halt)) ∧
        OnlyChanges [.lif, .ru, .chans, .pu, .tpr, .attention] s t) ∧
    (s.tpr.activity ≠ .cueing → s.tpr.activity ≠ .cued →
      exec (.cueCancel h serial) s = .next (reply (caller h serial) 9 .refused .none (heard h s)))) ∧
  (∀ (s : State) (id : Nat) (k : Take), s.tpr.activity = .cueing → s.tpr.take = some id → s.findTake id = some k →
    ((∃ i < 4, s.tpr.cueSet.getLsbD i = true ∧ (s.chans.get i).settled = true ∧ (s.chans.get i).clamped = true) →
      cueTest s = passageToIdle .unreachable s ∧ (cueTest s).tpr.activity = .idle ∧ (cueTest s).tpr.take = none ∧
      (cueTest s).tpr.cueCompletion = none ∧
      ∀ w, s.tpr.cueCompletion = some w → (cueTest s).lif = (reply w 8 .unreachable .none s).lif) ∧
    ((∀ i < 4, s.tpr.cueSet.getLsbD i = true → (s.chans.get i).settled = true ∧ (s.chans.get i).clamped = false) →
      (k.kind = .resident ∨ k.high ≤ k.fill - k.retired ∨ k.endReceived = true) →
      (cueTest s).tpr = { s.tpr with activity := .cued, cueCompletion := none } ∧
      (∀ w, s.tpr.cueCompletion = some w → (cueTest s).lif = (reply w 8 .done .none s).lif) ∧
      (∀ i < 4, s.tpr.cueSet.getLsbD i = true → s.ss.safety = .armed → (s.dlu.lines.get i).enable = true →
        (s.chans.get i).mode = .cue → (s.chans.get i).v = 0 →
        ((cueTest s).chans.get i).mode = .hold ∧ ((cueTest s).chans.get i).held = (s.chans.get i).x) ∧
      OnlyChanges [.lif, .chans, .tpr, .attention] s (cueTest s)) ∧
    ((∀ i < 4, s.tpr.cueSet.getLsbD i = true → (s.chans.get i).settled = true → (s.chans.get i).clamped = false) →
      ((∃ i < 4, s.tpr.cueSet.getLsbD i = true ∧ (s.chans.get i).settled = false) ∨
        (k.kind = .stream ∧ k.fill - k.retired < k.high ∧ k.endReceived = false)) → cueTest s = s)) ∧
  (∀ s : State, s.tpr.activity ≠ .cueing → cueTest s = s)

/-- RECORD and RECORD-END: the tests of R177, the take in RECORDING with the live state kept, and its end as READY, or back in
LOADING when nothing was written, with the LENGTH in the reply (R177, R180). -/
def Obligations.RecordingBeginsAndEnds : Prop :=
  (∀ (h : Header) (serial take : Byte) (s : State), obeys h 1 s = true →
    (s.ss.safety ≠ .armed ∨ (s.tpr.activity ≠ .idle ∧ s.tpr.activity ≠ .live) →
      exec (.record h serial take) s = .next (reply (caller h serial) 10 .refused .none (heard h s))) ∧
    (s.ss.safety = .armed → (s.tpr.activity = .idle ∨ s.tpr.activity = .live) →
      (s.findTake take.toNat = none →
        exec (.record h serial take) s = .next (reply (caller h serial) 10 .noTake .none (heard h s))) ∧
      (∀ k, s.findTake take.toNat = some k → (k.kind = .stream ∨ k.state ≠ .loading ∨ k.length ≠ 0) →
        exec (.record h serial take) s = .next (reply (caller h serial) 10 .refused .none (heard h s))) ∧
      (∀ k, s.findTake take.toNat = some k → k.kind = .resident → k.state = .loading → k.length = 0 →
        exec (.record h serial take) s = .next (reply (caller h serial) 10 .done .none { heard h s with
          ts.dir := s.ts.dir.map (Option.map fun k => if k.id = take.toNat then { k with state := .recording } else k)
          tpr.take := some take.toNat
          tpr.activity := .recording })))) ∧
  (∀ (h : Header) (serial : Byte) (s : State), obeys h 0 s = true →
    (∀ id k, s.tpr.activity = .recording → s.tpr.take = some id → s.findTake id = some k →
      ∃ u, exec (.recordEnd h serial) s = .next (reply (caller h serial) 11 .done (.length k.length) u) ∧
        u.tpr.take = none ∧ u.tpr.activity = .live ∧ u.tpr.liveSet = s.tpr.liveSet ∧ u.tpr.live = s.tpr.live ∧
        u.tpr.markPend = s.tpr.markPend ∧ u.tpr.markCur = s.tpr.markCur ∧ u.tpr.markPrev = s.tpr.markPrev ∧
        u.ts.store = s.ts.store ∧
        (∃ k', u.findTake id = some k' ∧ k' = { k with state := if k.length = 0 then .loading else .ready }) ∧
        OnlyChanges [.lif, .ru, .ts, .tpr, .attention] s u) ∧
    (s.tpr.activity ≠ .recording →
      exec (.recordEnd h serial) s = .next (reply (caller h serial) 11 .refused .none (heard h s))))

/-- PUNCH: the tests of R182 in their order, and on acceptance the flag and mask, with nothing written yet (R182).  After a
computed tick in PLAYING with PUNCH set, the record of an index that the cursor newly reaches takes the source values of the
punch channels and keeps every other value and its MARK; an index already reached is not written again (R144, R184). -/
def Obligations.PunchSetsItsMask : Prop :=
  (∀ (h : Header) (serial take mask : Byte) (s : State), obeys h 2 s = true →
    (s.tpr.activity ≠ .cued ∨ s.tpr.take ≠ some take.toNat →
      exec (.punch h serial take mask) s = .next (reply (caller h serial) 12 .refused .none (heard h s))) ∧
    (∀ k, s.tpr.activity = .cued → s.tpr.take = some take.toNat → s.findTake take.toNat = some k →
      (k.kind = .stream →
        exec (.punch h serial take mask) s = .next (reply (caller h serial) 12 .refused .none (heard h s))) ∧
      (k.kind = .resident →
        (s.tpr.rate ≠ some 8 →
          exec (.punch h serial take mask) s = .next (reply (caller h serial) 12 .badArg .none (heard h s))) ∧
        (s.tpr.rate = some 8 →
          (chanSetOf mask = 0 ∨ (∃ c < 4, (chanSetOf mask).getLsbD c = true ∧
              (k.editSet.getLsbD c = false ∨ s.tpr.override.getLsbD c = true)) →
            exec (.punch h serial take mask) s = .next (reply (caller h serial) 12 .badArg .none (heard h s))) ∧
          (chanSetOf mask ≠ 0 → (∀ c < 4, (chanSetOf mask).getLsbD c = true →
              k.editSet.getLsbD c = true ∧ s.tpr.override.getLsbD c = false) →
            exec (.punch h serial take mask) s = .next (reply (caller h serial) 12 .done .none { heard h s with
              tpr.punch := true, tpr.punchMask := chanSetOf mask, tpr.punchIdx := none })))))) ∧
  (∀ (s : State) (id n : Nat) (k : Take), s.tpr.activity = .playing → s.tpr.punch = true → s.tpr.take = some id →
    s.findTake id = some k → k.kind = .resident → n = s.tpr.cursor / 4096 → n < k.length → k.base + k.length ≤ 8192 →
    StoreWf s →
    ((s.tpr.punchIdx = none ∨ ∃ m, s.tpr.punchIdx = some m ∧ m < n) →
      (punchWrite s).tpr = { s.tpr with punchIdx := some n } ∧
      (∀ c < 4, ((punchWrite s).ts.store.read (k.base + n)).value c =
        if s.tpr.punchMask.getLsbD c then BitVec.ofNat 16 (s.chans.get c).u
        else (s.ts.store.read (k.base + n)).value c) ∧
      ((punchWrite s).ts.store.read (k.base + n)).mark = (s.ts.store.read (k.base + n)).mark ∧
      (∀ p, p ≠ k.base + n → (punchWrite s).ts.store.read p = s.ts.store.read p) ∧
      OnlyChanges [.ts, .store, .tpr, .attention] s (punchWrite s)) ∧
    (∀ m, s.tpr.punchIdx = some m → n ≤ m → punchWrite s = s)) ∧
  (∀ s : State, (s.tpr.activity ≠ .playing ∨ s.tpr.punch = false) → punchWrite s = s)

/-- SENSOR-READ: BUSY while the slot is occupied, BAD-ARG for a channel or item out of range, else the slot is filled and the
read takes a free line at once; READ_TAKES_LINE gives a waiting read the line when no round is in progress (R83, R84). The
three ends of a read: DONE with the value, REFUSED with 0, TIMEOUT with SENSOR-TIMEOUT; in each the slot is emptied and a
deferred round begins (R85). A response whose request has been given up is discarded; that its command says so, and that a
READ follows what R78 says of a POLL, is log entry 52 (DESIGN CHOICE). Three clauses are the model's reading, each DEDUCED:
that TIMEOUT carries the value 0 (log entry 30), that a READ response without an outstanding READ has no effect (log entry
21), and that SENSOR-READ itself takes the free line (log entry 34). -/
def Obligations.ExplicitReadBeginsAndEnds : Prop :=
  (∀ (h : Header) (serial channel item : Byte) (s : State), obeys h 2 s = true →
    (s.spl.read ≠ none →
      exec (.sensorRead h serial channel item) s = .next (reply (caller h serial) 13 .busy .none (heard h s))) ∧
    (s.spl.read = none → (s.cfg.nChans ≤ channel.toNat ∨ 15 < item.toNat) →
      exec (.sensorRead h serial channel item) s = .next (reply (caller h serial) 13 .badArg .none (heard h s))) ∧
    (s.spl.read = none → channel.toNat < s.cfg.nChans → item.toNat ≤ 15 → s.spl.readActive = false →
      ∃ t, exec (.sensorRead h serial channel item) s = .next t ∧
        t.spl = { s.spl with
          read := some { slot := caller h serial, channel := channel.toNat, item := item.toNat }
          readActive := s.spl.round.isNone } ∧
        t.lif = (reply (caller h serial) 13 .accepted .none (heard h s)).lif ∧
        OnlyChanges [.lif, .ru, .spl, .attention] s t)) ∧
  (∀ s : State, s.spl.read ≠ none → s.spl.readActive = false → s.spl.round = none →
    exec .readTakesLine s = .next { s with spl.readActive := true }) ∧
  (∀ (address : Byte) (v : BitVec 32) (s : State) (w : ReadSlot), s.spl.readActive = true → s.spl.read = some w →
    address.toNat = w.channel →
    (∃ t, exec (.readResponse .good address 0 v) s = .next t ∧
      t.lif = (reply w.slot 13 .done (.value v) s).lif ∧ t.spl.read = none ∧ t.spl.readActive = false ∧
      t.spl.deferred = false ∧ (s.spl.deferred = true → t.spl.round = some { channel := 0, late := true }) ∧
      (s.spl.deferred = false → t.spl.round = s.spl.round ∧ t.spl.readings = s.spl.readings) ∧
      OnlyChanges [.lif, .spl, .attention] s t) ∧
    (∃ t, exec (.readResponse .good address 2 v) s = .next t ∧
      t.lif = (reply w.slot 13 .refused (.value 0) s).lif ∧ t.spl.read = none ∧ t.spl.readActive = false ∧
      t.spl.deferred = false ∧ (s.spl.deferred = true → t.spl.round = some { channel := 0, late := true }) ∧
      OnlyChanges [.lif, .spl, .attention] s t)) ∧
  (∀ (s : State) (w : ReadSlot), s.spl.readActive = true → s.spl.read = some w →
    ∃ t, exec .sensorTimeout s = .next t ∧
      t.lif = (reply w.slot 13 .timeout (.value 0) s).lif ∧ attentionHas t.attention .sensorTimeout = true ∧
      t.spl.read = none ∧ t.spl.readActive = false ∧ t.spl.deferred = false ∧
      (s.spl.deferred = true → t.spl.round = some { channel := 0, late := true }) ∧
      OnlyChanges [.lif, .spl, .attention] s t) ∧
  (∀ (answer : Answer) (address status : Byte) (v : BitVec 32) (s : State),
    (answer ≠ .good ∨ s.spl.readActive = false ∨ (status ≠ 0 ∧ status ≠ 2) ∨
      ∃ w, s.spl.read = some w ∧ address.toNat ≠ w.channel) →
    exec (.readResponse answer address status v) s = .next s)

/-- The items of STATUS-QUERY, each read as it stands, and what CLEAR removes (R192, R193, R194, R196).  In FAULTED the
ATTENTION item carries the fault code and the item index too, and CLEAR does not remove them (R189, R193). -/
def Obligations.StatusQueryShowsEachItem : Prop :=
  (∀ (h : Header) (serial start clear : Byte) (s : State), obeys h 3 s = true →
    (clear.getLsbD 0 = false → exec (.attention h serial start clear) s =
      .next (reply (caller h serial) 14 .done (.attention (heard h s).attention 0 0) (heard h s))) ∧
    (clear.getLsbD 0 = true → exec (.attention h serial start clear) s =
      .next (reply (caller h serial) 14 .done (.attention (heard h s).attention 0 0) { heard h s with attention := 0 })) ∧
    exec (.counters h serial start clear) s =
      .next (reply (caller h serial) 14 .done (.counters s.lif.badMessages s.lif.txFailures s.lif.txDrops) (heard h s)) ∧
    exec (.claims h serial start clear) s =
      .next (reply (caller h serial) 14 .done
        (.claims s.ss.claims.length s.ss.overflow ((s.ss.claims.drop start.toNat).take 8)) (heard h s)) ∧
    exec (.roster h serial start clear) s =
      .next (reply (caller h serial) 14 .done
        (.roster (heard h s).ru.roster.length (heard h s).ru.roster[start.toNat]?) (heard h s)) ∧
    (8 ≤ start.toNat → exec (.directory h serial start clear) s =
      .next (reply (caller h serial) 14 .badArg .none (heard h s))) ∧
    (∀ e, start.toNat < 8 → s.ts.dir[start.toNat]? = some e → exec (.directory h serial start clear) s =
      .next (reply (caller h serial) 14 .done (.directory e) (heard h s))) ∧
    (s.findTake start.toNat = none → exec (.latch h serial start clear) s =
      .next (reply (caller h serial) 14 .noTake .none (heard h s))) ∧
    (∀ k, s.findTake start.toNat = some k → clear.getLsbD 0 = false → exec (.latch h serial start clear) s =
      .next (reply (caller h serial) 14 .done (.latch k.latch) (heard h s))) ∧
    (∀ k, s.findTake start.toNat = some k → clear.getLsbD 0 = true → exec (.latch h serial start clear) s =
      .next (reply (caller h serial) 14 .done (.latch k.latch) { heard h s with
        ts.dir := s.ts.dir.map (Option.map fun k => if k.id = start.toNat then { k with latch := none } else k) }))) ∧
  (∀ (h : Header) (serial start clear : Byte) (s : State), receives h s = true → s.addressed h = true →
    h.length.toNat = 5 → s.ss.safety = .faulted → (s.isControl h.source.toNat = true ∨ s.cfg.controlsKnown = false) →
    exec (.attention h serial start clear) s =
      .next (reply (caller h serial) 14 .done (.attention s.attention s.cl.fault s.cl.item)
        { heard h s with attention := if clear.getLsbD 0 then 0 else s.attention }))

/-! ### The sensor line -/

/-- A good POLL response of the outstanding request is taken: OK and WARN give the position and make the reading fresh, FAIL
keeps it and raises ENCODER; the next channel is polled; any other response is discarded, one whose request has been given up
among them, though it be of channel 0 and the POLL of channel 0 outstanding (R77, R78, R79, R81); that its command says
whether its request still stands is log entry 52 (DESIGN CHOICE). A servo tick ends the round in progress: a channel without a
response is stale for it, its count one higher, with STALE-READING if it has been valid and ENCODER from the third stale tick
on; the next round begins, or is deferred while a read is accepted, and a deferred round that has not begun is stale on every
channel (R78, R79, R81, R84). A fresh reading of a round that was not deferred is compared with the setpoint of the tick
before: the FERR COUNT counts the excess, or is 0, and FOLLOW is raised when it stands at its end (R86, R87). Three clauses
are the model's reading, each DEDUCED: the discard of a POLL response during a READ (log entry 21), the FERR COUNT unchanged
outside the four states (log entry 33), and the read taking the line at the response that completes the round (log entry 34).
-/
def Obligations.PollResponseIsTaken : Prop :=
  (∀ (address status : Byte) (p : U24) (s : State) (r : Round), s.spl.readActive = false → s.spl.round = some r →
    address.toNat = r.channel → r.channel < 4 → (status = 0 ∨ status = 1) →
    ∃ t, exec (.pollResponse .good address status p) s = .next t ∧
      (t.spl.readings.get r.channel).position = p.toInt ∧
      (t.spl.readings.get r.channel).status = some (if status = 0 then .ok else .warn) ∧
      (t.spl.readings.get r.channel).valid = true ∧ (t.spl.readings.get r.channel).stale = 0 ∧
      (t.spl.readings.get r.channel).received = true ∧
      (r.channel + 1 < s.cfg.nChans → t.spl.round = some { channel := r.channel + 1, late := r.late }) ∧
      (s.cfg.nChans ≤ r.channel + 1 → t.spl.round = none ∧ t.spl.readActive = s.spl.read.isSome) ∧
      OnlyChanges [.lif, .chans, .spl, .ss, .pu, .ts, .tpr, .attention] s t ∧
      (r.late = true ∨ s.ss.safety.driven = false → OnlyChanges [.spl] s t ∧
        (t.spl.readings.get r.channel).ferr = (s.spl.readings.get r.channel).ferr) ∧
      (∀ j < 4, j ≠ r.channel → s.ss.safety.driven = false → t.spl.readings.get j = s.spl.readings.get j)) ∧
  (∀ (address : Byte) (p : U24) (s : State) (r : Round), s.spl.readActive = false → s.spl.round = some r →
    address.toNat = r.channel → r.channel < 4 → s.ss.safety.isOpen = true →
    ∃ t, exec (.pollResponse .good address 2 p) s = .next t ∧
      (t.spl.readings.get r.channel).position = (s.spl.readings.get r.channel).position ∧
      (t.spl.readings.get r.channel).status = some .fail ∧
      (t.spl.readings.get r.channel).stale = min 255 ((s.spl.readings.get r.channel).stale + 1) ∧
      attentionHas t.attention .staleReading = true ∧
      OnlyChanges [.lif, .chans, .spl, .ss, .pu, .ts, .tpr, .attention] s t ∧
      (findClaim s.ss.claims s.cfg.station .encoder = none → s.ss.claims.length < 32 →
        findClaim t.ss.claims s.cfg.station .encoder =
          some { origin := s.cfg.station, cause := .encoder, detail := r.channel, latched := true } ∧
        (s.ss.safety.canStop = true → t.ss.safety = .stopping))) ∧
  (∀ (answer : Answer) (address status : Byte) (p : U24) (s : State),
    (answer ≠ .good ∨ s.spl.readActive = true ∨ s.spl.round = none ∨ 2 < status.toNat ∨
      ∃ r, s.spl.round = some r ∧ address.toNat ≠ r.channel) →
    exec (.pollResponse answer address status p) s = .next s) ∧
  (∀ (address status : Byte) (p : U24) (s : State) (r : Round), s.spl.readActive = false → s.spl.round = some r →
    address.toNat = r.channel → r.channel < 4 → (status = 0 ∨ status = 1) → r.late = false →
    exec (.pollResponse .good address status p) s = .next (pollNext r.channel false (followCheck r.channel { s with
      spl.readings := s.spl.readings.set r.channel { s.spl.readings.get r.channel with
        position := p.toInt, status := some (if status = 0 then .ok else .warn), valid := true, stale := 0,
        received := true } }))) ∧
  (∀ (i : Nat) (s : State), s.ss.safety.driven = false → followCheck i s = s) ∧
  (∀ (i : Nat) (s : State), s.ss.safety.driven = true → i < 4 →
    ∃ f w, w = { s with spl.readings := s.spl.readings.set i { s.spl.readings.get i with ferr := f } } ∧
      ((s.spl.readings.get i).hist.length < 2 → f = 0) ∧
      (∀ a b rest, (s.spl.readings.get i).hist = a :: b :: rest →
        (b.mode = .off → f = 0) ∧
        (b.mode ≠ .off → |b.x - (s.spl.readings.get i).position| ≤ ((s.cfg.chan.get i).ferrMax : Int) → f = 0) ∧
        (b.mode ≠ .off → ((s.cfg.chan.get i).ferrMax : Int) < |b.x - (s.spl.readings.get i).position| →
          f = min (s.cfg.chan.get i).ferrTicks ((s.spl.readings.get i).ferr + 1))) ∧
      (f ≠ (s.cfg.chan.get i).ferrTicks → followCheck i s = w) ∧
      (f = (s.cfg.chan.get i).ferrTicks → followCheck i s = raiseFiltered .follow i w ∧
        ((followCheck i s).spl.readings.get i).ferr = f ∧
        (findClaim s.ss.claims s.cfg.station .follow = none → s.ss.claims.length < 32 →
          findClaim (followCheck i s).ss.claims s.cfg.station .follow =
            some { origin := s.cfg.station, cause := .follow, detail := i, latched := true } ∧
          (s.ss.safety.canStop = true → (followCheck i s).ss.safety = .stopping)))) ∧
  (∀ s : State, s.ss.safety ≠ .loading → s.ss.safety ≠ .faulted → s.cfg.nChans ≤ 4 →
    (∀ i < s.cfg.nChans,
      ((s.spl.deferred = true ∨ s.spl.round.isSome = true ∧ (s.spl.readings.get i).received = false) →
        ((pollTick s).spl.readings.get i).stale = min 255 ((s.spl.readings.get i).stale + 1) ∧
        ((s.spl.readings.get i).valid = true → s.ss.safety ≠ .parked →
          attentionHas (pollTick s).attention .staleReading = true)) ∧
      ((s.spl.deferred = false ∧ (s.spl.round = none ∨ (s.spl.readings.get i).received = true)) →
        ((pollTick s).spl.readings.get i).stale = (s.spl.readings.get i).stale) ∧
      ((pollTick s).spl.readings.get i).position = (s.spl.readings.get i).position ∧
      ((pollTick s).spl.readings.get i).status = (s.spl.readings.get i).status ∧
      ((pollTick s).spl.readings.get i).valid = (s.spl.readings.get i).valid ∧
      ((pollTick s).spl.readings.get i).ferr = (s.spl.readings.get i).ferr ∧
      (s.spl.read = none → ((pollTick s).spl.readings.get i).received = false)) ∧
    (s.spl.read = none → (pollTick s).spl.round = some { channel := 0, late := false } ∧
      (pollTick s).spl.deferred = false ∧ (pollTick s).spl.readActive = s.spl.readActive) ∧
    (s.spl.read ≠ none → (pollTick s).spl.round = none ∧ (pollTick s).spl.deferred = true ∧
      (pollTick s).spl.readActive = true) ∧
    (pollTick s).spl.read = s.spl.read ∧
    (∀ i < s.cfg.nChans, s.ss.safety.isOpen = true →
      (s.spl.deferred = true ∨ s.spl.round.isSome = true ∧ (s.spl.readings.get i).received = false) →
      (s.spl.readings.get i).valid = true → 2 ≤ (s.spl.readings.get i).stale →
      (∀ k < i, (s.spl.deferred = true ∨ (s.spl.readings.get k).received = false) →
        (s.spl.readings.get k).valid = true → (s.spl.readings.get k).stale < 2) →
      findClaim s.ss.claims s.cfg.station .encoder = none → s.ss.claims.length < 32 →
      findClaim (pollTick s).ss.claims s.cfg.station .encoder =
        some { origin := s.cfg.station, cause := .encoder, detail := i, latched := true } ∧
      (s.ss.safety.canStop = true → (pollTick s).ss.safety = .stopping)) ∧
    ((∀ i < s.cfg.nChans, (s.spl.readings.get i).valid = true → (s.spl.readings.get i).received = true ∧
        s.spl.deferred = false ∨ s.spl.round = none ∧ s.spl.deferred = false) → OnlyChanges [.spl] s (pollTick s)) ∧
    (s.ss.safety = .parked → OnlyChanges [.spl] s (pollTick s)) ∧
    OnlyChanges [.lif, .chans, .spl, .ss, .pu, .ts, .tpr, .attention] s (pollTick s))

/-! ### The arithmetic of the Setpoint Pipeline -/

/-- The discrete stopping distance is the sum of the steps to rest, and the brake speed for a distance d is the largest speed
whose stopping distance is at most |d|; the distance grows with the speed and falls as the deceleration grows (R66). -/
def Obligations.BrakeSpeedIsTheLargestThatStops : Prop :=
  (∀ a w : Nat, 1 ≤ a → w < a → stopDistance a w = w) ∧
  (∀ a w : Nat, 1 ≤ a → a ≤ w → stopDistance a w = w + stopDistance a (w - a)) ∧
  (∀ a w n : Nat, 1 ≤ a → n = w / a → stopDistance a w + a * (n * (n + 1) / 2) = (n + 1) * w) ∧
  (∀ (a : Nat) (d : Int), 1 ≤ a → stopDistance a (brakeSpeed a d) ≤ d.natAbs) ∧
  (∀ (a w : Nat) (d : Int), 1 ≤ a → stopDistance a w ≤ d.natAbs → w ≤ brakeSpeed a d) ∧
  (∀ (a : Nat) (d : Int), 1 ≤ a → brakeSpeed a d ≤ d.natAbs) ∧
  (∀ a : Nat, 1 ≤ a → brakeSpeed a 0 = 0) ∧
  (∀ a v w : Nat, 1 ≤ a → v ≤ w → stopDistance a v ≤ stopDistance a w) ∧
  (∀ a b w : Nat, 1 ≤ a → a ≤ b → stopDistance b w ≤ stopDistance a w) ∧
  (∀ a w : Nat, 1 ≤ a → w ≤ 65535 → stopDistance a w < 2 ^ 32)

/-- The limiter moves the velocity by at most amax toward the wanted one. A channel that can stop on a standing target keeps
that ability, never passes the target, comes to rest exactly on it after some number of ticks, and stays there (R67); HALT and
STOP take their deceleration off the speed until the channel is at rest, whatever its target, and a channel that enters either
from rest stays where it is (R68). A request for a mode is discarded while the drive is off and leaves a channel that is in
the mode; HOLD asked for while V is not 0 is HALT; entry to a mode sets HELD, the goals, the HALT FLAG, G_PEND and the
DEVIATION COUNT as the second table of R54 says and carries X and V, and a drive that goes off puts its channel in OFF (R54,
R55). In STOPPING and SECURING a request of the Take Player is discarded (R109). What a request for HOLD does at a channel
that moves in HOLD, which the rule's two sentences leave open, is log entry 28 (DEDUCED): it is left in HOLD. That a channel
which enters HALT at rest has one computation in HALT, and the bit which the entry to a mode clears for it, is log entry 9
(DEDUCED). -/
def Obligations.LimiterStopsOnTheTarget : Prop :=
  (∀ (amax limit : Nat) (d v : Int), limiter amax limit d v - v ≤ amax ∧ v - limiter amax limit d v ≤ amax) ∧
  (∀ (amax limit : Nat) (d v : Int), (d.sign * (min limit (brakeSpeed amax d) : Nat) - v).natAbs ≤ amax →
    limiter amax limit d v = d.sign * (min limit (brakeSpeed amax d) : Nat)) ∧
  (∀ (amax limit : Nat) (d v : Nat), 1 ≤ amax → stopDistance amax (v - amax) ≤ d →
    ∃ w : Nat, limiter amax limit d v = w ∧ w ≤ d ∧ stopDistance amax (w - amax) ≤ d - w) ∧
  (∀ (amax limit : Nat) (d v : Nat), 1 ≤ amax → stopDistance amax (v - amax) ≤ d →
    limiter amax limit (-(d : Int)) (-(v : Int)) = -limiter amax limit d v) ∧
  (∀ (a : Nat) (v : Int), v.natAbs ≤ a → decelerate a v = 0) ∧
  (∀ (a : Nat) (v : Int), (a : Int) ≤ v → decelerate a v = v - a) ∧
  (∀ (a : Nat) (v : Int), v ≤ -(a : Int) → decelerate a v = v + a) ∧
  (∀ (inp : TickInput) (c : Chan), c.mode = .stop →
    (c.compute inp).v = decelerate inp.cfg.astop c.v ∧ (c.compute inp).x = c.x + decelerate inp.cfg.astop c.v ∧
    (c.compute inp).mode = .stop ∧ (c.compute inp).tRaw = none ∧ (c.compute inp).t = none) ∧
  (∀ (inp : TickInput) (c : Chan), c.mode = .halt → c.rested = false →
    (c.compute inp).v = decelerate inp.cfg.amax c.v ∧ (c.compute inp).x = c.x + decelerate inp.cfg.amax c.v ∧
    (c.compute inp).mode = .halt ∧ (c.compute inp).tRaw = none ∧ (c.compute inp).t = none) ∧
  (∀ (inp : TickInput) (table : List (Nat × Int)) (c : Chan) (m : Mode), (m = .halt ∨ m = .stop) →
    (c.enter table m).mode = m ∧ (c.enter table m).x = c.x ∧ (c.enter table m).v = c.v ∧
    ((c.enter table m).compute inp).mode = m ∧
    ((c.enter table m).compute inp).v = decelerate (if m = .halt then inp.cfg.amax else inp.cfg.astop) c.v ∧
    (c.v = 0 → ((c.enter table m).compute inp).x = c.x ∧ ((c.enter table m).compute inp).v = 0)) ∧
  (∀ (m : Mode) (i : Nat) (s : State), i < 4 → m ≠ .off →
    let c := s.chans.get i
    let e := if m = .hold ∧ c.v ≠ 0 then .halt else m
    ((s.dlu.lines.get i).enable = false ∨ c.mode = m ∨ c.mode = e → requestMode m i s = s) ∧
    ((s.dlu.lines.get i).enable = true → c.mode ≠ m → c.mode ≠ e →
      EntersMode (s.cfg.chan.get i).table e c ((requestMode m i s).chans.get i) ∧
      (∀ k < 4, k ≠ i → (requestMode m i s).chans.get k = s.chans.get k) ∧ OnlyChanges [.chans] s (requestMode m i s))) ∧
  (∀ (m : Mode) (i : Nat) (s : State),
    (s.ss.safety = .stopping ∨ s.ss.safety = .securing → requestByPlayer m i s = s) ∧
    (s.ss.safety ≠ .stopping → s.ss.safety ≠ .securing → requestByPlayer m i s = requestMode m i s)) ∧
  (∀ (i : Nat) (s : State), i < 4 → (s.chans.get i).mode ≠ .off →
    (driveOff i s).chans.get i = offChan (s.chans.get i)) ∧
  (∀ amax limit d v : Nat, 1 ≤ amax → 1 ≤ limit → stopDistance amax (v - amax) ≤ d →
    ∃ n : Nat, (fun p : Int × Int => (p.1 - limiter amax limit p.1 p.2, limiter amax limit p.1 p.2))^[n] (d, v) = (0, 0)) ∧
  (∀ amax limit : Nat, limiter amax limit 0 0 = 0)

/-- A channel in OFF follows its reading with V 0.  In HOLD, LIVE, CUE and PLAY it drives to a target under the speed limit of its
mode: to HELD, to the calibration of the value interpolated between its goals, to that of sample 0, to that of the take at the
cursor; the target is T_RAW clamped to the edge of the effective range that it passes, and the present setpoint when the range
is empty or, in HOLD, while ARMING (R53, R55, R56, R62, R63, R65, R67, R69).  A channel that a
computation in HALT has left at rest is computed in HOLD at its rest point (R57; log entry 9); in HALT and STOP there is no target and the CLAMPED FLAG is clear (R68;
log entry 8).  U is the source value of LIVE, CUE and PLAY and the inverse calibration of the setpoint elsewhere (R63), U_REP
that of the reading (R72), and the DEVIATION COUNT follows |T_RAW - X| in PLAY (R70).  The calibration and its inverse go
segment by segment, rounded to the nearest integer, ties away from zero (R64, R71). -/
def Obligations.ModesWithAndWithoutATarget : Prop :=
  (∀ (inp : TickInput) (c : Chan), c.mode = .off → inp.valid = true →
    (c.compute inp).x = inp.position ∧ (c.compute inp).v = 0 ∧
    (c.compute inp).u = inverse inp.cfg.table inp.position ∧ (c.compute inp).clamped = false ∧
    (c.compute inp).tRaw = none ∧ (c.compute inp).t = none ∧ (c.compute inp).mode = .off) ∧
  (∀ (inp : TickInput) (c : Chan), c.mode = .off → inp.valid = false →
    (c.compute inp).x = c.x ∧ (c.compute inp).v = 0 ∧ (c.compute inp).uRep = 0 ∧ (c.compute inp).mode = .off) ∧
  (∀ (inp : TickInput) (c : Chan), c.mode = .hold → inp.arming = false →
    (c.compute inp).mode = .hold ∧ (c.compute inp).held = c.held ∧
    (c.compute inp).u = inverse inp.cfg.table (c.compute inp).x ∧
    ∃ t, TargetOf inp.range c.x c.held t ∧
      DrivenTo inp (max 1 (inp.cfg.vcue * inp.pace / 16)) c.held t c (c.compute inp)) ∧
  (∀ (inp : TickInput) (c : Chan), c.mode = .hold → inp.arming = true →
    (c.compute inp).mode = .hold ∧ (c.compute inp).held = c.held ∧
    (c.compute inp).u = inverse inp.cfg.table (c.compute inp).x ∧
    DrivenTo inp (max 1 (inp.cfg.vcue * inp.pace / 16)) c.held c.x c (c.compute inp) ∧
    (c.v = 0 → (c.compute inp).v = 0 ∧ (c.compute inp).x = c.x)) ∧
  (∀ (inp : TickInput) (c : Chan), c.mode = .live →
    ∃ u t, u = interpolate c.gPrev c.gCur (inp.tick * 4096 / inp.ticks) ∧ (c.compute inp).u = u ∧
      (c.compute inp).mode = .live ∧ (c.compute inp).gPrev = c.gPrev ∧ (c.compute inp).gCur = c.gCur ∧
      TargetOf inp.range c.x (cal inp.cfg.table u) t ∧
      DrivenTo inp (max 1 (inp.cfg.vmax * inp.pace / 16)) (cal inp.cfg.table u) t c (c.compute inp)) ∧
  (∀ (inp : TickInput) (c : Chan), c.mode = .cue →
    (c.compute inp).u = inp.takeValue ∧ (c.compute inp).mode = .cue ∧
    ∃ t, TargetOf inp.range c.x (cal inp.cfg.table inp.takeValue) t ∧
      DrivenTo inp (max 1 (inp.cfg.vcue * inp.pace / 16)) (cal inp.cfg.table inp.takeValue) t c (c.compute inp)) ∧
  (∀ (inp : TickInput) (c : Chan), c.mode = .play →
    (c.compute inp).u = inp.takeValue ∧ (c.compute inp).mode = .play ∧
    (∃ t, TargetOf inp.range c.x (cal inp.cfg.table inp.takeValue) t ∧
      DrivenTo inp inp.cfg.vmax (cal inp.cfg.table inp.takeValue) t c (c.compute inp)) ∧
    ((inp.cfg.devTol : Int) < |cal inp.cfg.table inp.takeValue - (c.compute inp).x| →
      (c.compute inp).dev = min 2 (c.dev + 1)) ∧
    (|cal inp.cfg.table inp.takeValue - (c.compute inp).x| ≤ (inp.cfg.devTol : Int) → (c.compute inp).dev = 0)) ∧
  (∀ (inp : TickInput) (c : Chan), (c.compute inp).rested = true ↔
    c.mode = .halt ∧ c.rested = false ∧ (c.compute inp).v = 0) ∧
  (∀ (inp : TickInput) (c : Chan), c.mode = .halt → c.rested = true →
    c.compute inp = ({ c with mode := .hold, held := c.x, dev := 0 } : Chan).compute inp ∧
    (c.compute inp).halt = c.halt) ∧
  (∀ (inp : TickInput) (c : Chan), (c.mode = .stop ∨ c.mode = .halt ∧ c.rested = false) →
    (c.compute inp).tRaw = none ∧ (c.compute inp).t = none ∧ (c.compute inp).clamped = false ∧
    (c.compute inp).u = inverse inp.cfg.table (c.compute inp).x ∧
    ((c.compute inp).atRest = true ↔ (c.compute inp).v = 0)) ∧
  (∀ (inp : TickInput) (c : Chan),
    (inp.valid = true → (c.compute inp).uRep = inverse inp.cfg.table inp.position) ∧
    (inp.valid = false → (c.compute inp).uRep = 0)) ∧
  (∀ n d : Int, 0 < d → 2 * |n - d * nearest n d| ≤ d ∧ (2 * |n - d * nearest n d| = d → |n| ≤ |d * nearest n d|)) ∧
  (∀ n d : Int, d ≠ 0 → nearest (-n) (-d) = nearest n d) ∧
  (∀ (pre post : List (Nat × Int)) (p q : Nat × Int) (u : Nat),
    (pre ++ p :: q :: post).Pairwise (fun a b => a.1 < b.1) → p.1 ≤ u → u < q.1 →
    cal (pre ++ p :: q :: post) u = p.2 + nearest ((q.2 - p.2) * ((u : Int) - p.1)) ((q.1 : Int) - p.1)) ∧
  (∀ (p : Nat × Int) (rest : List (Nat × Int)) (u : Nat), (p :: rest).Pairwise (fun a b => a.1 < b.1) →
    (u ≤ p.1 → cal (p :: rest) u = p.2) ∧
    ∀ q, (p :: rest).getLast? = some q → q.1 ≤ u → cal (p :: rest) u = q.2) ∧
  (∀ (pre post : List (Nat × Int)) (p q : Nat × Int) (r : Int),
    ((pre ++ p :: q :: post).Pairwise (fun a b => a.2 < b.2) ∧ p.2 ≤ r ∧ r < q.2 ∨
      (pre ++ p :: q :: post).Pairwise (fun a b => b.2 < a.2) ∧ r ≤ p.2 ∧ q.2 < r) →
    inverse (pre ++ p :: q :: post) r = p.1 + (nearest ((r - p.2) * ((q.1 : Int) - p.1)) (q.2 - p.2)).toNat) ∧
  (∀ (p : Nat × Int) (rest : List (Nat × Int)) (r : Int),
    ((p :: rest).Pairwise (fun a b => a.2 < b.2) →
      (r ≤ p.2 → inverse (p :: rest) r = p.1) ∧
      ∀ q, (p :: rest).getLast? = some q → q.2 ≤ r → inverse (p :: rest) r = q.1) ∧
    ((p :: rest).Pairwise (fun a b => b.2 < a.2) →
      (p.2 ≤ r → inverse (p :: rest) r = p.1) ∧
      ∀ q, (p :: rest).getLast? = some q → r ≤ q.2 → inverse (p :: rest) r = q.1))

/-- The cursor of a resident take at servo tick j and the base of the next frame, at the applied pace and within the take
(R162, R163); the marks of the indices it newly reaches are sent in index order (R166).  In PLAYING and EASING the source value
is the half-up interpolation at the cursor, in a cue that of sample 0 (R60, R62, R63).  A tick that needs an index of a stream
take that the ring does not hold keeps the cursor of the last tick and raises UNDERRUN (R164); the samples behind the cursor
are retired (R147); a recording writes one record of the tick and ends at a full extent (R179, R181). -/
def Obligations.CursorAndRecordingMoveInTheTake : Prop :=
  (∀ (j id r : Nat) (k : Take) (s : State), s.tpr.activity.plays = true → s.tpr.take = some id → s.findTake id = some k →
    s.tpr.rate = some r → k.kind = .resident →
    (formCursor j s).tpr.cursor =
      min ((k.length - 1) * 4096) (s.tpr.base + j * (r * 32 * s.pu.applied / s.cfg.timing.s)) ∧
    (advanceBase s).tpr.base = min ((k.length - 1) * 4096) (s.tpr.base + r * 32 * s.pu.applied) ∧
    OnlyChanges [.lif, .tpr, .attention] s (formCursor j s) ∧ OnlyChanges [.tpr] s (advanceBase s)) ∧
  (∀ (j id : Nat) (k : Take) (s : State), s.tpr.activity.plays = true → s.tpr.take = some id → s.findTake id = some k →
    k.kind = .stream → k.readsHeld (s.cursorAt k j) = false →
    formCursor j s = s ∧ s.underrunTake j = some k ∧ raiseUnderrun j s = raiseOwn .underrun id s ∧
    underrunOf (s.underrunTake j) s = raiseOwn .underrun id s) ∧
  (∀ (j : Nat) (s : State), (s.tpr.activity.plays = false ∨ ∀ id k, s.tpr.take = some id → s.findTake id = some k →
      k.kind = .resident ∨ k.readsHeld (s.cursorAt k j) = true) →
    s.underrunTake j = none ∧ raiseUnderrun j s = s) ∧
  (∀ (j : Nat) (s : State), s.tpr.activity.plays = false → formCursor j s = s) ∧
  (∀ (j id : Nat) (k : Take) (s : State), s.tpr.activity.plays = true → s.tpr.take = some id → s.findTake id = some k →
    k.kind = .stream → k.readsHeld (s.cursorAt k j) = true →
    (formCursor j s).tpr = { s.tpr with cursor := s.cursorAt k j, markIdx := some (s.cursorAt k j / 4096) } ∧
    s.cursorAt k j = (match k.cap with | some m => min m | none => fun n => n) (s.tpr.base + j * (s.tpr.rate.getD 0 * 32 * s.pu.applied / s.cfg.timing.s)) ∧
    ∃ k', (formCursor j s).findTake id = some k' ∧ k'.retired = max k.retired (min k.fill (s.cursorAt k j / 4096)) ∧
      k'.fill = k.fill) ∧
  (∀ (k : Take) (c : Nat), k.kind = .stream → (k.readsHeld c = true ↔
    (k.retired ≤ c / 4096 ∧ c / 4096 < k.fill) ∧ (c % 4096 = 0 ∨ k.retired ≤ c / 4096 + 1 ∧ c / 4096 + 1 < k.fill))) ∧
  (∀ (id : Nat) (k : Take) (s : State), s.tpr.activity = .recording → s.tpr.take = some id → s.findTake id = some k →
    k.kind = .resident → k.state = .recording → k.length < k.size → k.base + k.size ≤ 8192 → StoreWf s →
    (recordingWrite s).ts.store.read (k.base + k.length) = s.sourceRecord s.tpr.markPrev ∧
    (∀ p, p ≠ k.base + k.length → (recordingWrite s).ts.store.read p = s.ts.store.read p) ∧
    (∃ k', (recordingWrite s).findTake id = some k' ∧ k'.length = k.length + 1 ∧
      k'.state = (if k.length + 1 = k.size then .ready else .recording)) ∧
    (k.length + 1 = k.size → (recordingWrite s).tpr.activity = .live ∧ (recordingWrite s).tpr.take = none ∧
      attentionHas (recordingWrite s).attention .takeFull = true) ∧
    (k.length + 1 < k.size → (recordingWrite s).tpr = s.tpr) ∧
    OnlyChanges [.ts, .store, .tpr, .attention] s (recordingWrite s)) ∧
  (∀ (j id : Nat) (k : Take) (s : State), s.tpr.activity.plays = true → s.tpr.take = some id → s.findTake id = some k →
    k.kind = .resident → formCursor j s = takeMarks id k (s.cursorAt k j / 4096) { s with tpr.cursor := s.cursorAt k j }) ∧
  (∀ (id n : Nat) (k : Take) (s : State), ∃ ms : List (Nat × Nat),
    takeMarks id k n s =
      { ms.foldl (fun s m => broadcast (.mark id m.1 m.2) s) s with tpr.markIdx := some n } ∧
    (ms.Pairwise fun a b => a.1 < b.1) ∧
    ∀ m c, (m, c) ∈ ms ↔ m ≤ n ∧ (∀ p, s.tpr.markIdx = some p → p < m) ∧ c ≠ 0 ∧
      c = (s.ts.store.read (k.position m)).mark.toNat) ∧
  (∀ (k : Take) (m : Nat), (k.kind = .resident → k.position m = k.base + m) ∧
    (k.kind = .stream → k.position m = k.base + m % k.size)) ∧
  (∀ a b f : Nat, a ≤ 65535 → b ≤ 65535 → f ≤ 4095 →
    4096 * ((interpolate a b f : Int) - a) ≤ ((b : Int) - a) * f + 2048 ∧
    ((b : Int) - a) * f + 2048 < 4096 * ((interpolate a b f : Int) - a + 1) ∧
    min a b ≤ interpolate a b f ∧ interpolate a b f ≤ max a b ∧ interpolate a b 0 = a) ∧
  (∀ (s : State) (id i : Nat) (k : Take), s.tpr.take = some id → s.findTake id = some k →
    (s.tpr.activity.plays = true →
      (s.tpr.cursor % 4096 = 0 →
        s.takeValue i = ((s.ts.store.read (k.position (s.tpr.cursor / 4096))).value i).toNat) ∧
      (s.tpr.cursor % 4096 ≠ 0 → s.takeValue i = interpolate
        ((s.ts.store.read (k.position (s.tpr.cursor / 4096))).value i).toNat
        ((s.ts.store.read (k.position (s.tpr.cursor / 4096 + 1))).value i).toNat (s.tpr.cursor % 4096))) ∧
    (s.tpr.activity.plays = false → s.takeValue i = ((s.ts.store.read (k.position 0)).value i).toNat))

/-- At a frame tick of the open states an entry is active when its slot is UNKNOWN or its value lies in the source range, and
the effective range of a channel is its soft range narrowed by the active entries for it, and by nothing else (R130).  An empty
range raises CROSS with 16 plus the lowest such channel, in every state in which own causes are raised (R131); in ARMING and
ARMED the lowest entry that has become active with the frame and that its channel stands outside of, or cannot stop within,
raises CROSS with its index (R132).  Both are filtered as R80 states. -/
def Obligations.EffectiveRangesOfTheFrame : Prop :=
  (∀ (l : LineLevels) (order : List TickWork) (s : State), s.ft.running = true → s.ss.safety.isOpen = true →
    s.cl.restartPending = false → s.ru.parkPending = false → s.cfg.nChans ≤ 4 →
    ∃ t, exec (.flywheelTick l order) s = .next t ∧
      t.iu.active = s.cfg.cross.map (fun e => match (t.ru.slots.getD e.slot WatchSlot.reset).value with
        | none => true
        | some u => decide (e.srcLow ≤ u) && decide (u ≤ e.srcHigh)) ∧
      ∀ i < s.cfg.nChans,
        (s.cfg.chan.get i).lo ≤ (t.iu.ranges.get i).1 ∧ (t.iu.ranges.get i).2 ≤ (s.cfg.chan.get i).hi ∧
        (∀ e : CrossCfg, (e, true) ∈ s.cfg.cross.zip t.iu.active → e.channel = i →
          e.limLow ≤ (t.iu.ranges.get i).1 ∧ (t.iu.ranges.get i).2 ≤ e.limHigh) ∧
        ((t.iu.ranges.get i).1 = (s.cfg.chan.get i).lo ∨
          ∃ e : CrossCfg, (e, true) ∈ s.cfg.cross.zip t.iu.active ∧ e.channel = i ∧ (t.iu.ranges.get i).1 = e.limLow) ∧
        ((t.iu.ranges.get i).2 = (s.cfg.chan.get i).hi ∨
          ∃ e : CrossCfg, (e, true) ∈ s.cfg.cross.zip t.iu.active ∧ e.channel = i ∧ (t.iu.ranges.get i).2 = e.limHigh)) ∧
  (∀ s : State,
    (∀ i < s.cfg.nChans, (s.iu.ranges.get i).2 < (s.iu.ranges.get i).1 →
      (∀ k < i, (s.iu.ranges.get k).1 ≤ (s.iu.ranges.get k).2) →
      raiseConflict s = raiseFiltered .cross (16 + i) s ∧
      (findClaim s.ss.claims s.cfg.station .cross = none → raiseConflict s = raiseOwn .cross (16 + i) s)) ∧
    ((∀ i < s.cfg.nChans, (s.iu.ranges.get i).1 ≤ (s.iu.ranges.get i).2) → raiseConflict s = s)) ∧
  (∀ (before : List Bool) (s : State),
    (s.ss.safety.canStop = false → raiseCross before s = s) ∧
    (s.ss.safety.canStop = true →
      (∀ (i : Nat) (e : CrossCfg), s.cfg.cross[i]? = some e → s.iu.active[i]? = some true → before[i]? ≠ some true →
        CannotObey (s.cfg.chan.get e.channel).amax (s.chans.get e.channel) e →
        (∀ (k : Nat) (f : CrossCfg), k < i → s.cfg.cross[k]? = some f → s.iu.active[k]? = some true →
          before[k]? ≠ some true → ¬ CannotObey (s.cfg.chan.get f.channel).amax (s.chans.get f.channel) f) →
        raiseCross before s = raiseFiltered .cross i s) ∧
      ((∀ (k : Nat) (f : CrossCfg), s.cfg.cross[k]? = some f → s.iu.active[k]? = some true → before[k]? ≠ some true →
        ¬ CannotObey (s.cfg.chan.get f.channel).amax (s.chans.get f.channel) f) → raiseCross before s = s)))

/-! ### Invariants -/

/-- The claims list never holds two entries with the same origin and cause, is kept in order, and never has more than 32
entries (R93). -/
def Obligations.ClaimsStayOrdered : Prop := ∀ s t : State, ClaimsOrdered s → step s = .next t → ClaimsOrdered t

/-- The transmit queues keep to their 16 entries, hold no key twice, and a successor has its entry's key (R10 to R13). -/
def Obligations.QueuesStaySound : Prop := ∀ s t : State, QueuesSound s → step s = .next t → QueuesSound t

/-- A channel's brake output is released only while that channel's drive-enable output is on (R88); a channel is in OFF
whenever its drive-enable output is off (R55); drive-enable outputs are on only in ARMING, ARMED, STOPPING and SECURING
(R104). -/
def Obligations.DrivesAndBrakesStaySafe : Prop :=
  (∀ s t : State, BrakesSafe s → step s = .next t → BrakesSafe t) ∧
  (∀ s t : State, OffWithoutDrive s → step s = .next t → OffWithoutDrive t) ∧
  (∀ s t : State, DrivesGated s → step s = .next t → DrivesGated t)

/-- The activity is other than IDLE only in ARMED (R104, R153). -/
def Obligations.ActivityStaysGated : Prop := ∀ s t : State, ActivityGated s → step s = .next t → ActivityGated t

/-- No two takes have one ID or share a store position, and a stream take's samples held never exceed its ring (R135, R146);
the sample store keeps its canonical form. -/
def Obligations.TakeStoreStaysSound : Prop :=
  (∀ s t : State, DirectorySound s → step s = .next t → DirectorySound t) ∧
  (∀ s t : State, StoreWf s → step s = .next t → StoreWf t)

/-- The values of the Pace Unit stay in their ranges, with one entry for an origin and at most 32 of them (R122). -/
def Obligations.PaceStaysSound : Prop := ∀ s t : State, PaceSound s → step s = .next t → PaceSound t

/-- The roster holds at most 24 stations, each at most once, never the node's own number (R33, R34). -/
def Obligations.RosterStaysSound : Prop := ∀ s t : State, RosterSound s → step s = .next t → RosterSound t

/-- Every invariant holds at RESET. -/
def Obligations.InvariantsHoldAtReset : Prop :=
  StoreWf State.reset ∧ ClaimsOrdered State.reset ∧ QueuesSound State.reset ∧ BrakesSafe State.reset ∧
    OffWithoutDrive State.reset ∧ DrivesGated State.reset ∧ ActivityGated State.reset ∧ DirectorySound State.reset ∧
    PaceSound State.reset ∧ RosterSound State.reset

end Statements
end

