-- ==== Sys2Proof/Laws/State.lean ====
section
/-! SUPPORT. The fields of the state after each plain update, and what a loop over states leaves as it is. -/

namespace Sys2Proof.Machine

open Sys2Proof


/-! ### The plain updates -/

@[simp] theorem withPending_eq (s : State) (q : List Instr) :
    (s.withPending q).lif = s.lif ∧ (s.withPending q).ft = s.ft ∧ (s.withPending q).ru = s.ru ∧
      (s.withPending q).chans = s.chans ∧ (s.withPending q).spl = s.spl ∧ (s.withPending q).dlu = s.dlu ∧
      (s.withPending q).ss = s.ss ∧ (s.withPending q).pu = s.pu ∧ (s.withPending q).iu = s.iu ∧
      (s.withPending q).zu = s.zu ∧ (s.withPending q).ts = s.ts ∧ (s.withPending q).tpr = s.tpr ∧
      (s.withPending q).attention = s.attention ∧ (s.withPending q).cl = s.cl ∧ (s.withPending q).cfg = s.cfg ∧
      (s.withPending q).pins = s.pins ∧ (s.withPending q).pending = q :=
  ⟨rfl, rfl, rfl, rfl, rfl, rfl, rfl, rfl, rfl, rfl, rfl, rfl, rfl, rfl, rfl, rfl, rfl⟩

@[simp] theorem raise_attention (a : Attention) (s : State) : (raise a s).attention = attentionRaise s.attention a := rfl

@[simp] theorem modChan_chans (i : Nat) (f : Chan → Chan) (s : State) :
    (modChan i f s).chans = s.chans.set i (f (s.chans.get i)) := rfl

@[simp] theorem modReading_spl (i : Nat) (f : Reading → Reading) (s : State) :
    (modReading i f s).spl = { s.spl with readings := s.spl.readings.set i (f (s.spl.readings.get i)) } := rfl

@[simp] theorem modLine_dlu (i : Nat) (f : DriveLine → DriveLine) (s : State) :
    (modLine i f s).dlu = { s.dlu with lines := s.dlu.lines.set i (f (s.dlu.lines.get i)) } := rfl

@[simp] theorem modTake_ts (id : Nat) (f : Take → Take) (s : State) :
    (modTake id f s).ts = { s.ts with dir := s.ts.dir.map fun e => e.map fun t => if t.id = id then f t else t } := rfl

@[simp] theorem modLive_tpr (i : Nat) (f : LiveChan → LiveChan) (s : State) :
    (modLive i f s).tpr = { s.tpr with live := s.tpr.live.set i (f (s.tpr.live.get i)) } := rfl

@[simp] theorem easeFor_pu (f : FrameNo) (b : Bool) (s : State) :
    (easeFor f b s).pu = { s.pu with easePend := setPend s.pu.easePend f b } := rfl

/-! ### The record of four -/

/-- Reading a channel after a write of a channel the record has. -/
theorem quad_get_set {α : Type} (q : Quad α) (i j : Nat) (a : α) (hi : i < 4) (hj : j < 4) :
    (q.set i a).get j = if j = i then a else q.get j := by
  rcases i with _ | _ | _ | _ | i <;> rcases j with _ | _ | _ | _ | j <;> first | rfl | omega

/-- A write of a channel leaves every value that satisfies a property so, if the new one does. -/
theorem quad_set_all {α : Type} (p : α → Prop) (q : Quad α) (i : Nat) (a : α) (h : ∀ j, p (q.get j)) (ha : p a) (j : Nat) :
    p ((q.set i a).get j) := by
  have h0 := h 0; have h1 := h 1; have h2 := h 2; have h3 := h 3
  rcases i with _ | _ | _ | _ | i <;> rcases j with _ | _ | _ | j <;> simp_all [Quad.set, Quad.get]

@[simp] theorem quad_get_map {α β : Type} (f : α → β) (q : Quad α) (i : Nat) : (q.map f).get i = f (q.get i) := by
  rcases i with _ | _ | _ | i <;> rfl

@[simp] theorem quad_get_fill {α : Type} (a : α) (i : Nat) : (Quad.fill a).get i = a := by
  rcases i with _ | _ | _ | i <;> rfl

/-! ### Loops over states -/

@[simp] theorem foldl_snd_lif {α : Type} (f : Nat × State → α → Nat × State) (l : List α) (p : Nat × State)
    (h : ∀ p a, (f p a).2.lif = p.2.lif) : (l.foldl f p).2.lif = p.2.lif := by
  induction l generalizing p with
  | nil => rfl
  | cons a l ih => rw [List.foldl_cons, ih, h]

@[simp] theorem foldl_lif {α : Type} (f : State → α → State) (l : List α) (s : State)
    (h : ∀ s a, (f s a).lif = s.lif) : (l.foldl f s).lif = s.lif := by
  induction l generalizing s with
  | nil => rfl
  | cons a l ih => rw [List.foldl_cons, ih, h]

@[simp] theorem ite_lif (p : Prop) [Decidable p] (s t : State) :
    (if p then s else t).lif = if p then s.lif else t.lif := by split <;> rfl

@[simp] theorem foldl_snd_ft {α : Type} (f : Nat × State → α → Nat × State) (l : List α) (p : Nat × State)
    (h : ∀ p a, (f p a).2.ft = p.2.ft) : (l.foldl f p).2.ft = p.2.ft := by
  induction l generalizing p with
  | nil => rfl
  | cons a l ih => rw [List.foldl_cons, ih, h]

@[simp] theorem foldl_ft {α : Type} (f : State → α → State) (l : List α) (s : State)
    (h : ∀ s a, (f s a).ft = s.ft) : (l.foldl f s).ft = s.ft := by
  induction l generalizing s with
  | nil => rfl
  | cons a l ih => rw [List.foldl_cons, ih, h]

@[simp] theorem ite_ft (p : Prop) [Decidable p] (s t : State) :
    (if p then s else t).ft = if p then s.ft else t.ft := by split <;> rfl

@[simp] theorem foldl_snd_ru {α : Type} (f : Nat × State → α → Nat × State) (l : List α) (p : Nat × State)
    (h : ∀ p a, (f p a).2.ru = p.2.ru) : (l.foldl f p).2.ru = p.2.ru := by
  induction l generalizing p with
  | nil => rfl
  | cons a l ih => rw [List.foldl_cons, ih, h]

@[simp] theorem foldl_ru {α : Type} (f : State → α → State) (l : List α) (s : State)
    (h : ∀ s a, (f s a).ru = s.ru) : (l.foldl f s).ru = s.ru := by
  induction l generalizing s with
  | nil => rfl
  | cons a l ih => rw [List.foldl_cons, ih, h]

@[simp] theorem ite_ru (p : Prop) [Decidable p] (s t : State) :
    (if p then s else t).ru = if p then s.ru else t.ru := by split <;> rfl

@[simp] theorem foldl_snd_chans {α : Type} (f : Nat × State → α → Nat × State) (l : List α) (p : Nat × State)
    (h : ∀ p a, (f p a).2.chans = p.2.chans) : (l.foldl f p).2.chans = p.2.chans := by
  induction l generalizing p with
  | nil => rfl
  | cons a l ih => rw [List.foldl_cons, ih, h]

@[simp] theorem foldl_chans {α : Type} (f : State → α → State) (l : List α) (s : State)
    (h : ∀ s a, (f s a).chans = s.chans) : (l.foldl f s).chans = s.chans := by
  induction l generalizing s with
  | nil => rfl
  | cons a l ih => rw [List.foldl_cons, ih, h]

@[simp] theorem ite_chans (p : Prop) [Decidable p] (s t : State) :
    (if p then s else t).chans = if p then s.chans else t.chans := by split <;> rfl

@[simp] theorem foldl_snd_spl {α : Type} (f : Nat × State → α → Nat × State) (l : List α) (p : Nat × State)
    (h : ∀ p a, (f p a).2.spl = p.2.spl) : (l.foldl f p).2.spl = p.2.spl := by
  induction l generalizing p with
  | nil => rfl
  | cons a l ih => rw [List.foldl_cons, ih, h]

@[simp] theorem foldl_spl {α : Type} (f : State → α → State) (l : List α) (s : State)
    (h : ∀ s a, (f s a).spl = s.spl) : (l.foldl f s).spl = s.spl := by
  induction l generalizing s with
  | nil => rfl
  | cons a l ih => rw [List.foldl_cons, ih, h]

@[simp] theorem ite_spl (p : Prop) [Decidable p] (s t : State) :
    (if p then s else t).spl = if p then s.spl else t.spl := by split <;> rfl

@[simp] theorem foldl_snd_dlu {α : Type} (f : Nat × State → α → Nat × State) (l : List α) (p : Nat × State)
    (h : ∀ p a, (f p a).2.dlu = p.2.dlu) : (l.foldl f p).2.dlu = p.2.dlu := by
  induction l generalizing p with
  | nil => rfl
  | cons a l ih => rw [List.foldl_cons, ih, h]

@[simp] theorem foldl_dlu {α : Type} (f : State → α → State) (l : List α) (s : State)
    (h : ∀ s a, (f s a).dlu = s.dlu) : (l.foldl f s).dlu = s.dlu := by
  induction l generalizing s with
  | nil => rfl
  | cons a l ih => rw [List.foldl_cons, ih, h]

@[simp] theorem ite_dlu (p : Prop) [Decidable p] (s t : State) :
    (if p then s else t).dlu = if p then s.dlu else t.dlu := by split <;> rfl

@[simp] theorem foldl_snd_ss {α : Type} (f : Nat × State → α → Nat × State) (l : List α) (p : Nat × State)
    (h : ∀ p a, (f p a).2.ss = p.2.ss) : (l.foldl f p).2.ss = p.2.ss := by
  induction l generalizing p with
  | nil => rfl
  | cons a l ih => rw [List.foldl_cons, ih, h]

@[simp] theorem foldl_ss {α : Type} (f : State → α → State) (l : List α) (s : State)
    (h : ∀ s a, (f s a).ss = s.ss) : (l.foldl f s).ss = s.ss := by
  induction l generalizing s with
  | nil => rfl
  | cons a l ih => rw [List.foldl_cons, ih, h]

@[simp] theorem ite_ss (p : Prop) [Decidable p] (s t : State) :
    (if p then s else t).ss = if p then s.ss else t.ss := by split <;> rfl

@[simp] theorem foldl_snd_pu {α : Type} (f : Nat × State → α → Nat × State) (l : List α) (p : Nat × State)
    (h : ∀ p a, (f p a).2.pu = p.2.pu) : (l.foldl f p).2.pu = p.2.pu := by
  induction l generalizing p with
  | nil => rfl
  | cons a l ih => rw [List.foldl_cons, ih, h]

@[simp] theorem foldl_pu {α : Type} (f : State → α → State) (l : List α) (s : State)
    (h : ∀ s a, (f s a).pu = s.pu) : (l.foldl f s).pu = s.pu := by
  induction l generalizing s with
  | nil => rfl
  | cons a l ih => rw [List.foldl_cons, ih, h]

@[simp] theorem ite_pu (p : Prop) [Decidable p] (s t : State) :
    (if p then s else t).pu = if p then s.pu else t.pu := by split <;> rfl

@[simp] theorem foldl_snd_iu {α : Type} (f : Nat × State → α → Nat × State) (l : List α) (p : Nat × State)
    (h : ∀ p a, (f p a).2.iu = p.2.iu) : (l.foldl f p).2.iu = p.2.iu := by
  induction l generalizing p with
  | nil => rfl
  | cons a l ih => rw [List.foldl_cons, ih, h]

@[simp] theorem foldl_iu {α : Type} (f : State → α → State) (l : List α) (s : State)
    (h : ∀ s a, (f s a).iu = s.iu) : (l.foldl f s).iu = s.iu := by
  induction l generalizing s with
  | nil => rfl
  | cons a l ih => rw [List.foldl_cons, ih, h]

@[simp] theorem ite_iu (p : Prop) [Decidable p] (s t : State) :
    (if p then s else t).iu = if p then s.iu else t.iu := by split <;> rfl

@[simp] theorem foldl_snd_zu {α : Type} (f : Nat × State → α → Nat × State) (l : List α) (p : Nat × State)
    (h : ∀ p a, (f p a).2.zu = p.2.zu) : (l.foldl f p).2.zu = p.2.zu := by
  induction l generalizing p with
  | nil => rfl
  | cons a l ih => rw [List.foldl_cons, ih, h]

@[simp] theorem foldl_zu {α : Type} (f : State → α → State) (l : List α) (s : State)
    (h : ∀ s a, (f s a).zu = s.zu) : (l.foldl f s).zu = s.zu := by
  induction l generalizing s with
  | nil => rfl
  | cons a l ih => rw [List.foldl_cons, ih, h]

@[simp] theorem ite_zu (p : Prop) [Decidable p] (s t : State) :
    (if p then s else t).zu = if p then s.zu else t.zu := by split <;> rfl

@[simp] theorem foldl_snd_ts {α : Type} (f : Nat × State → α → Nat × State) (l : List α) (p : Nat × State)
    (h : ∀ p a, (f p a).2.ts = p.2.ts) : (l.foldl f p).2.ts = p.2.ts := by
  induction l generalizing p with
  | nil => rfl
  | cons a l ih => rw [List.foldl_cons, ih, h]

@[simp] theorem foldl_ts {α : Type} (f : State → α → State) (l : List α) (s : State)
    (h : ∀ s a, (f s a).ts = s.ts) : (l.foldl f s).ts = s.ts := by
  induction l generalizing s with
  | nil => rfl
  | cons a l ih => rw [List.foldl_cons, ih, h]

@[simp] theorem ite_ts (p : Prop) [Decidable p] (s t : State) :
    (if p then s else t).ts = if p then s.ts else t.ts := by split <;> rfl

@[simp] theorem foldl_snd_tpr {α : Type} (f : Nat × State → α → Nat × State) (l : List α) (p : Nat × State)
    (h : ∀ p a, (f p a).2.tpr = p.2.tpr) : (l.foldl f p).2.tpr = p.2.tpr := by
  induction l generalizing p with
  | nil => rfl
  | cons a l ih => rw [List.foldl_cons, ih, h]

@[simp] theorem foldl_tpr {α : Type} (f : State → α → State) (l : List α) (s : State)
    (h : ∀ s a, (f s a).tpr = s.tpr) : (l.foldl f s).tpr = s.tpr := by
  induction l generalizing s with
  | nil => rfl
  | cons a l ih => rw [List.foldl_cons, ih, h]

@[simp] theorem ite_tpr (p : Prop) [Decidable p] (s t : State) :
    (if p then s else t).tpr = if p then s.tpr else t.tpr := by split <;> rfl

@[simp] theorem foldl_snd_attention {α : Type} (f : Nat × State → α → Nat × State) (l : List α) (p : Nat × State)
    (h : ∀ p a, (f p a).2.attention = p.2.attention) : (l.foldl f p).2.attention = p.2.attention := by
  induction l generalizing p with
  | nil => rfl
  | cons a l ih => rw [List.foldl_cons, ih, h]

@[simp] theorem foldl_attention {α : Type} (f : State → α → State) (l : List α) (s : State)
    (h : ∀ s a, (f s a).attention = s.attention) : (l.foldl f s).attention = s.attention := by
  induction l generalizing s with
  | nil => rfl
  | cons a l ih => rw [List.foldl_cons, ih, h]

@[simp] theorem ite_attention (p : Prop) [Decidable p] (s t : State) :
    (if p then s else t).attention = if p then s.attention else t.attention := by split <;> rfl

@[simp] theorem foldl_snd_cl {α : Type} (f : Nat × State → α → Nat × State) (l : List α) (p : Nat × State)
    (h : ∀ p a, (f p a).2.cl = p.2.cl) : (l.foldl f p).2.cl = p.2.cl := by
  induction l generalizing p with
  | nil => rfl
  | cons a l ih => rw [List.foldl_cons, ih, h]

@[simp] theorem foldl_cl {α : Type} (f : State → α → State) (l : List α) (s : State)
    (h : ∀ s a, (f s a).cl = s.cl) : (l.foldl f s).cl = s.cl := by
  induction l generalizing s with
  | nil => rfl
  | cons a l ih => rw [List.foldl_cons, ih, h]

@[simp] theorem ite_cl (p : Prop) [Decidable p] (s t : State) :
    (if p then s else t).cl = if p then s.cl else t.cl := by split <;> rfl

@[simp] theorem foldl_snd_cfg {α : Type} (f : Nat × State → α → Nat × State) (l : List α) (p : Nat × State)
    (h : ∀ p a, (f p a).2.cfg = p.2.cfg) : (l.foldl f p).2.cfg = p.2.cfg := by
  induction l generalizing p with
  | nil => rfl
  | cons a l ih => rw [List.foldl_cons, ih, h]

@[simp] theorem foldl_cfg {α : Type} (f : State → α → State) (l : List α) (s : State)
    (h : ∀ s a, (f s a).cfg = s.cfg) : (l.foldl f s).cfg = s.cfg := by
  induction l generalizing s with
  | nil => rfl
  | cons a l ih => rw [List.foldl_cons, ih, h]

@[simp] theorem ite_cfg (p : Prop) [Decidable p] (s t : State) :
    (if p then s else t).cfg = if p then s.cfg else t.cfg := by split <;> rfl

@[simp] theorem foldl_snd_pins {α : Type} (f : Nat × State → α → Nat × State) (l : List α) (p : Nat × State)
    (h : ∀ p a, (f p a).2.pins = p.2.pins) : (l.foldl f p).2.pins = p.2.pins := by
  induction l generalizing p with
  | nil => rfl
  | cons a l ih => rw [List.foldl_cons, ih, h]

@[simp] theorem foldl_pins {α : Type} (f : State → α → State) (l : List α) (s : State)
    (h : ∀ s a, (f s a).pins = s.pins) : (l.foldl f s).pins = s.pins := by
  induction l generalizing s with
  | nil => rfl
  | cons a l ih => rw [List.foldl_cons, ih, h]

@[simp] theorem ite_pins (p : Prop) [Decidable p] (s t : State) :
    (if p then s else t).pins = if p then s.pins else t.pins := by split <;> rfl

@[simp] theorem foldl_snd_pending {α : Type} (f : Nat × State → α → Nat × State) (l : List α) (p : Nat × State)
    (h : ∀ p a, (f p a).2.pending = p.2.pending) : (l.foldl f p).2.pending = p.2.pending := by
  induction l generalizing p with
  | nil => rfl
  | cons a l ih => rw [List.foldl_cons, ih, h]

@[simp] theorem foldl_pending {α : Type} (f : State → α → State) (l : List α) (s : State)
    (h : ∀ s a, (f s a).pending = s.pending) : (l.foldl f s).pending = s.pending := by
  induction l generalizing s with
  | nil => rfl
  | cons a l ih => rw [List.foldl_cons, ih, h]

@[simp] theorem ite_pending (p : Prop) [Decidable p] (s t : State) :
    (if p then s else t).pending = if p then s.pending else t.pending := by split <;> rfl

end Sys2Proof.Machine
end

