-- ==== Sys2Proof/Laws/Frames.lean ====
section
/-! SUPPORT. Which blocks of the state each operation leaves as they are. -/

namespace Sys2Proof.Machine

open Sys2Proof

set_option linter.unusedTactic false
set_option linter.unnecessarySeqFocus false
set_option linter.unreachableTactic false
set_option linter.unusedSimpArgs false

@[simp] theorem raise_frame (a : Attention) (s : State) :
    (raise a s).lif = s.lif ∧ (raise a s).ft = s.ft ∧ (raise a s).ru = s.ru ∧ (raise a s).chans = s.chans ∧
    (raise a s).spl = s.spl ∧ (raise a s).dlu = s.dlu ∧ (raise a s).ss = s.ss ∧ (raise a s).pu = s.pu ∧ (raise a
    s).iu = s.iu ∧ (raise a s).zu = s.zu ∧ (raise a s).ts = s.ts ∧ (raise a s).tpr = s.tpr ∧ (raise a s).cl =
    s.cl ∧ (raise a s).cfg = s.cfg ∧ (raise a s).pins = s.pins ∧ (raise a s).pending = s.pending := by
  unfold raise
  (try dsimp only)
  all_goals ((repeat' split) <;> simp)

@[simp] theorem txDrop_frame (s : State) :
    (txDrop s).ft = s.ft ∧ (txDrop s).ru = s.ru ∧ (txDrop s).chans = s.chans ∧ (txDrop s).spl = s.spl ∧ (txDrop
    s).dlu = s.dlu ∧ (txDrop s).ss = s.ss ∧ (txDrop s).pu = s.pu ∧ (txDrop s).iu = s.iu ∧ (txDrop s).zu = s.zu ∧
    (txDrop s).ts = s.ts ∧ (txDrop s).tpr = s.tpr ∧ (txDrop s).cl = s.cl ∧ (txDrop s).cfg = s.cfg ∧ (txDrop
    s).pins = s.pins ∧ (txDrop s).pending = s.pending := by
  unfold txDrop
  (try dsimp only)
  all_goals ((repeat' split) <;> simp)

@[simp] theorem place_frame (m : Msg) (s : State) :
    (place m s).ft = s.ft ∧ (place m s).ru = s.ru ∧ (place m s).chans = s.chans ∧ (place m s).spl = s.spl ∧
    (place m s).dlu = s.dlu ∧ (place m s).ss = s.ss ∧ (place m s).pu = s.pu ∧ (place m s).iu = s.iu ∧ (place m
    s).zu = s.zu ∧ (place m s).ts = s.ts ∧ (place m s).tpr = s.tpr ∧ (place m s).cl = s.cl ∧ (place m s).cfg =
    s.cfg ∧ (place m s).pins = s.pins ∧ (place m s).pending = s.pending := by
  unfold place
  (try dsimp only)
  all_goals ((repeat' split) <;> simp)

@[simp] theorem broadcast_frame (b : Body) (s : State) :
    (broadcast b s).ft = s.ft ∧ (broadcast b s).ru = s.ru ∧ (broadcast b s).chans = s.chans ∧ (broadcast b
    s).spl = s.spl ∧ (broadcast b s).dlu = s.dlu ∧ (broadcast b s).ss = s.ss ∧ (broadcast b s).pu = s.pu ∧
    (broadcast b s).iu = s.iu ∧ (broadcast b s).zu = s.zu ∧ (broadcast b s).ts = s.ts ∧ (broadcast b s).tpr =
    s.tpr ∧ (broadcast b s).cl = s.cl ∧ (broadcast b s).cfg = s.cfg ∧ (broadcast b s).pins = s.pins ∧ (broadcast
    b s).pending = s.pending := by
  unfold broadcast
  (try dsimp only)
  all_goals ((repeat' split) <;> simp)

@[simp] theorem reply_frame (who : Slot) (code : Nat) (status : Status) (data : ReplyData) (s : State) :
    (reply who code status data s).ft = s.ft ∧ (reply who code status data s).ru = s.ru ∧ (reply who code status
    data s).chans = s.chans ∧ (reply who code status data s).spl = s.spl ∧ (reply who code status data s).dlu =
    s.dlu ∧ (reply who code status data s).ss = s.ss ∧ (reply who code status data s).pu = s.pu ∧ (reply who
    code status data s).iu = s.iu ∧ (reply who code status data s).zu = s.zu ∧ (reply who code status data s).ts
    = s.ts ∧ (reply who code status data s).tpr = s.tpr ∧ (reply who code status data s).cl = s.cl ∧ (reply who
    code status data s).cfg = s.cfg ∧ (reply who code status data s).pins = s.pins ∧ (reply who code status data
    s).pending = s.pending := by
  unfold reply
  (try dsimp only)
  all_goals ((repeat' split) <;> simp)

@[simp] theorem recomposeRoll_frame (s : State) :
    (recomposeRoll s).ft = s.ft ∧ (recomposeRoll s).ru = s.ru ∧ (recomposeRoll s).chans = s.chans ∧
    (recomposeRoll s).spl = s.spl ∧ (recomposeRoll s).dlu = s.dlu ∧ (recomposeRoll s).ss = s.ss ∧ (recomposeRoll
    s).pu = s.pu ∧ (recomposeRoll s).iu = s.iu ∧ (recomposeRoll s).zu = s.zu ∧ (recomposeRoll s).ts = s.ts ∧
    (recomposeRoll s).tpr = s.tpr ∧ (recomposeRoll s).cl = s.cl ∧ (recomposeRoll s).cfg = s.cfg ∧ (recomposeRoll
    s).pins = s.pins ∧ (recomposeRoll s).pending = s.pending := by
  unfold recomposeRoll
  (try dsimp only)
  all_goals ((repeat' split) <;> simp)

@[simp] theorem modChan_frame (i : Nat) (f : Chan → Chan) (s : State) :
    (modChan i f s).lif = s.lif ∧ (modChan i f s).ft = s.ft ∧ (modChan i f s).ru = s.ru ∧ (modChan i f s).spl =
    s.spl ∧ (modChan i f s).dlu = s.dlu ∧ (modChan i f s).ss = s.ss ∧ (modChan i f s).pu = s.pu ∧ (modChan i f
    s).iu = s.iu ∧ (modChan i f s).zu = s.zu ∧ (modChan i f s).ts = s.ts ∧ (modChan i f s).tpr = s.tpr ∧
    (modChan i f s).attention = s.attention ∧ (modChan i f s).cl = s.cl ∧ (modChan i f s).cfg = s.cfg ∧ (modChan
    i f s).pins = s.pins ∧ (modChan i f s).pending = s.pending := by
  unfold modChan
  (try dsimp only)
  all_goals ((repeat' split) <;> simp)

@[simp] theorem modReading_frame (i : Nat) (f : Reading → Reading) (s : State) :
    (modReading i f s).lif = s.lif ∧ (modReading i f s).ft = s.ft ∧ (modReading i f s).ru = s.ru ∧ (modReading i
    f s).chans = s.chans ∧ (modReading i f s).dlu = s.dlu ∧ (modReading i f s).ss = s.ss ∧ (modReading i f s).pu
    = s.pu ∧ (modReading i f s).iu = s.iu ∧ (modReading i f s).zu = s.zu ∧ (modReading i f s).ts = s.ts ∧
    (modReading i f s).tpr = s.tpr ∧ (modReading i f s).attention = s.attention ∧ (modReading i f s).cl = s.cl ∧
    (modReading i f s).cfg = s.cfg ∧ (modReading i f s).pins = s.pins ∧ (modReading i f s).pending = s.pending := by
  unfold modReading
  (try dsimp only)
  all_goals ((repeat' split) <;> simp)

@[simp] theorem modLine_frame (i : Nat) (f : DriveLine → DriveLine) (s : State) :
    (modLine i f s).lif = s.lif ∧ (modLine i f s).ft = s.ft ∧ (modLine i f s).ru = s.ru ∧ (modLine i f s).chans
    = s.chans ∧ (modLine i f s).spl = s.spl ∧ (modLine i f s).ss = s.ss ∧ (modLine i f s).pu = s.pu ∧ (modLine i
    f s).iu = s.iu ∧ (modLine i f s).zu = s.zu ∧ (modLine i f s).ts = s.ts ∧ (modLine i f s).tpr = s.tpr ∧
    (modLine i f s).attention = s.attention ∧ (modLine i f s).cl = s.cl ∧ (modLine i f s).cfg = s.cfg ∧ (modLine
    i f s).pins = s.pins ∧ (modLine i f s).pending = s.pending := by
  unfold modLine
  (try dsimp only)
  all_goals ((repeat' split) <;> simp)

@[simp] theorem requestMode_frame (m : Mode) (i : Nat) (s : State) :
    (requestMode m i s).lif = s.lif ∧ (requestMode m i s).ft = s.ft ∧ (requestMode m i s).ru = s.ru ∧
    (requestMode m i s).spl = s.spl ∧ (requestMode m i s).dlu = s.dlu ∧ (requestMode m i s).ss = s.ss ∧
    (requestMode m i s).pu = s.pu ∧ (requestMode m i s).iu = s.iu ∧ (requestMode m i s).zu = s.zu ∧ (requestMode
    m i s).ts = s.ts ∧ (requestMode m i s).tpr = s.tpr ∧ (requestMode m i s).attention = s.attention ∧
    (requestMode m i s).cl = s.cl ∧ (requestMode m i s).cfg = s.cfg ∧ (requestMode m i s).pins = s.pins ∧
    (requestMode m i s).pending = s.pending := by
  unfold requestMode
  (try dsimp only)
  all_goals ((repeat' split) <;> simp)

@[simp] theorem requestByPlayer_frame (m : Mode) (i : Nat) (s : State) :
    (requestByPlayer m i s).lif = s.lif ∧ (requestByPlayer m i s).ft = s.ft ∧ (requestByPlayer m i s).ru = s.ru
    ∧ (requestByPlayer m i s).spl = s.spl ∧ (requestByPlayer m i s).dlu = s.dlu ∧ (requestByPlayer m i s).ss =
    s.ss ∧ (requestByPlayer m i s).pu = s.pu ∧ (requestByPlayer m i s).iu = s.iu ∧ (requestByPlayer m i s).zu =
    s.zu ∧ (requestByPlayer m i s).ts = s.ts ∧ (requestByPlayer m i s).tpr = s.tpr ∧ (requestByPlayer m i
    s).attention = s.attention ∧ (requestByPlayer m i s).cl = s.cl ∧ (requestByPlayer m i s).cfg = s.cfg ∧
    (requestByPlayer m i s).pins = s.pins ∧ (requestByPlayer m i s).pending = s.pending := by
  unfold requestByPlayer
  (try dsimp only)
  all_goals ((repeat' split) <;> simp)

@[simp] theorem requestEach_frame (m : Mode) (is : List Nat) (s : State) :
    (requestEach m is s).lif = s.lif ∧ (requestEach m is s).ft = s.ft ∧ (requestEach m is s).ru = s.ru ∧
    (requestEach m is s).spl = s.spl ∧ (requestEach m is s).dlu = s.dlu ∧ (requestEach m is s).ss = s.ss ∧
    (requestEach m is s).pu = s.pu ∧ (requestEach m is s).iu = s.iu ∧ (requestEach m is s).zu = s.zu ∧
    (requestEach m is s).ts = s.ts ∧ (requestEach m is s).tpr = s.tpr ∧ (requestEach m is s).attention =
    s.attention ∧ (requestEach m is s).cl = s.cl ∧ (requestEach m is s).cfg = s.cfg ∧ (requestEach m is s).pins
    = s.pins ∧ (requestEach m is s).pending = s.pending := by
  unfold requestEach
  (try dsimp only)
  all_goals ((repeat' split) <;> simp)

@[simp] theorem enterOff_frame (i : Nat) (s : State) :
    (enterOff i s).lif = s.lif ∧ (enterOff i s).ft = s.ft ∧ (enterOff i s).ru = s.ru ∧ (enterOff i s).dlu =
    s.dlu ∧ (enterOff i s).ss = s.ss ∧ (enterOff i s).pu = s.pu ∧ (enterOff i s).iu = s.iu ∧ (enterOff i s).zu =
    s.zu ∧ (enterOff i s).ts = s.ts ∧ (enterOff i s).tpr = s.tpr ∧ (enterOff i s).attention = s.attention ∧
    (enterOff i s).cl = s.cl ∧ (enterOff i s).cfg = s.cfg ∧ (enterOff i s).pins = s.pins ∧ (enterOff i
    s).pending = s.pending := by
  unfold enterOff
  (try dsimp only)
  all_goals ((repeat' split) <;> simp)

@[simp] theorem driveOff_frame (i : Nat) (s : State) :
    (driveOff i s).lif = s.lif ∧ (driveOff i s).ft = s.ft ∧ (driveOff i s).ru = s.ru ∧ (driveOff i s).ss = s.ss
    ∧ (driveOff i s).pu = s.pu ∧ (driveOff i s).iu = s.iu ∧ (driveOff i s).zu = s.zu ∧ (driveOff i s).ts = s.ts
    ∧ (driveOff i s).tpr = s.tpr ∧ (driveOff i s).attention = s.attention ∧ (driveOff i s).cl = s.cl ∧ (driveOff
    i s).cfg = s.cfg ∧ (driveOff i s).pins = s.pins ∧ (driveOff i s).pending = s.pending := by
  unfold driveOff
  (try dsimp only)
  all_goals ((repeat' split) <;> simp)

@[simp] theorem allDrivesOff_frame (s : State) :
    (allDrivesOff s).lif = s.lif ∧ (allDrivesOff s).ft = s.ft ∧ (allDrivesOff s).ru = s.ru ∧ (allDrivesOff s).ss
    = s.ss ∧ (allDrivesOff s).pu = s.pu ∧ (allDrivesOff s).iu = s.iu ∧ (allDrivesOff s).zu = s.zu ∧
    (allDrivesOff s).ts = s.ts ∧ (allDrivesOff s).tpr = s.tpr ∧ (allDrivesOff s).attention = s.attention ∧
    (allDrivesOff s).cl = s.cl ∧ (allDrivesOff s).cfg = s.cfg ∧ (allDrivesOff s).pins = s.pins ∧ (allDrivesOff
    s).pending = s.pending := by
  unfold allDrivesOff
  (try dsimp only)
  all_goals ((repeat' split) <;> simp)

@[simp] theorem releaseBrake_frame (i : Nat) (s : State) :
    (releaseBrake i s).lif = s.lif ∧ (releaseBrake i s).ft = s.ft ∧ (releaseBrake i s).ru = s.ru ∧ (releaseBrake
    i s).chans = s.chans ∧ (releaseBrake i s).spl = s.spl ∧ (releaseBrake i s).ss = s.ss ∧ (releaseBrake i s).pu
    = s.pu ∧ (releaseBrake i s).iu = s.iu ∧ (releaseBrake i s).zu = s.zu ∧ (releaseBrake i s).ts = s.ts ∧
    (releaseBrake i s).tpr = s.tpr ∧ (releaseBrake i s).attention = s.attention ∧ (releaseBrake i s).cl = s.cl ∧
    (releaseBrake i s).cfg = s.cfg ∧ (releaseBrake i s).pins = s.pins ∧ (releaseBrake i s).pending = s.pending := by
  unfold releaseBrake
  (try dsimp only)
  all_goals ((repeat' split) <;> simp)

@[simp] theorem releaseBrakes_frame (s : State) :
    (releaseBrakes s).lif = s.lif ∧ (releaseBrakes s).ft = s.ft ∧ (releaseBrakes s).ru = s.ru ∧ (releaseBrakes
    s).chans = s.chans ∧ (releaseBrakes s).spl = s.spl ∧ (releaseBrakes s).ss = s.ss ∧ (releaseBrakes s).pu =
    s.pu ∧ (releaseBrakes s).iu = s.iu ∧ (releaseBrakes s).zu = s.zu ∧ (releaseBrakes s).ts = s.ts ∧
    (releaseBrakes s).tpr = s.tpr ∧ (releaseBrakes s).attention = s.attention ∧ (releaseBrakes s).cl = s.cl ∧
    (releaseBrakes s).cfg = s.cfg ∧ (releaseBrakes s).pins = s.pins ∧ (releaseBrakes s).pending = s.pending := by
  unfold releaseBrakes
  (try dsimp only)
  all_goals ((repeat' split) <;> simp)

@[simp] theorem setBrakes_frame (s : State) :
    (setBrakes s).lif = s.lif ∧ (setBrakes s).ft = s.ft ∧ (setBrakes s).ru = s.ru ∧ (setBrakes s).chans =
    s.chans ∧ (setBrakes s).spl = s.spl ∧ (setBrakes s).ss = s.ss ∧ (setBrakes s).pu = s.pu ∧ (setBrakes s).iu =
    s.iu ∧ (setBrakes s).zu = s.zu ∧ (setBrakes s).ts = s.ts ∧ (setBrakes s).tpr = s.tpr ∧ (setBrakes
    s).attention = s.attention ∧ (setBrakes s).cl = s.cl ∧ (setBrakes s).cfg = s.cfg ∧ (setBrakes s).pins =
    s.pins ∧ (setBrakes s).pending = s.pending := by
  unfold setBrakes
  (try dsimp only)
  all_goals ((repeat' split) <;> simp)

@[simp] theorem seed_frame (i : Nat) (s : State) :
    (seed i s).lif = s.lif ∧ (seed i s).ft = s.ft ∧ (seed i s).ru = s.ru ∧ (seed i s).dlu = s.dlu ∧ (seed i
    s).ss = s.ss ∧ (seed i s).pu = s.pu ∧ (seed i s).iu = s.iu ∧ (seed i s).zu = s.zu ∧ (seed i s).ts = s.ts ∧
    (seed i s).tpr = s.tpr ∧ (seed i s).attention = s.attention ∧ (seed i s).cl = s.cl ∧ (seed i s).cfg = s.cfg
    ∧ (seed i s).pins = s.pins ∧ (seed i s).pending = s.pending := by
  unfold seed
  (try dsimp only)
  all_goals ((repeat' split) <;> simp)

@[simp] theorem enableAndSeed_frame (i : Nat) (s : State) :
    (enableAndSeed i s).lif = s.lif ∧ (enableAndSeed i s).ft = s.ft ∧ (enableAndSeed i s).ru = s.ru ∧
    (enableAndSeed i s).ss = s.ss ∧ (enableAndSeed i s).pu = s.pu ∧ (enableAndSeed i s).iu = s.iu ∧
    (enableAndSeed i s).zu = s.zu ∧ (enableAndSeed i s).ts = s.ts ∧ (enableAndSeed i s).tpr = s.tpr ∧
    (enableAndSeed i s).attention = s.attention ∧ (enableAndSeed i s).cl = s.cl ∧ (enableAndSeed i s).cfg =
    s.cfg ∧ (enableAndSeed i s).pins = s.pins ∧ (enableAndSeed i s).pending = s.pending := by
  unfold enableAndSeed
  (try dsimp only)
  all_goals ((repeat' split) <;> simp)

@[simp] theorem enableAll_frame (s : State) :
    (enableAll s).lif = s.lif ∧ (enableAll s).ft = s.ft ∧ (enableAll s).ru = s.ru ∧ (enableAll s).ss = s.ss ∧
    (enableAll s).pu = s.pu ∧ (enableAll s).iu = s.iu ∧ (enableAll s).zu = s.zu ∧ (enableAll s).ts = s.ts ∧
    (enableAll s).tpr = s.tpr ∧ (enableAll s).attention = s.attention ∧ (enableAll s).cl = s.cl ∧ (enableAll
    s).cfg = s.cfg ∧ (enableAll s).pins = s.pins ∧ (enableAll s).pending = s.pending := by
  unfold enableAll
  (try dsimp only)
  all_goals ((repeat' split) <;> simp)

@[simp] theorem stopAll_frame (s : State) :
    (stopAll s).lif = s.lif ∧ (stopAll s).ft = s.ft ∧ (stopAll s).ru = s.ru ∧ (stopAll s).spl = s.spl ∧ (stopAll
    s).dlu = s.dlu ∧ (stopAll s).ss = s.ss ∧ (stopAll s).pu = s.pu ∧ (stopAll s).iu = s.iu ∧ (stopAll s).zu =
    s.zu ∧ (stopAll s).ts = s.ts ∧ (stopAll s).tpr = s.tpr ∧ (stopAll s).attention = s.attention ∧ (stopAll
    s).cl = s.cl ∧ (stopAll s).cfg = s.cfg ∧ (stopAll s).pins = s.pins ∧ (stopAll s).pending = s.pending := by
  unfold stopAll
  (try dsimp only)
  all_goals ((repeat' split) <;> simp)

@[simp] theorem modTake_frame (id : Nat) (f : Take → Take) (s : State) :
    (modTake id f s).lif = s.lif ∧ (modTake id f s).ft = s.ft ∧ (modTake id f s).ru = s.ru ∧ (modTake id f
    s).chans = s.chans ∧ (modTake id f s).spl = s.spl ∧ (modTake id f s).dlu = s.dlu ∧ (modTake id f s).ss =
    s.ss ∧ (modTake id f s).pu = s.pu ∧ (modTake id f s).iu = s.iu ∧ (modTake id f s).zu = s.zu ∧ (modTake id f
    s).tpr = s.tpr ∧ (modTake id f s).attention = s.attention ∧ (modTake id f s).cl = s.cl ∧ (modTake id f
    s).cfg = s.cfg ∧ (modTake id f s).pins = s.pins ∧ (modTake id f s).pending = s.pending := by
  unfold modTake
  (try dsimp only)
  all_goals ((repeat' split) <;> simp)

@[simp] theorem latchRange_frame (id : Nat) (n : Nat) (s : State) :
    (latchRange id n s).lif = s.lif ∧ (latchRange id n s).ft = s.ft ∧ (latchRange id n s).ru = s.ru ∧
    (latchRange id n s).chans = s.chans ∧ (latchRange id n s).spl = s.spl ∧ (latchRange id n s).dlu = s.dlu ∧
    (latchRange id n s).ss = s.ss ∧ (latchRange id n s).pu = s.pu ∧ (latchRange id n s).iu = s.iu ∧ (latchRange
    id n s).zu = s.zu ∧ (latchRange id n s).tpr = s.tpr ∧ (latchRange id n s).cl = s.cl ∧ (latchRange id n
    s).cfg = s.cfg ∧ (latchRange id n s).pins = s.pins ∧ (latchRange id n s).pending = s.pending := by
  unfold latchRange
  (try dsimp only)
  all_goals ((repeat' split) <;> simp)

@[simp] theorem storeRecord_frame (t : Take) (n : Nat) (written : ChanSet) (r : Sample) (s : State) :
    (storeRecord t n written r s).lif = s.lif ∧ (storeRecord t n written r s).ft = s.ft ∧ (storeRecord t n
    written r s).ru = s.ru ∧ (storeRecord t n written r s).chans = s.chans ∧ (storeRecord t n written r s).spl =
    s.spl ∧ (storeRecord t n written r s).dlu = s.dlu ∧ (storeRecord t n written r s).ss = s.ss ∧ (storeRecord t
    n written r s).pu = s.pu ∧ (storeRecord t n written r s).iu = s.iu ∧ (storeRecord t n written r s).zu = s.zu
    ∧ (storeRecord t n written r s).tpr = s.tpr ∧ (storeRecord t n written r s).cl = s.cl ∧ (storeRecord t n
    written r s).cfg = s.cfg ∧ (storeRecord t n written r s).pins = s.pins ∧ (storeRecord t n written r
    s).pending = s.pending := by
  unfold storeRecord
  (try dsimp only)
  all_goals ((repeat' split) <;> simp)

@[simp] theorem waterMark_frame (id : Nat) (s : State) :
    (waterMark id s).ft = s.ft ∧ (waterMark id s).ru = s.ru ∧ (waterMark id s).chans = s.chans ∧ (waterMark id
    s).spl = s.spl ∧ (waterMark id s).dlu = s.dlu ∧ (waterMark id s).ss = s.ss ∧ (waterMark id s).pu = s.pu ∧
    (waterMark id s).iu = s.iu ∧ (waterMark id s).zu = s.zu ∧ (waterMark id s).tpr = s.tpr ∧ (waterMark id s).cl
    = s.cl ∧ (waterMark id s).cfg = s.cfg ∧ (waterMark id s).pins = s.pins ∧ (waterMark id s).pending =
    s.pending := by
  unfold waterMark
  (try dsimp only)
  all_goals ((repeat' split) <;> simp)

@[simp] theorem spendStream_frame (id : Nat) (s : State) :
    (spendStream id s).lif = s.lif ∧ (spendStream id s).ft = s.ft ∧ (spendStream id s).ru = s.ru ∧ (spendStream
    id s).chans = s.chans ∧ (spendStream id s).spl = s.spl ∧ (spendStream id s).dlu = s.dlu ∧ (spendStream id
    s).ss = s.ss ∧ (spendStream id s).pu = s.pu ∧ (spendStream id s).iu = s.iu ∧ (spendStream id s).zu = s.zu ∧
    (spendStream id s).tpr = s.tpr ∧ (spendStream id s).attention = s.attention ∧ (spendStream id s).cl = s.cl ∧
    (spendStream id s).cfg = s.cfg ∧ (spendStream id s).pins = s.pins ∧ (spendStream id s).pending = s.pending := by
  unfold spendStream
  (try dsimp only)
  all_goals ((repeat' split) <;> simp)

@[simp] theorem easeFor_frame (f : FrameNo) (b : Bool) (s : State) :
    (easeFor f b s).lif = s.lif ∧ (easeFor f b s).ft = s.ft ∧ (easeFor f b s).ru = s.ru ∧ (easeFor f b s).chans
    = s.chans ∧ (easeFor f b s).spl = s.spl ∧ (easeFor f b s).dlu = s.dlu ∧ (easeFor f b s).ss = s.ss ∧ (easeFor
    f b s).iu = s.iu ∧ (easeFor f b s).zu = s.zu ∧ (easeFor f b s).ts = s.ts ∧ (easeFor f b s).tpr = s.tpr ∧
    (easeFor f b s).attention = s.attention ∧ (easeFor f b s).cl = s.cl ∧ (easeFor f b s).cfg = s.cfg ∧ (easeFor
    f b s).pins = s.pins ∧ (easeFor f b s).pending = s.pending := by
  unfold easeFor
  (try dsimp only)
  all_goals ((repeat' split) <;> simp)

@[simp] theorem clearLive_frame (s : State) :
    (clearLive s).lif = s.lif ∧ (clearLive s).ft = s.ft ∧ (clearLive s).ru = s.ru ∧ (clearLive s).chans =
    s.chans ∧ (clearLive s).spl = s.spl ∧ (clearLive s).dlu = s.dlu ∧ (clearLive s).ss = s.ss ∧ (clearLive s).pu
    = s.pu ∧ (clearLive s).iu = s.iu ∧ (clearLive s).zu = s.zu ∧ (clearLive s).ts = s.ts ∧ (clearLive
    s).attention = s.attention ∧ (clearLive s).cl = s.cl ∧ (clearLive s).cfg = s.cfg ∧ (clearLive s).pins =
    s.pins ∧ (clearLive s).pending = s.pending := by
  unfold clearLive
  (try dsimp only)
  all_goals ((repeat' split) <;> simp)

@[simp] theorem clearPlay_frame (s : State) :
    (clearPlay s).lif = s.lif ∧ (clearPlay s).ft = s.ft ∧ (clearPlay s).ru = s.ru ∧ (clearPlay s).chans =
    s.chans ∧ (clearPlay s).spl = s.spl ∧ (clearPlay s).dlu = s.dlu ∧ (clearPlay s).ss = s.ss ∧ (clearPlay s).pu
    = s.pu ∧ (clearPlay s).iu = s.iu ∧ (clearPlay s).zu = s.zu ∧ (clearPlay s).ts = s.ts ∧ (clearPlay
    s).attention = s.attention ∧ (clearPlay s).cl = s.cl ∧ (clearPlay s).cfg = s.cfg ∧ (clearPlay s).pins =
    s.pins ∧ (clearPlay s).pending = s.pending := by
  unfold clearPlay
  (try dsimp only)
  all_goals ((repeat' split) <;> simp)

@[simp] theorem completeCue_frame (status : Status) (s : State) :
    (completeCue status s).ft = s.ft ∧ (completeCue status s).ru = s.ru ∧ (completeCue status s).chans = s.chans
    ∧ (completeCue status s).spl = s.spl ∧ (completeCue status s).dlu = s.dlu ∧ (completeCue status s).ss = s.ss
    ∧ (completeCue status s).pu = s.pu ∧ (completeCue status s).iu = s.iu ∧ (completeCue status s).zu = s.zu ∧
    (completeCue status s).ts = s.ts ∧ (completeCue status s).cl = s.cl ∧ (completeCue status s).cfg = s.cfg ∧
    (completeCue status s).pins = s.pins ∧ (completeCue status s).pending = s.pending := by
  unfold completeCue
  (try dsimp only)
  all_goals ((repeat' split) <;> simp)

@[simp] theorem spendPlayed_frame (s : State) :
    (spendPlayed s).lif = s.lif ∧ (spendPlayed s).ft = s.ft ∧ (spendPlayed s).ru = s.ru ∧ (spendPlayed s).chans
    = s.chans ∧ (spendPlayed s).spl = s.spl ∧ (spendPlayed s).dlu = s.dlu ∧ (spendPlayed s).ss = s.ss ∧
    (spendPlayed s).pu = s.pu ∧ (spendPlayed s).iu = s.iu ∧ (spendPlayed s).zu = s.zu ∧ (spendPlayed s).tpr =
    s.tpr ∧ (spendPlayed s).attention = s.attention ∧ (spendPlayed s).cl = s.cl ∧ (spendPlayed s).cfg = s.cfg ∧
    (spendPlayed s).pins = s.pins ∧ (spendPlayed s).pending = s.pending := by
  unfold spendPlayed
  (try dsimp only)
  all_goals ((repeat' split) <;> simp)

@[simp] theorem holdAll_frame (s : State) :
    (holdAll s).lif = s.lif ∧ (holdAll s).ft = s.ft ∧ (holdAll s).ru = s.ru ∧ (holdAll s).spl = s.spl ∧ (holdAll
    s).dlu = s.dlu ∧ (holdAll s).ss = s.ss ∧ (holdAll s).pu = s.pu ∧ (holdAll s).iu = s.iu ∧ (holdAll s).zu =
    s.zu ∧ (holdAll s).ts = s.ts ∧ (holdAll s).tpr = s.tpr ∧ (holdAll s).attention = s.attention ∧ (holdAll
    s).cl = s.cl ∧ (holdAll s).cfg = s.cfg ∧ (holdAll s).pins = s.pins ∧ (holdAll s).pending = s.pending := by
  unfold holdAll
  (try dsimp only)
  all_goals ((repeat' split) <;> simp)

@[simp] theorem passageToIdle_frame (status : Status) (s : State) :
    (passageToIdle status s).ft = s.ft ∧ (passageToIdle status s).ru = s.ru ∧ (passageToIdle status s).spl =
    s.spl ∧ (passageToIdle status s).dlu = s.dlu ∧ (passageToIdle status s).ss = s.ss ∧ (passageToIdle status
    s).iu = s.iu ∧ (passageToIdle status s).zu = s.zu ∧ (passageToIdle status s).cl = s.cl ∧ (passageToIdle
    status s).cfg = s.cfg ∧ (passageToIdle status s).pins = s.pins ∧ (passageToIdle status s).pending =
    s.pending := by
  unfold passageToIdle
  (try dsimp only)
  all_goals ((repeat' split) <;> simp)

@[simp] theorem endRecording_frame (s : State) :
    (endRecording s).lif = s.lif ∧ (endRecording s).ft = s.ft ∧ (endRecording s).ru = s.ru ∧ (endRecording
    s).chans = s.chans ∧ (endRecording s).spl = s.spl ∧ (endRecording s).dlu = s.dlu ∧ (endRecording s).ss =
    s.ss ∧ (endRecording s).pu = s.pu ∧ (endRecording s).iu = s.iu ∧ (endRecording s).zu = s.zu ∧ (endRecording
    s).tpr = s.tpr ∧ (endRecording s).attention = s.attention ∧ (endRecording s).cl = s.cl ∧ (endRecording
    s).cfg = s.cfg ∧ (endRecording s).pins = s.pins ∧ (endRecording s).pending = s.pending := by
  unfold endRecording
  (try dsimp only)
  all_goals ((repeat' split) <;> simp)

@[simp] theorem forceIdle_frame (s : State) :
    (forceIdle s).ft = s.ft ∧ (forceIdle s).ru = s.ru ∧ (forceIdle s).chans = s.chans ∧ (forceIdle s).spl =
    s.spl ∧ (forceIdle s).dlu = s.dlu ∧ (forceIdle s).ss = s.ss ∧ (forceIdle s).iu = s.iu ∧ (forceIdle s).zu =
    s.zu ∧ (forceIdle s).cl = s.cl ∧ (forceIdle s).cfg = s.cfg ∧ (forceIdle s).pins = s.pins ∧ (forceIdle
    s).pending = s.pending := by
  unfold forceIdle
  (try dsimp only)
  all_goals ((repeat' split) <;> simp)

@[simp] theorem modLive_frame (i : Nat) (f : LiveChan → LiveChan) (s : State) :
    (modLive i f s).lif = s.lif ∧ (modLive i f s).ft = s.ft ∧ (modLive i f s).ru = s.ru ∧ (modLive i f s).chans
    = s.chans ∧ (modLive i f s).spl = s.spl ∧ (modLive i f s).dlu = s.dlu ∧ (modLive i f s).ss = s.ss ∧ (modLive
    i f s).pu = s.pu ∧ (modLive i f s).iu = s.iu ∧ (modLive i f s).zu = s.zu ∧ (modLive i f s).ts = s.ts ∧
    (modLive i f s).attention = s.attention ∧ (modLive i f s).cl = s.cl ∧ (modLive i f s).cfg = s.cfg ∧ (modLive
    i f s).pins = s.pins ∧ (modLive i f s).pending = s.pending := by
  unfold modLive
  (try dsimp only)
  all_goals ((repeat' split) <;> simp)

@[simp] theorem enterLive_frame (i : Nat) (s : State) :
    (enterLive i s).lif = s.lif ∧ (enterLive i s).ft = s.ft ∧ (enterLive i s).ru = s.ru ∧ (enterLive i s).spl =
    s.spl ∧ (enterLive i s).dlu = s.dlu ∧ (enterLive i s).ss = s.ss ∧ (enterLive i s).pu = s.pu ∧ (enterLive i
    s).iu = s.iu ∧ (enterLive i s).zu = s.zu ∧ (enterLive i s).ts = s.ts ∧ (enterLive i s).attention =
    s.attention ∧ (enterLive i s).cl = s.cl ∧ (enterLive i s).cfg = s.cfg ∧ (enterLive i s).pins = s.pins ∧
    (enterLive i s).pending = s.pending := by
  unfold enterLive
  (try dsimp only)
  all_goals ((repeat' split) <;> simp)

@[simp] theorem leaveLive_frame (i : Nat) (s : State) :
    (leaveLive i s).lif = s.lif ∧ (leaveLive i s).ft = s.ft ∧ (leaveLive i s).ru = s.ru ∧ (leaveLive i s).spl =
    s.spl ∧ (leaveLive i s).dlu = s.dlu ∧ (leaveLive i s).ss = s.ss ∧ (leaveLive i s).pu = s.pu ∧ (leaveLive i
    s).iu = s.iu ∧ (leaveLive i s).zu = s.zu ∧ (leaveLive i s).ts = s.ts ∧ (leaveLive i s).attention =
    s.attention ∧ (leaveLive i s).cl = s.cl ∧ (leaveLive i s).cfg = s.cfg ∧ (leaveLive i s).pins = s.pins ∧
    (leaveLive i s).pending = s.pending := by
  unfold leaveLive
  (try dsimp only)
  all_goals ((repeat' split) <;> simp)

@[simp] theorem takeMarks_frame (id : Nat) (t : Take) (n : Nat) (s : State) :
    (takeMarks id t n s).ft = s.ft ∧ (takeMarks id t n s).ru = s.ru ∧ (takeMarks id t n s).chans = s.chans ∧
    (takeMarks id t n s).spl = s.spl ∧ (takeMarks id t n s).dlu = s.dlu ∧ (takeMarks id t n s).ss = s.ss ∧
    (takeMarks id t n s).pu = s.pu ∧ (takeMarks id t n s).iu = s.iu ∧ (takeMarks id t n s).zu = s.zu ∧
    (takeMarks id t n s).ts = s.ts ∧ (takeMarks id t n s).cl = s.cl ∧ (takeMarks id t n s).cfg = s.cfg ∧
    (takeMarks id t n s).pins = s.pins ∧ (takeMarks id t n s).pending = s.pending := by
  unfold takeMarks
  (try dsimp only)
  all_goals ((repeat' split) <;> simp)

@[simp] theorem completeArm_frame (status : Status) (s : State) :
    (completeArm status s).ft = s.ft ∧ (completeArm status s).ru = s.ru ∧ (completeArm status s).chans = s.chans
    ∧ (completeArm status s).spl = s.spl ∧ (completeArm status s).dlu = s.dlu ∧ (completeArm status s).pu = s.pu
    ∧ (completeArm status s).iu = s.iu ∧ (completeArm status s).zu = s.zu ∧ (completeArm status s).ts = s.ts ∧
    (completeArm status s).tpr = s.tpr ∧ (completeArm status s).cl = s.cl ∧ (completeArm status s).cfg = s.cfg ∧
    (completeArm status s).pins = s.pins ∧ (completeArm status s).pending = s.pending := by
  unfold completeArm
  (try dsimp only)
  all_goals ((repeat' split) <;> simp)

@[simp] theorem completeDisarm_frame (s : State) :
    (completeDisarm s).ft = s.ft ∧ (completeDisarm s).ru = s.ru ∧ (completeDisarm s).chans = s.chans ∧
    (completeDisarm s).spl = s.spl ∧ (completeDisarm s).dlu = s.dlu ∧ (completeDisarm s).pu = s.pu ∧
    (completeDisarm s).iu = s.iu ∧ (completeDisarm s).zu = s.zu ∧ (completeDisarm s).ts = s.ts ∧ (completeDisarm
    s).tpr = s.tpr ∧ (completeDisarm s).cl = s.cl ∧ (completeDisarm s).cfg = s.cfg ∧ (completeDisarm s).pins =
    s.pins ∧ (completeDisarm s).pending = s.pending := by
  unfold completeDisarm
  (try dsimp only)
  all_goals ((repeat' split) <;> simp)

@[simp] theorem enterStopping_frame (s : State) :
    (enterStopping s).ft = s.ft ∧ (enterStopping s).ru = s.ru ∧ (enterStopping s).spl = s.spl ∧ (enterStopping
    s).dlu = s.dlu ∧ (enterStopping s).iu = s.iu ∧ (enterStopping s).zu = s.zu ∧ (enterStopping s).cl = s.cl ∧
    (enterStopping s).cfg = s.cfg ∧ (enterStopping s).pins = s.pins ∧ (enterStopping s).pending = s.pending := by
  unfold enterStopping
  (try dsimp only)
  all_goals ((repeat' split) <;> simp)

@[simp] theorem enterSecuring_frame (s : State) :
    (enterSecuring s).lif = s.lif ∧ (enterSecuring s).ft = s.ft ∧ (enterSecuring s).ru = s.ru ∧ (enterSecuring
    s).chans = s.chans ∧ (enterSecuring s).spl = s.spl ∧ (enterSecuring s).pu = s.pu ∧ (enterSecuring s).iu =
    s.iu ∧ (enterSecuring s).zu = s.zu ∧ (enterSecuring s).ts = s.ts ∧ (enterSecuring s).tpr = s.tpr ∧
    (enterSecuring s).attention = s.attention ∧ (enterSecuring s).cl = s.cl ∧ (enterSecuring s).cfg = s.cfg ∧
    (enterSecuring s).pins = s.pins ∧ (enterSecuring s).pending = s.pending := by
  unfold enterSecuring
  (try dsimp only)
  all_goals ((repeat' split) <;> simp)

@[simp] theorem clearFaultOff_frame (s : State) :
    (clearFaultOff s).lif = s.lif ∧ (clearFaultOff s).ft = s.ft ∧ (clearFaultOff s).ru = s.ru ∧ (clearFaultOff
    s).chans = s.chans ∧ (clearFaultOff s).spl = s.spl ∧ (clearFaultOff s).ss = s.ss ∧ (clearFaultOff s).pu =
    s.pu ∧ (clearFaultOff s).iu = s.iu ∧ (clearFaultOff s).zu = s.zu ∧ (clearFaultOff s).ts = s.ts ∧
    (clearFaultOff s).tpr = s.tpr ∧ (clearFaultOff s).attention = s.attention ∧ (clearFaultOff s).cl = s.cl ∧
    (clearFaultOff s).cfg = s.cfg ∧ (clearFaultOff s).pins = s.pins ∧ (clearFaultOff s).pending = s.pending := by
  unfold clearFaultOff
  (try dsimp only)
  all_goals ((repeat' split) <;> simp)

@[simp] theorem enterDisarmed_frame (s : State) :
    (enterDisarmed s).ft = s.ft ∧ (enterDisarmed s).ru = s.ru ∧ (enterDisarmed s).iu = s.iu ∧ (enterDisarmed
    s).zu = s.zu ∧ (enterDisarmed s).cl = s.cl ∧ (enterDisarmed s).cfg = s.cfg ∧ (enterDisarmed s).pins = s.pins
    ∧ (enterDisarmed s).pending = s.pending := by
  unfold enterDisarmed
  (try dsimp only)
  all_goals ((repeat' split) <;> simp)

@[simp] theorem stopIfMoving_frame (s : State) :
    (stopIfMoving s).ft = s.ft ∧ (stopIfMoving s).ru = s.ru ∧ (stopIfMoving s).spl = s.spl ∧ (stopIfMoving
    s).dlu = s.dlu ∧ (stopIfMoving s).iu = s.iu ∧ (stopIfMoving s).zu = s.zu ∧ (stopIfMoving s).cl = s.cl ∧
    (stopIfMoving s).cfg = s.cfg ∧ (stopIfMoving s).pins = s.pins ∧ (stopIfMoving s).pending = s.pending := by
  unfold stopIfMoving
  (try dsimp only)
  all_goals ((repeat' split) <;> simp)

@[simp] theorem estopCut_frame (s : State) :
    (estopCut s).ft = s.ft ∧ (estopCut s).ru = s.ru ∧ (estopCut s).iu = s.iu ∧ (estopCut s).zu = s.zu ∧
    (estopCut s).cl = s.cl ∧ (estopCut s).cfg = s.cfg ∧ (estopCut s).pins = s.pins ∧ (estopCut s).pending =
    s.pending := by
  unfold estopCut
  (try dsimp only)
  all_goals ((repeat' split) <;> simp)

@[simp] theorem refuseClaim_frame (s : State) :
    (refuseClaim s).ft = s.ft ∧ (refuseClaim s).ru = s.ru ∧ (refuseClaim s).spl = s.spl ∧ (refuseClaim s).dlu =
    s.dlu ∧ (refuseClaim s).iu = s.iu ∧ (refuseClaim s).zu = s.zu ∧ (refuseClaim s).cl = s.cl ∧ (refuseClaim
    s).cfg = s.cfg ∧ (refuseClaim s).pins = s.pins ∧ (refuseClaim s).pending = s.pending := by
  unfold refuseClaim
  (try dsimp only)
  all_goals ((repeat' split) <;> simp)

@[simp] theorem afterOwnClaim_frame (c : Cause) (s : State) :
    (afterOwnClaim c s).ft = s.ft ∧ (afterOwnClaim c s).ru = s.ru ∧ (afterOwnClaim c s).iu = s.iu ∧
    (afterOwnClaim c s).zu = s.zu ∧ (afterOwnClaim c s).cl = s.cl ∧ (afterOwnClaim c s).cfg = s.cfg ∧
    (afterOwnClaim c s).pins = s.pins ∧ (afterOwnClaim c s).pending = s.pending := by
  unfold afterOwnClaim
  (try dsimp only)
  all_goals ((repeat' split) <;> simp)

@[simp] theorem addOwn_frame (c : Cause) (d : Nat) (s : State) :
    (addOwn c d s).ft = s.ft ∧ (addOwn c d s).ru = s.ru ∧ (addOwn c d s).chans = s.chans ∧ (addOwn c d s).spl =
    s.spl ∧ (addOwn c d s).dlu = s.dlu ∧ (addOwn c d s).pu = s.pu ∧ (addOwn c d s).iu = s.iu ∧ (addOwn c d s).zu
    = s.zu ∧ (addOwn c d s).ts = s.ts ∧ (addOwn c d s).tpr = s.tpr ∧ (addOwn c d s).cl = s.cl ∧ (addOwn c d
    s).cfg = s.cfg ∧ (addOwn c d s).pins = s.pins ∧ (addOwn c d s).pending = s.pending := by
  unfold addOwn
  (try dsimp only)
  all_goals ((repeat' split) <;> simp)

@[simp] theorem raiseOwn_frame (c : Cause) (d : Nat) (s : State) :
    (raiseOwn c d s).ft = s.ft ∧ (raiseOwn c d s).ru = s.ru ∧ (raiseOwn c d s).iu = s.iu ∧ (raiseOwn c d s).zu =
    s.zu ∧ (raiseOwn c d s).cl = s.cl ∧ (raiseOwn c d s).cfg = s.cfg ∧ (raiseOwn c d s).pins = s.pins ∧
    (raiseOwn c d s).pending = s.pending := by
  unfold raiseOwn
  (try dsimp only)
  all_goals ((repeat' split) <;> simp)

@[simp] theorem raiseFiltered_frame (c : Cause) (d : Nat) (s : State) :
    (raiseFiltered c d s).ft = s.ft ∧ (raiseFiltered c d s).ru = s.ru ∧ (raiseFiltered c d s).iu = s.iu ∧
    (raiseFiltered c d s).zu = s.zu ∧ (raiseFiltered c d s).cl = s.cl ∧ (raiseFiltered c d s).cfg = s.cfg ∧
    (raiseFiltered c d s).pins = s.pins ∧ (raiseFiltered c d s).pending = s.pending := by
  unfold raiseFiltered
  (try dsimp only)
  all_goals ((repeat' split) <;> simp)

@[simp] theorem withdrawOwn_frame (c : Cause) (s : State) :
    (withdrawOwn c s).ft = s.ft ∧ (withdrawOwn c s).ru = s.ru ∧ (withdrawOwn c s).chans = s.chans ∧ (withdrawOwn
    c s).spl = s.spl ∧ (withdrawOwn c s).dlu = s.dlu ∧ (withdrawOwn c s).pu = s.pu ∧ (withdrawOwn c s).iu = s.iu
    ∧ (withdrawOwn c s).zu = s.zu ∧ (withdrawOwn c s).ts = s.ts ∧ (withdrawOwn c s).tpr = s.tpr ∧ (withdrawOwn c
    s).cl = s.cl ∧ (withdrawOwn c s).cfg = s.cfg ∧ (withdrawOwn c s).pins = s.pins ∧ (withdrawOwn c s).pending =
    s.pending := by
  unfold withdrawOwn
  (try dsimp only)
  all_goals ((repeat' split) <;> simp)

@[simp] theorem remoteClaim_frame (o : Nat) (c : Cause) (d : Nat) (s : State) :
    (remoteClaim o c d s).ft = s.ft ∧ (remoteClaim o c d s).ru = s.ru ∧ (remoteClaim o c d s).spl = s.spl ∧
    (remoteClaim o c d s).dlu = s.dlu ∧ (remoteClaim o c d s).iu = s.iu ∧ (remoteClaim o c d s).zu = s.zu ∧
    (remoteClaim o c d s).cl = s.cl ∧ (remoteClaim o c d s).cfg = s.cfg ∧ (remoteClaim o c d s).pins = s.pins ∧
    (remoteClaim o c d s).pending = s.pending := by
  unfold remoteClaim
  (try dsimp only)
  all_goals ((repeat' split) <;> simp)

@[simp] theorem raisePeer_frame (s : State) :
    (raisePeer s).ft = s.ft ∧ (raisePeer s).ru = s.ru ∧ (raisePeer s).iu = s.iu ∧ (raisePeer s).zu = s.zu ∧
    (raisePeer s).cl = s.cl ∧ (raisePeer s).cfg = s.cfg ∧ (raisePeer s).pins = s.pins ∧ (raisePeer s).pending =
    s.pending := by
  unfold raisePeer
  (try dsimp only)
  all_goals ((repeat' split) <;> simp)

@[simp] theorem retire_frame (id : Nat) (s : State) :
    (retire id s).ft = s.ft ∧ (retire id s).ru = s.ru ∧ (retire id s).chans = s.chans ∧ (retire id s).spl =
    s.spl ∧ (retire id s).dlu = s.dlu ∧ (retire id s).ss = s.ss ∧ (retire id s).pu = s.pu ∧ (retire id s).iu =
    s.iu ∧ (retire id s).zu = s.zu ∧ (retire id s).tpr = s.tpr ∧ (retire id s).cl = s.cl ∧ (retire id s).cfg =
    s.cfg ∧ (retire id s).pins = s.pins ∧ (retire id s).pending = s.pending := by
  unfold retire
  (try dsimp only)
  all_goals ((repeat' split) <;> simp)

@[simp] theorem underrunOf_frame (short : Option Take) (s : State) :
    (underrunOf short s).ft = s.ft ∧ (underrunOf short s).ru = s.ru ∧ (underrunOf short s).iu = s.iu ∧
    (underrunOf short s).zu = s.zu ∧ (underrunOf short s).cl = s.cl ∧ (underrunOf short s).cfg = s.cfg ∧
    (underrunOf short s).pins = s.pins ∧ (underrunOf short s).pending = s.pending := by
  unfold underrunOf
  (try dsimp only)
  all_goals ((repeat' split) <;> simp)

@[simp] theorem raiseUnderrun_frame (j : Nat) (s : State) :
    (raiseUnderrun j s).ft = s.ft ∧ (raiseUnderrun j s).ru = s.ru ∧ (raiseUnderrun j s).iu = s.iu ∧
    (raiseUnderrun j s).zu = s.zu ∧ (raiseUnderrun j s).cl = s.cl ∧ (raiseUnderrun j s).cfg = s.cfg ∧
    (raiseUnderrun j s).pins = s.pins ∧ (raiseUnderrun j s).pending = s.pending := by
  unfold raiseUnderrun
  simp

@[simp] theorem formCursor_frame (j : Nat) (s : State) :
    (formCursor j s).ft = s.ft ∧ (formCursor j s).ru = s.ru ∧ (formCursor j s).iu = s.iu ∧ (formCursor j s).zu =
    s.zu ∧ (formCursor j s).cl = s.cl ∧ (formCursor j s).cfg = s.cfg ∧ (formCursor j s).pins = s.pins ∧
    (formCursor j s).pending = s.pending := by
  unfold formCursor
  (try dsimp only)
  all_goals ((repeat' split) <;> simp)

@[simp] theorem computeChannels_frame (j : Nat) (s : State) :
    (computeChannels j s).lif = s.lif ∧ (computeChannels j s).ft = s.ft ∧ (computeChannels j s).ru = s.ru ∧
    (computeChannels j s).spl = s.spl ∧ (computeChannels j s).dlu = s.dlu ∧ (computeChannels j s).ss = s.ss ∧
    (computeChannels j s).pu = s.pu ∧ (computeChannels j s).iu = s.iu ∧ (computeChannels j s).zu = s.zu ∧
    (computeChannels j s).ts = s.ts ∧ (computeChannels j s).tpr = s.tpr ∧ (computeChannels j s).attention =
    s.attention ∧ (computeChannels j s).cl = s.cl ∧ (computeChannels j s).cfg = s.cfg ∧ (computeChannels j
    s).pins = s.pins ∧ (computeChannels j s).pending = s.pending := by
  unfold computeChannels
  (try dsimp only)
  all_goals ((repeat' split) <;> simp)

@[simp] theorem handHistory_frame (s : State) :
    (handHistory s).lif = s.lif ∧ (handHistory s).ft = s.ft ∧ (handHistory s).ru = s.ru ∧ (handHistory s).chans
    = s.chans ∧ (handHistory s).dlu = s.dlu ∧ (handHistory s).ss = s.ss ∧ (handHistory s).pu = s.pu ∧
    (handHistory s).iu = s.iu ∧ (handHistory s).zu = s.zu ∧ (handHistory s).ts = s.ts ∧ (handHistory s).tpr =
    s.tpr ∧ (handHistory s).attention = s.attention ∧ (handHistory s).cl = s.cl ∧ (handHistory s).cfg = s.cfg ∧
    (handHistory s).pins = s.pins ∧ (handHistory s).pending = s.pending := by
  unfold handHistory
  (try dsimp only)
  all_goals ((repeat' split) <;> simp)

@[simp] theorem sendRecords_frame (s : State) :
    (sendRecords s).lif = s.lif ∧ (sendRecords s).ft = s.ft ∧ (sendRecords s).ru = s.ru ∧ (sendRecords s).chans
    = s.chans ∧ (sendRecords s).spl = s.spl ∧ (sendRecords s).ss = s.ss ∧ (sendRecords s).pu = s.pu ∧
    (sendRecords s).iu = s.iu ∧ (sendRecords s).zu = s.zu ∧ (sendRecords s).ts = s.ts ∧ (sendRecords s).tpr =
    s.tpr ∧ (sendRecords s).attention = s.attention ∧ (sendRecords s).cl = s.cl ∧ (sendRecords s).cfg = s.cfg ∧
    (sendRecords s).pins = s.pins ∧ (sendRecords s).pending = s.pending := by
  unfold sendRecords
  (try dsimp only)
  all_goals ((repeat' split) <;> simp)

@[simp] theorem recordingWrite_frame (s : State) :
    (recordingWrite s).lif = s.lif ∧ (recordingWrite s).ft = s.ft ∧ (recordingWrite s).ru = s.ru ∧
    (recordingWrite s).chans = s.chans ∧ (recordingWrite s).spl = s.spl ∧ (recordingWrite s).dlu = s.dlu ∧
    (recordingWrite s).ss = s.ss ∧ (recordingWrite s).pu = s.pu ∧ (recordingWrite s).iu = s.iu ∧ (recordingWrite
    s).zu = s.zu ∧ (recordingWrite s).cl = s.cl ∧ (recordingWrite s).cfg = s.cfg ∧ (recordingWrite s).pins =
    s.pins ∧ (recordingWrite s).pending = s.pending := by
  unfold recordingWrite
  (try dsimp only)
  all_goals ((repeat' split) <;> simp)

@[simp] theorem punchWrite_frame (s : State) :
    (punchWrite s).lif = s.lif ∧ (punchWrite s).ft = s.ft ∧ (punchWrite s).ru = s.ru ∧ (punchWrite s).chans =
    s.chans ∧ (punchWrite s).spl = s.spl ∧ (punchWrite s).dlu = s.dlu ∧ (punchWrite s).ss = s.ss ∧ (punchWrite
    s).pu = s.pu ∧ (punchWrite s).iu = s.iu ∧ (punchWrite s).zu = s.zu ∧ (punchWrite s).cl = s.cl ∧ (punchWrite
    s).cfg = s.cfg ∧ (punchWrite s).pins = s.pins ∧ (punchWrite s).pending = s.pending := by
  unfold punchWrite
  (try dsimp only)
  all_goals ((repeat' split) <;> simp)

@[simp] theorem raiseDeviation_frame (s : State) :
    (raiseDeviation s).ft = s.ft ∧ (raiseDeviation s).ru = s.ru ∧ (raiseDeviation s).iu = s.iu ∧ (raiseDeviation
    s).zu = s.zu ∧ (raiseDeviation s).cl = s.cl ∧ (raiseDeviation s).cfg = s.cfg ∧ (raiseDeviation s).pins =
    s.pins ∧ (raiseDeviation s).pending = s.pending := by
  unfold raiseDeviation
  (try dsimp only)
  all_goals ((repeat' split) <;> simp)

@[simp] theorem raiseLimits_frame (s : State) :
    (raiseLimits s).ft = s.ft ∧ (raiseLimits s).ru = s.ru ∧ (raiseLimits s).iu = s.iu ∧ (raiseLimits s).zu =
    s.zu ∧ (raiseLimits s).cl = s.cl ∧ (raiseLimits s).cfg = s.cfg ∧ (raiseLimits s).pins = s.pins ∧
    (raiseLimits s).pending = s.pending := by
  unfold raiseLimits
  (try dsimp only)
  all_goals ((repeat' split) <;> simp)

@[simp] theorem cueTest_frame (s : State) :
    (cueTest s).ft = s.ft ∧ (cueTest s).ru = s.ru ∧ (cueTest s).spl = s.spl ∧ (cueTest s).dlu = s.dlu ∧ (cueTest
    s).ss = s.ss ∧ (cueTest s).iu = s.iu ∧ (cueTest s).zu = s.zu ∧ (cueTest s).cl = s.cl ∧ (cueTest s).cfg =
    s.cfg ∧ (cueTest s).pins = s.pins ∧ (cueTest s).pending = s.pending := by
  unfold cueTest
  (try dsimp only)
  all_goals ((repeat' split) <;> simp)

@[simp] theorem endOfTake_frame (s : State) :
    (endOfTake s).ft = s.ft ∧ (endOfTake s).ru = s.ru ∧ (endOfTake s).spl = s.spl ∧ (endOfTake s).dlu = s.dlu ∧
    (endOfTake s).ss = s.ss ∧ (endOfTake s).iu = s.iu ∧ (endOfTake s).zu = s.zu ∧ (endOfTake s).cl = s.cl ∧
    (endOfTake s).cfg = s.cfg ∧ (endOfTake s).pins = s.pins ∧ (endOfTake s).pending = s.pending := by
  unfold endOfTake
  (try dsimp only)
  all_goals ((repeat' split) <;> simp)

@[simp] theorem endOfLive_frame (s : State) :
    (endOfLive s).lif = s.lif ∧ (endOfLive s).ft = s.ft ∧ (endOfLive s).ru = s.ru ∧ (endOfLive s).chans =
    s.chans ∧ (endOfLive s).spl = s.spl ∧ (endOfLive s).dlu = s.dlu ∧ (endOfLive s).ss = s.ss ∧ (endOfLive s).pu
    = s.pu ∧ (endOfLive s).iu = s.iu ∧ (endOfLive s).zu = s.zu ∧ (endOfLive s).ts = s.ts ∧ (endOfLive
    s).attention = s.attention ∧ (endOfLive s).cl = s.cl ∧ (endOfLive s).cfg = s.cfg ∧ (endOfLive s).pins =
    s.pins ∧ (endOfLive s).pending = s.pending := by
  unfold endOfLive
  (try dsimp only)
  all_goals ((repeat' split) <;> simp)

@[simp] theorem playerTests_frame (s : State) :
    (playerTests s).ft = s.ft ∧ (playerTests s).ru = s.ru ∧ (playerTests s).spl = s.spl ∧ (playerTests s).dlu =
    s.dlu ∧ (playerTests s).ss = s.ss ∧ (playerTests s).iu = s.iu ∧ (playerTests s).zu = s.zu ∧ (playerTests
    s).cl = s.cl ∧ (playerTests s).cfg = s.cfg ∧ (playerTests s).pins = s.pins ∧ (playerTests s).pending =
    s.pending := by
  unfold playerTests
  (try dsimp only)
  all_goals ((repeat' split) <;> simp)

@[simp] theorem stoppingTest_frame (s : State) :
    (stoppingTest s).lif = s.lif ∧ (stoppingTest s).ft = s.ft ∧ (stoppingTest s).ru = s.ru ∧ (stoppingTest
    s).chans = s.chans ∧ (stoppingTest s).spl = s.spl ∧ (stoppingTest s).pu = s.pu ∧ (stoppingTest s).iu = s.iu
    ∧ (stoppingTest s).zu = s.zu ∧ (stoppingTest s).ts = s.ts ∧ (stoppingTest s).tpr = s.tpr ∧ (stoppingTest
    s).attention = s.attention ∧ (stoppingTest s).cl = s.cl ∧ (stoppingTest s).cfg = s.cfg ∧ (stoppingTest
    s).pins = s.pins ∧ (stoppingTest s).pending = s.pending := by
  unfold stoppingTest
  (try dsimp only)
  all_goals ((repeat' split) <;> simp)

@[simp] theorem computeTick_frame (j : Nat) (s0 : State) :
    (computeTick j s0).ft = s0.ft ∧ (computeTick j s0).ru = s0.ru ∧ (computeTick j s0).iu = s0.iu ∧ (computeTick
    j s0).zu = s0.zu ∧ (computeTick j s0).cl = s0.cl ∧ (computeTick j s0).cfg = s0.cfg ∧ (computeTick j s0).pins
    = s0.pins ∧ (computeTick j s0).pending = s0.pending := by
  unfold computeTick
  (try dsimp only)
  all_goals ((repeat' split) <;> simp)

@[simp] theorem reportStation_frame (station : Nat) (s : State) :
    (reportStation station s).lif = s.lif ∧ (reportStation station s).ft = s.ft ∧ (reportStation station
    s).chans = s.chans ∧ (reportStation station s).spl = s.spl ∧ (reportStation station s).dlu = s.dlu ∧
    (reportStation station s).ss = s.ss ∧ (reportStation station s).pu = s.pu ∧ (reportStation station s).iu =
    s.iu ∧ (reportStation station s).zu = s.zu ∧ (reportStation station s).ts = s.ts ∧ (reportStation station
    s).tpr = s.tpr ∧ (reportStation station s).cl = s.cl ∧ (reportStation station s).cfg = s.cfg ∧
    (reportStation station s).pins = s.pins ∧ (reportStation station s).pending = s.pending := by
  unfold reportStation
  (try dsimp only)
  all_goals ((repeat' split) <;> simp)

@[simp] theorem ageRoster_frame (s : State) :
    (ageRoster s).lif = s.lif ∧ (ageRoster s).ft = s.ft ∧ (ageRoster s).chans = s.chans ∧ (ageRoster s).spl =
    s.spl ∧ (ageRoster s).dlu = s.dlu ∧ (ageRoster s).ss = s.ss ∧ (ageRoster s).pu = s.pu ∧ (ageRoster s).iu =
    s.iu ∧ (ageRoster s).zu = s.zu ∧ (ageRoster s).ts = s.ts ∧ (ageRoster s).tpr = s.tpr ∧ (ageRoster
    s).attention = s.attention ∧ (ageRoster s).cl = s.cl ∧ (ageRoster s).cfg = s.cfg ∧ (ageRoster s).pins =
    s.pins ∧ (ageRoster s).pending = s.pending := by
  unfold ageRoster
  (try dsimp only)
  all_goals ((repeat' split) <;> simp)

@[simp] theorem removeAged_frame (s : State) :
    (removeAged s).lif = s.lif ∧ (removeAged s).ft = s.ft ∧ (removeAged s).chans = s.chans ∧ (removeAged s).spl
    = s.spl ∧ (removeAged s).dlu = s.dlu ∧ (removeAged s).ss = s.ss ∧ (removeAged s).pu = s.pu ∧ (removeAged
    s).iu = s.iu ∧ (removeAged s).zu = s.zu ∧ (removeAged s).ts = s.ts ∧ (removeAged s).tpr = s.tpr ∧
    (removeAged s).attention = s.attention ∧ (removeAged s).cl = s.cl ∧ (removeAged s).cfg = s.cfg ∧ (removeAged
    s).pins = s.pins ∧ (removeAged s).pending = s.pending := by
  unfold removeAged
  (try dsimp only)
  all_goals ((repeat' split) <;> simp)

@[simp] theorem losePeers_frame (s : State) :
    (losePeers s).ft = s.ft ∧ (losePeers s).ru = s.ru ∧ (losePeers s).iu = s.iu ∧ (losePeers s).zu = s.zu ∧
    (losePeers s).cl = s.cl ∧ (losePeers s).cfg = s.cfg ∧ (losePeers s).pins = s.pins ∧ (losePeers s).pending =
    s.pending := by
  unfold losePeers
  (try dsimp only)
  all_goals ((repeat' split) <;> simp)

@[simp] theorem expireSlots_frame (s : State) :
    (expireSlots s).lif = s.lif ∧ (expireSlots s).ft = s.ft ∧ (expireSlots s).chans = s.chans ∧ (expireSlots
    s).spl = s.spl ∧ (expireSlots s).dlu = s.dlu ∧ (expireSlots s).ss = s.ss ∧ (expireSlots s).pu = s.pu ∧
    (expireSlots s).iu = s.iu ∧ (expireSlots s).zu = s.zu ∧ (expireSlots s).ts = s.ts ∧ (expireSlots s).tpr =
    s.tpr ∧ (expireSlots s).attention = s.attention ∧ (expireSlots s).cl = s.cl ∧ (expireSlots s).cfg = s.cfg ∧
    (expireSlots s).pins = s.pins ∧ (expireSlots s).pending = s.pending := by
  unfold expireSlots
  (try dsimp only)
  all_goals ((repeat' split) <;> simp)

@[simp] theorem turnSlots_frame (g : FrameNo) (s : State) :
    (turnSlots g s).lif = s.lif ∧ (turnSlots g s).ft = s.ft ∧ (turnSlots g s).chans = s.chans ∧ (turnSlots g
    s).spl = s.spl ∧ (turnSlots g s).dlu = s.dlu ∧ (turnSlots g s).ss = s.ss ∧ (turnSlots g s).pu = s.pu ∧
    (turnSlots g s).iu = s.iu ∧ (turnSlots g s).zu = s.zu ∧ (turnSlots g s).ts = s.ts ∧ (turnSlots g s).tpr =
    s.tpr ∧ (turnSlots g s).attention = s.attention ∧ (turnSlots g s).cl = s.cl ∧ (turnSlots g s).cfg = s.cfg ∧
    (turnSlots g s).pins = s.pins ∧ (turnSlots g s).pending = s.pending := by
  unfold turnSlots
  (try dsimp only)
  all_goals ((repeat' split) <;> simp)

@[simp] theorem takeState_frame (station : Nat) (d : FrameNo) (f : StateFields) (p : Published) (a : Activity) (s : State) :
    (takeState station d f p a s).ft = s.ft ∧ (takeState station d f p a s).iu = s.iu ∧ (takeState station d f p
    a s).zu = s.zu ∧ (takeState station d f p a s).cl = s.cl ∧ (takeState station d f p a s).cfg = s.cfg ∧
    (takeState station d f p a s).pins = s.pins ∧ (takeState station d f p a s).pending = s.pending := by
  unfold takeState
  (try dsimp only)
  all_goals ((repeat' split) <;> simp)

@[simp] theorem endLearning_frame (s : State) :
    (endLearning s).lif = s.lif ∧ (endLearning s).ft = s.ft ∧ (endLearning s).chans = s.chans ∧ (endLearning
    s).spl = s.spl ∧ (endLearning s).dlu = s.dlu ∧ (endLearning s).ss = s.ss ∧ (endLearning s).pu = s.pu ∧
    (endLearning s).iu = s.iu ∧ (endLearning s).zu = s.zu ∧ (endLearning s).ts = s.ts ∧ (endLearning s).tpr =
    s.tpr ∧ (endLearning s).attention = s.attention ∧ (endLearning s).cl = s.cl ∧ (endLearning s).cfg = s.cfg ∧
    (endLearning s).pins = s.pins ∧ (endLearning s).pending = s.pending := by
  unfold endLearning
  (try dsimp only)
  all_goals ((repeat' split) <;> simp)

@[simp] theorem learnTick_frame (s : State) :
    (learnTick s).lif = s.lif ∧ (learnTick s).ft = s.ft ∧ (learnTick s).chans = s.chans ∧ (learnTick s).spl =
    s.spl ∧ (learnTick s).dlu = s.dlu ∧ (learnTick s).ss = s.ss ∧ (learnTick s).pu = s.pu ∧ (learnTick s).iu =
    s.iu ∧ (learnTick s).zu = s.zu ∧ (learnTick s).ts = s.ts ∧ (learnTick s).tpr = s.tpr ∧ (learnTick
    s).attention = s.attention ∧ (learnTick s).cl = s.cl ∧ (learnTick s).cfg = s.cfg ∧ (learnTick s).pins =
    s.pins ∧ (learnTick s).pending = s.pending := by
  unfold learnTick
  (try dsimp only)
  all_goals ((repeat' split) <;> simp)

@[simp] theorem placeState_frame (r : StateReport) (s : State) :
    (placeState r s).ft = s.ft ∧ (placeState r s).ru = s.ru ∧ (placeState r s).chans = s.chans ∧
    (placeState r s).spl = s.spl ∧ (placeState r s).dlu = s.dlu ∧ (placeState r s).ss = s.ss ∧
    (placeState r s).pu = s.pu ∧ (placeState r s).iu = s.iu ∧ (placeState r s).zu = s.zu ∧
    (placeState r s).ts = s.ts ∧ (placeState r s).tpr = s.tpr ∧ (placeState r s).cl = s.cl ∧
    (placeState r s).cfg = s.cfg ∧ (placeState r s).pins = s.pins ∧ (placeState r s).pending = s.pending := by
  unfold placeState
  simp

@[simp] theorem composeState_frame (before : State) (s : State) :
    (composeState before s).ft = s.ft ∧ (composeState before s).ru = s.ru ∧ (composeState before s).chans =
    s.chans ∧ (composeState before s).spl = s.spl ∧ (composeState before s).dlu = s.dlu ∧ (composeState before
    s).ss = s.ss ∧ (composeState before s).pu = s.pu ∧ (composeState before s).iu = s.iu ∧ (composeState before
    s).zu = s.zu ∧ (composeState before s).ts = s.ts ∧ (composeState before s).tpr = s.tpr ∧ (composeState
    before s).cl = s.cl ∧ (composeState before s).cfg = s.cfg ∧ (composeState before s).pins = s.pins ∧
    (composeState before s).pending = s.pending := by
  unfold composeState
  (try dsimp only)
  all_goals ((repeat' split) <;> simp)

@[simp] theorem beginRound_frame (late : Bool) (s : State) :
    (beginRound late s).lif = s.lif ∧ (beginRound late s).ft = s.ft ∧ (beginRound late s).ru = s.ru ∧
    (beginRound late s).chans = s.chans ∧ (beginRound late s).dlu = s.dlu ∧ (beginRound late s).ss = s.ss ∧
    (beginRound late s).pu = s.pu ∧ (beginRound late s).iu = s.iu ∧ (beginRound late s).zu = s.zu ∧ (beginRound
    late s).ts = s.ts ∧ (beginRound late s).tpr = s.tpr ∧ (beginRound late s).attention = s.attention ∧
    (beginRound late s).cl = s.cl ∧ (beginRound late s).cfg = s.cfg ∧ (beginRound late s).pins = s.pins ∧
    (beginRound late s).pending = s.pending := by
  unfold beginRound
  (try dsimp only)
  all_goals ((repeat' split) <;> simp)

@[simp] theorem freeSensorLine_frame (s : State) :
    (freeSensorLine s).lif = s.lif ∧ (freeSensorLine s).ft = s.ft ∧ (freeSensorLine s).ru = s.ru ∧
    (freeSensorLine s).chans = s.chans ∧ (freeSensorLine s).dlu = s.dlu ∧ (freeSensorLine s).ss = s.ss ∧
    (freeSensorLine s).pu = s.pu ∧ (freeSensorLine s).iu = s.iu ∧ (freeSensorLine s).zu = s.zu ∧ (freeSensorLine
    s).ts = s.ts ∧ (freeSensorLine s).tpr = s.tpr ∧ (freeSensorLine s).attention = s.attention ∧ (freeSensorLine
    s).cl = s.cl ∧ (freeSensorLine s).cfg = s.cfg ∧ (freeSensorLine s).pins = s.pins ∧ (freeSensorLine
    s).pending = s.pending := by
  unfold freeSensorLine
  (try dsimp only)
  all_goals ((repeat' split) <;> simp)

@[simp] theorem enterParked_frame (s0 : State) :
    (enterParked s0).ft = s0.ft ∧ (enterParked s0).dlu = s0.dlu ∧ (enterParked s0).iu = s0.iu ∧ (enterParked
    s0).zu = s0.zu ∧ (enterParked s0).ts = s0.ts ∧ (enterParked s0).attention = s0.attention ∧ (enterParked
    s0).cfg = s0.cfg ∧ (enterParked s0).pins = s0.pins ∧ (enterParked s0).pending = s0.pending := by
  unfold enterParked
  (try dsimp only)
  all_goals ((repeat' split) <;> simp)

@[simp] theorem wakeNode_frame (s0 : State) :
    (wakeNode s0).ft = s0.ft ∧ (wakeNode s0).chans = s0.chans ∧ (wakeNode s0).spl = s0.spl ∧ (wakeNode s0).ts =
    s0.ts ∧ (wakeNode s0).tpr = s0.tpr ∧ (wakeNode s0).cl = s0.cl ∧ (wakeNode s0).cfg = s0.cfg ∧ (wakeNode
    s0).pins = s0.pins ∧ (wakeNode s0).pending = s0.pending := by
  unfold wakeNode
  (try dsimp only)
  all_goals ((repeat' split) <;> simp)

@[simp] theorem wakeIfDue_frame (s : State) :
    (wakeIfDue s).ft = s.ft ∧ (wakeIfDue s).chans = s.chans ∧ (wakeIfDue s).spl = s.spl ∧ (wakeIfDue s).ts =
    s.ts ∧ (wakeIfDue s).tpr = s.tpr ∧ (wakeIfDue s).cl = s.cl ∧ (wakeIfDue s).cfg = s.cfg ∧ (wakeIfDue s).pins
    = s.pins ∧ (wakeIfDue s).pending = s.pending := by
  unfold wakeIfDue
  (try dsimp only)
  all_goals ((repeat' split) <;> simp)

@[simp] theorem refuseFactor_frame (v : Nat) (d : FrameNo) (s : State) :
    (refuseFactor v d s).lif = s.lif ∧ (refuseFactor v d s).ft = s.ft ∧ (refuseFactor v d s).ru = s.ru ∧
    (refuseFactor v d s).chans = s.chans ∧ (refuseFactor v d s).spl = s.spl ∧ (refuseFactor v d s).dlu = s.dlu ∧
    (refuseFactor v d s).ss = s.ss ∧ (refuseFactor v d s).iu = s.iu ∧ (refuseFactor v d s).zu = s.zu ∧
    (refuseFactor v d s).ts = s.ts ∧ (refuseFactor v d s).tpr = s.tpr ∧ (refuseFactor v d s).cl = s.cl ∧
    (refuseFactor v d s).cfg = s.cfg ∧ (refuseFactor v d s).pins = s.pins ∧ (refuseFactor v d s).pending =
    s.pending := by
  unfold refuseFactor
  (try dsimp only)
  all_goals ((repeat' split) <;> simp)

@[simp] theorem takeFactor_frame (o : Nat) (v : Nat) (d : FrameNo) (s : State) :
    (takeFactor o v d s).lif = s.lif ∧ (takeFactor o v d s).ft = s.ft ∧ (takeFactor o v d s).ru = s.ru ∧
    (takeFactor o v d s).chans = s.chans ∧ (takeFactor o v d s).spl = s.spl ∧ (takeFactor o v d s).dlu = s.dlu ∧
    (takeFactor o v d s).ss = s.ss ∧ (takeFactor o v d s).iu = s.iu ∧ (takeFactor o v d s).zu = s.zu ∧
    (takeFactor o v d s).ts = s.ts ∧ (takeFactor o v d s).tpr = s.tpr ∧ (takeFactor o v d s).cl = s.cl ∧
    (takeFactor o v d s).cfg = s.cfg ∧ (takeFactor o v d s).pins = s.pins ∧ (takeFactor o v d s).pending =
    s.pending := by
  unfold takeFactor
  (try dsimp only)
  all_goals ((repeat' split) <;> simp)

@[simp] theorem returnFloor_frame (s : State) :
    (returnFloor s).lif = s.lif ∧ (returnFloor s).ft = s.ft ∧ (returnFloor s).ru = s.ru ∧ (returnFloor s).chans
    = s.chans ∧ (returnFloor s).spl = s.spl ∧ (returnFloor s).dlu = s.dlu ∧ (returnFloor s).ss = s.ss ∧
    (returnFloor s).iu = s.iu ∧ (returnFloor s).zu = s.zu ∧ (returnFloor s).ts = s.ts ∧ (returnFloor s).tpr =
    s.tpr ∧ (returnFloor s).attention = s.attention ∧ (returnFloor s).cl = s.cl ∧ (returnFloor s).cfg = s.cfg ∧
    (returnFloor s).pins = s.pins ∧ (returnFloor s).pending = s.pending := by
  unfold returnFloor
  (try dsimp only)
  all_goals ((repeat' split) <;> simp)

@[simp] theorem turnFloor_frame (d : FrameNo) (s : State) :
    (turnFloor d s).lif = s.lif ∧ (turnFloor d s).ft = s.ft ∧ (turnFloor d s).ru = s.ru ∧ (turnFloor d s).chans
    = s.chans ∧ (turnFloor d s).spl = s.spl ∧ (turnFloor d s).dlu = s.dlu ∧ (turnFloor d s).ss = s.ss ∧
    (turnFloor d s).iu = s.iu ∧ (turnFloor d s).zu = s.zu ∧ (turnFloor d s).ts = s.ts ∧ (turnFloor d s).tpr =
    s.tpr ∧ (turnFloor d s).attention = s.attention ∧ (turnFloor d s).cl = s.cl ∧ (turnFloor d s).cfg = s.cfg ∧
    (turnFloor d s).pins = s.pins ∧ (turnFloor d s).pending = s.pending := by
  unfold turnFloor
  (try dsimp only)
  all_goals ((repeat' split) <;> simp)

@[simp] theorem turnEase_frame (g : FrameNo) (s : State) :
    (turnEase g s).lif = s.lif ∧ (turnEase g s).ft = s.ft ∧ (turnEase g s).ru = s.ru ∧ (turnEase g s).chans =
    s.chans ∧ (turnEase g s).spl = s.spl ∧ (turnEase g s).dlu = s.dlu ∧ (turnEase g s).ss = s.ss ∧ (turnEase g
    s).iu = s.iu ∧ (turnEase g s).zu = s.zu ∧ (turnEase g s).ts = s.ts ∧ (turnEase g s).tpr = s.tpr ∧ (turnEase
    g s).attention = s.attention ∧ (turnEase g s).cl = s.cl ∧ (turnEase g s).cfg = s.cfg ∧ (turnEase g s).pins =
    s.pins ∧ (turnEase g s).pending = s.pending := by
  unfold turnEase
  (try dsimp only)
  all_goals ((repeat' split) <;> simp)

@[simp] theorem paceTick_frame (g : FrameNo) (s : State) :
    (paceTick g s).lif = s.lif ∧ (paceTick g s).ft = s.ft ∧ (paceTick g s).ru = s.ru ∧ (paceTick g s).chans =
    s.chans ∧ (paceTick g s).spl = s.spl ∧ (paceTick g s).dlu = s.dlu ∧ (paceTick g s).ss = s.ss ∧ (paceTick g
    s).iu = s.iu ∧ (paceTick g s).zu = s.zu ∧ (paceTick g s).ts = s.ts ∧ (paceTick g s).tpr = s.tpr ∧ (paceTick
    g s).attention = s.attention ∧ (paceTick g s).cl = s.cl ∧ (paceTick g s).cfg = s.cfg ∧ (paceTick g s).pins =
    s.pins ∧ (paceTick g s).pending = s.pending := by
  unfold paceTick
  (try dsimp only)
  all_goals ((repeat' split) <;> simp)

@[simp] theorem formRanges_frame (s : State) :
    (formRanges s).lif = s.lif ∧ (formRanges s).ft = s.ft ∧ (formRanges s).ru = s.ru ∧ (formRanges s).chans =
    s.chans ∧ (formRanges s).spl = s.spl ∧ (formRanges s).dlu = s.dlu ∧ (formRanges s).ss = s.ss ∧ (formRanges
    s).pu = s.pu ∧ (formRanges s).zu = s.zu ∧ (formRanges s).ts = s.ts ∧ (formRanges s).tpr = s.tpr ∧
    (formRanges s).attention = s.attention ∧ (formRanges s).cl = s.cl ∧ (formRanges s).cfg = s.cfg ∧ (formRanges
    s).pins = s.pins ∧ (formRanges s).pending = s.pending := by
  unfold formRanges
  (try dsimp only)
  all_goals ((repeat' split) <;> simp)

@[simp] theorem raiseCross_frame (before : List Bool) (s : State) :
    (raiseCross before s).ft = s.ft ∧ (raiseCross before s).ru = s.ru ∧ (raiseCross before s).iu = s.iu ∧
    (raiseCross before s).zu = s.zu ∧ (raiseCross before s).cl = s.cl ∧ (raiseCross before s).cfg = s.cfg ∧
    (raiseCross before s).pins = s.pins ∧ (raiseCross before s).pending = s.pending := by
  unfold raiseCross
  (try dsimp only)
  all_goals ((repeat' split) <;> simp)

@[simp] theorem raiseConflict_frame (s : State) :
    (raiseConflict s).ft = s.ft ∧ (raiseConflict s).ru = s.ru ∧ (raiseConflict s).iu = s.iu ∧
    (raiseConflict s).zu = s.zu ∧ (raiseConflict s).cl = s.cl ∧ (raiseConflict s).cfg = s.cfg ∧
    (raiseConflict s).pins = s.pins ∧ (raiseConflict s).pending = s.pending := by
  unfold raiseConflict
  (try dsimp only)
  all_goals ((repeat' split) <;> simp)

@[simp] theorem reportCondition_frame (c : Cause) (before : Option Nat) (after : Option Nat) (s : State) :
    (reportCondition c before after s).ft = s.ft ∧ (reportCondition c before after s).ru = s.ru ∧
    (reportCondition c before after s).iu = s.iu ∧ (reportCondition c before after s).zu = s.zu ∧
    (reportCondition c before after s).cl = s.cl ∧ (reportCondition c before after s).cfg = s.cfg ∧
    (reportCondition c before after s).pins = s.pins ∧ (reportCondition c before after s).pending = s.pending := by
  unfold reportCondition
  (try dsimp only)
  all_goals ((repeat' split) <;> simp)

@[simp] theorem reportFactor_frame (s : State) :
    (reportFactor s).ft = s.ft ∧ (reportFactor s).ru = s.ru ∧ (reportFactor s).chans = s.chans ∧ (reportFactor
    s).spl = s.spl ∧ (reportFactor s).dlu = s.dlu ∧ (reportFactor s).ss = s.ss ∧ (reportFactor s).pu = s.pu ∧
    (reportFactor s).iu = s.iu ∧ (reportFactor s).ts = s.ts ∧ (reportFactor s).tpr = s.tpr ∧ (reportFactor s).cl
    = s.cl ∧ (reportFactor s).cfg = s.cfg ∧ (reportFactor s).pins = s.pins ∧ (reportFactor s).pending =
    s.pending := by
  unfold reportFactor
  (try dsimp only)
  all_goals ((repeat' split) <;> simp)

@[simp] theorem changeZones_frame (f : State → List LineFilter) (s : State) :
    (changeZones f s).ft = s.ft ∧ (changeZones f s).ru = s.ru ∧ (changeZones f s).iu = s.iu ∧ (changeZones f
    s).cl = s.cl ∧ (changeZones f s).cfg = s.cfg ∧ (changeZones f s).pins = s.pins ∧ (changeZones f s).pending =
    s.pending := by
  unfold changeZones
  (try dsimp only)
  all_goals ((repeat' split) <;> simp)

@[simp] theorem changeEstop_frame (f : State → List LineFilter) (s : State) :
    (changeEstop f s).ft = s.ft ∧ (changeEstop f s).ru = s.ru ∧ (changeEstop f s).iu = s.iu ∧ (changeEstop f
    s).cl = s.cl ∧ (changeEstop f s).cfg = s.cfg ∧ (changeEstop f s).pins = s.pins ∧ (changeEstop f s).pending =
    s.pending := by
  unfold changeEstop
  (try dsimp only)
  all_goals ((repeat' split) <;> simp)

@[simp] theorem sampleEstop_frame (l : LineLevels) (s : State) :
    (sampleEstop l s).ft = s.ft ∧ (sampleEstop l s).ru = s.ru ∧ (sampleEstop l s).iu = s.iu ∧ (sampleEstop l
    s).cl = s.cl ∧ (sampleEstop l s).cfg = s.cfg ∧ (sampleEstop l s).pins = s.pins ∧ (sampleEstop l s).pending =
    s.pending := by
  unfold sampleEstop
  (try dsimp only)
  all_goals ((repeat' split) <;> simp)

@[simp] theorem sampleZones_frame (l : LineLevels) (s : State) :
    (sampleZones l s).ft = s.ft ∧ (sampleZones l s).ru = s.ru ∧ (sampleZones l s).iu = s.iu ∧ (sampleZones l
    s).cl = s.cl ∧ (sampleZones l s).cfg = s.cfg ∧ (sampleZones l s).pins = s.pins ∧ (sampleZones l s).pending =
    s.pending := by
  unfold sampleZones
  (try dsimp only)
  all_goals ((repeat' split) <;> simp)

@[simp] theorem clearZones_frame (s : State) :
    (clearZones s).ft = s.ft ∧ (clearZones s).ru = s.ru ∧ (clearZones s).iu = s.iu ∧ (clearZones s).cl = s.cl ∧
    (clearZones s).cfg = s.cfg ∧ (clearZones s).pins = s.pins ∧ (clearZones s).pending = s.pending := by
  unfold clearZones
  (try dsimp only)
  all_goals ((repeat' split) <;> simp)

@[simp] theorem clearEstop_frame (s : State) :
    (clearEstop s).ft = s.ft ∧ (clearEstop s).ru = s.ru ∧ (clearEstop s).iu = s.iu ∧ (clearEstop s).cl = s.cl ∧
    (clearEstop s).cfg = s.cfg ∧ (clearEstop s).pins = s.pins ∧ (clearEstop s).pending = s.pending := by
  unfold clearEstop
  (try dsimp only)
  all_goals ((repeat' split) <;> simp)

@[simp] theorem zoneFrameTick_frame (s : State) :
    (zoneFrameTick s).ft = s.ft ∧ (zoneFrameTick s).ru = s.ru ∧ (zoneFrameTick s).iu = s.iu ∧ (zoneFrameTick
    s).cl = s.cl ∧ (zoneFrameTick s).cfg = s.cfg ∧ (zoneFrameTick s).pins = s.pins ∧ (zoneFrameTick s).pending =
    s.pending := by
  unfold zoneFrameTick
  (try dsimp only)
  all_goals ((repeat' split) <;> simp)

@[simp] theorem raiseStale_frame (s : State) :
    (raiseStale s).lif = s.lif ∧ (raiseStale s).ft = s.ft ∧ (raiseStale s).ru = s.ru ∧ (raiseStale s).chans =
    s.chans ∧ (raiseStale s).spl = s.spl ∧ (raiseStale s).dlu = s.dlu ∧ (raiseStale s).ss = s.ss ∧ (raiseStale
    s).pu = s.pu ∧ (raiseStale s).iu = s.iu ∧ (raiseStale s).zu = s.zu ∧ (raiseStale s).ts = s.ts ∧ (raiseStale
    s).tpr = s.tpr ∧ (raiseStale s).cl = s.cl ∧ (raiseStale s).cfg = s.cfg ∧ (raiseStale s).pins = s.pins ∧
    (raiseStale s).pending = s.pending := by
  unfold raiseStale
  (try dsimp only)
  all_goals ((repeat' split) <;> simp)

@[simp] theorem staleTick_frame (i : Nat) (s : State) :
    (staleTick i s).ft = s.ft ∧ (staleTick i s).ru = s.ru ∧ (staleTick i s).iu = s.iu ∧ (staleTick i s).zu =
    s.zu ∧ (staleTick i s).cl = s.cl ∧ (staleTick i s).cfg = s.cfg ∧ (staleTick i s).pins = s.pins ∧ (staleTick
    i s).pending = s.pending := by
  unfold staleTick
  (try dsimp only)
  all_goals ((repeat' split) <;> simp)

@[simp] theorem staleTicks_frame (is : List Nat) (s : State) :
    (staleTicks is s).ft = s.ft ∧ (staleTicks is s).ru = s.ru ∧ (staleTicks is s).iu = s.iu ∧ (staleTicks is
    s).zu = s.zu ∧ (staleTicks is s).cl = s.cl ∧ (staleTicks is s).cfg = s.cfg ∧ (staleTicks is s).pins = s.pins
    ∧ (staleTicks is s).pending = s.pending := by
  unfold staleTicks
  (try dsimp only)
  all_goals ((repeat' split) <;> simp)

@[simp] theorem endRound_frame (s : State) :
    (endRound s).ft = s.ft ∧ (endRound s).ru = s.ru ∧ (endRound s).iu = s.iu ∧ (endRound s).zu = s.zu ∧
    (endRound s).cl = s.cl ∧ (endRound s).cfg = s.cfg ∧ (endRound s).pins = s.pins ∧ (endRound s).pending =
    s.pending := by
  unfold endRound
  (try dsimp only)
  all_goals ((repeat' split) <;> simp)

@[simp] theorem pollTick_frame (s : State) :
    (pollTick s).ft = s.ft ∧ (pollTick s).ru = s.ru ∧ (pollTick s).iu = s.iu ∧ (pollTick s).zu = s.zu ∧
    (pollTick s).cl = s.cl ∧ (pollTick s).cfg = s.cfg ∧ (pollTick s).pins = s.pins ∧ (pollTick s).pending =
    s.pending := by
  unfold pollTick
  (try dsimp only)
  all_goals ((repeat' split) <;> simp)

@[simp] theorem readTakesLineNow_frame (s : State) :
    (readTakesLineNow s).lif = s.lif ∧ (readTakesLineNow s).ft = s.ft ∧ (readTakesLineNow s).ru = s.ru ∧
    (readTakesLineNow s).chans = s.chans ∧ (readTakesLineNow s).dlu = s.dlu ∧ (readTakesLineNow s).ss = s.ss ∧
    (readTakesLineNow s).pu = s.pu ∧ (readTakesLineNow s).iu = s.iu ∧ (readTakesLineNow s).zu = s.zu ∧
    (readTakesLineNow s).ts = s.ts ∧ (readTakesLineNow s).tpr = s.tpr ∧ (readTakesLineNow s).attention =
    s.attention ∧ (readTakesLineNow s).cl = s.cl ∧ (readTakesLineNow s).cfg = s.cfg ∧ (readTakesLineNow s).pins
    = s.pins ∧ (readTakesLineNow s).pending = s.pending := by
  unfold readTakesLineNow
  (try dsimp only)
  all_goals ((repeat' split) <;> simp)

@[simp] theorem pollNext_frame (c : Nat) (late : Bool) (s : State) :
    (pollNext c late s).lif = s.lif ∧ (pollNext c late s).ft = s.ft ∧ (pollNext c late s).ru = s.ru ∧ (pollNext
    c late s).chans = s.chans ∧ (pollNext c late s).dlu = s.dlu ∧ (pollNext c late s).ss = s.ss ∧ (pollNext c
    late s).pu = s.pu ∧ (pollNext c late s).iu = s.iu ∧ (pollNext c late s).zu = s.zu ∧ (pollNext c late s).ts =
    s.ts ∧ (pollNext c late s).tpr = s.tpr ∧ (pollNext c late s).attention = s.attention ∧ (pollNext c late
    s).cl = s.cl ∧ (pollNext c late s).cfg = s.cfg ∧ (pollNext c late s).pins = s.pins ∧ (pollNext c late
    s).pending = s.pending := by
  unfold pollNext
  (try dsimp only)
  all_goals ((repeat' split) <;> simp)

@[simp] theorem followCheck_frame (i : Nat) (s : State) :
    (followCheck i s).ft = s.ft ∧ (followCheck i s).ru = s.ru ∧ (followCheck i s).iu = s.iu ∧ (followCheck i
    s).zu = s.zu ∧ (followCheck i s).cl = s.cl ∧ (followCheck i s).cfg = s.cfg ∧ (followCheck i s).pins = s.pins
    ∧ (followCheck i s).pending = s.pending := by
  unfold followCheck
  (try dsimp only)
  all_goals ((repeat' split) <;> simp)

@[simp] theorem takeFresh_frame (i : Nat) (st : ReadStatus) (p : Int) (late : Bool) (s : State) :
    (takeFresh i st p late s).ft = s.ft ∧ (takeFresh i st p late s).ru = s.ru ∧ (takeFresh i st p late s).iu =
    s.iu ∧ (takeFresh i st p late s).zu = s.zu ∧ (takeFresh i st p late s).cl = s.cl ∧ (takeFresh i st p late
    s).cfg = s.cfg ∧ (takeFresh i st p late s).pins = s.pins ∧ (takeFresh i st p late s).pending = s.pending := by
  unfold takeFresh
  (try dsimp only)
  all_goals ((repeat' split) <;> simp)

@[simp] theorem takeFail_frame (i : Nat) (s : State) :
    (takeFail i s).ft = s.ft ∧ (takeFail i s).ru = s.ru ∧ (takeFail i s).iu = s.iu ∧ (takeFail i s).zu = s.zu ∧
    (takeFail i s).cl = s.cl ∧ (takeFail i s).cfg = s.cfg ∧ (takeFail i s).pins = s.pins ∧ (takeFail i
    s).pending = s.pending := by
  unfold takeFail
  (try dsimp only)
  all_goals ((repeat' split) <;> simp)

@[simp] theorem completeRead_frame (status : Status) (data : ReplyData) (s : State) :
    (completeRead status data s).ft = s.ft ∧ (completeRead status data s).ru = s.ru ∧ (completeRead status data
    s).chans = s.chans ∧ (completeRead status data s).dlu = s.dlu ∧ (completeRead status data s).ss = s.ss ∧
    (completeRead status data s).pu = s.pu ∧ (completeRead status data s).iu = s.iu ∧ (completeRead status data
    s).zu = s.zu ∧ (completeRead status data s).ts = s.ts ∧ (completeRead status data s).tpr = s.tpr ∧
    (completeRead status data s).cl = s.cl ∧ (completeRead status data s).cfg = s.cfg ∧ (completeRead status
    data s).pins = s.pins ∧ (completeRead status data s).pending = s.pending := by
  unfold completeRead
  (try dsimp only)
  all_goals ((repeat' split) <;> simp)

@[simp] theorem linkLost_frame (s : State) :
    (linkLost s).ft = s.ft ∧ (linkLost s).ru = s.ru ∧ (linkLost s).iu = s.iu ∧ (linkLost s).zu = s.zu ∧
    (linkLost s).cl = s.cl ∧ (linkLost s).cfg = s.cfg ∧ (linkLost s).pins = s.pins ∧ (linkLost s).pending =
    s.pending := by
  unfold linkLost
  (try dsimp only)
  all_goals ((repeat' split) <;> simp)

@[simp] theorem enterLoading_frame (s : State) :
    (enterLoading s).ts = s.ts ∧ (enterLoading s).cfg = { s.cfg with cross := [] } ∧ (enterLoading s).pins = s.pins ∧
    (enterLoading s).pending = s.pending := by
  unfold enterLoading
  (try dsimp only)
  all_goals ((repeat' split) <;> simp)

@[simp] theorem afterSuccess_frame (b : Body) (s : State) :
    (afterSuccess b s).ts = s.ts ∧ (afterSuccess b s).cfg.station = s.cfg.station ∧
    (afterSuccess b s).cfg.nChans = s.cfg.nChans ∧ (afterSuccess b s).pins = s.pins ∧
    (afterSuccess b s).pending = s.pending := by
  cases hb : b.factorCarried <;> simp only [afterSuccess, hb, Option.elim] <;> (repeat' split) <;> simp

@[simp] theorem countBad_frame (s : State) :
    (countBad s).ft = s.ft ∧ (countBad s).ru = s.ru ∧ (countBad s).chans = s.chans ∧ (countBad s).spl = s.spl ∧
    (countBad s).dlu = s.dlu ∧ (countBad s).ss = s.ss ∧ (countBad s).pu = s.pu ∧ (countBad s).iu = s.iu ∧
    (countBad s).zu = s.zu ∧ (countBad s).ts = s.ts ∧ (countBad s).tpr = s.tpr ∧ (countBad s).attention =
    s.attention ∧ (countBad s).cl = s.cl ∧ (countBad s).cfg = s.cfg ∧ (countBad s).pins = s.pins ∧ (countBad
    s).pending = s.pending := by
  unfold countBad
  (try dsimp only)
  all_goals ((repeat' split) <;> simp)

@[simp] theorem lineBusy_frame (s : State) :
    (lineBusy s).ft = s.ft ∧ (lineBusy s).ru = s.ru ∧ (lineBusy s).chans = s.chans ∧ (lineBusy s).spl = s.spl ∧
    (lineBusy s).dlu = s.dlu ∧ (lineBusy s).ss = s.ss ∧ (lineBusy s).pu = s.pu ∧ (lineBusy s).iu = s.iu ∧
    (lineBusy s).zu = s.zu ∧ (lineBusy s).ts = s.ts ∧ (lineBusy s).tpr = s.tpr ∧ (lineBusy s).attention =
    s.attention ∧ (lineBusy s).cl = s.cl ∧ (lineBusy s).cfg = s.cfg ∧ (lineBusy s).pins = s.pins ∧ (lineBusy
    s).pending = s.pending := by
  unfold lineBusy
  (try dsimp only)
  all_goals ((repeat' split) <;> simp)

@[simp] theorem lineFallsIdle_frame (s : State) :
    (lineFallsIdle s).ft = s.ft ∧ (lineFallsIdle s).ru = s.ru ∧ (lineFallsIdle s).chans = s.chans ∧
    (lineFallsIdle s).spl = s.spl ∧ (lineFallsIdle s).dlu = s.dlu ∧ (lineFallsIdle s).ss = s.ss ∧ (lineFallsIdle
    s).pu = s.pu ∧ (lineFallsIdle s).iu = s.iu ∧ (lineFallsIdle s).zu = s.zu ∧ (lineFallsIdle s).ts = s.ts ∧
    (lineFallsIdle s).tpr = s.tpr ∧ (lineFallsIdle s).attention = s.attention ∧ (lineFallsIdle s).cl = s.cl ∧
    (lineFallsIdle s).cfg = s.cfg ∧ (lineFallsIdle s).pins = s.pins ∧ (lineFallsIdle s).pending = s.pending := by
  unfold lineFallsIdle
  (try dsimp only)
  all_goals ((repeat' split) <;> simp)

@[simp] theorem impostor_frame (s : State) :
    (impostor s).ft = s.ft ∧ (impostor s).ru = s.ru ∧ (impostor s).iu = s.iu ∧ (impostor s).zu = s.zu ∧
    (impostor s).cl = s.cl ∧ (impostor s).cfg = s.cfg ∧ (impostor s).pins = s.pins ∧ (impostor s).pending =
    s.pending := by
  unfold impostor
  (try dsimp only)
  all_goals ((repeat' split) <;> simp)

@[simp] theorem linkQuietAtEight_frame (s : State) :
    (linkQuietAtEight s).lif = s.lif ∧ (linkQuietAtEight s).ft = s.ft ∧ (linkQuietAtEight s).ru = s.ru ∧
    (linkQuietAtEight s).chans = s.chans ∧ (linkQuietAtEight s).spl = s.spl ∧ (linkQuietAtEight s).dlu = s.dlu ∧
    (linkQuietAtEight s).ss = s.ss ∧ (linkQuietAtEight s).pu = s.pu ∧ (linkQuietAtEight s).iu = s.iu ∧
    (linkQuietAtEight s).zu = s.zu ∧ (linkQuietAtEight s).ts = s.ts ∧ (linkQuietAtEight s).tpr = s.tpr ∧
    (linkQuietAtEight s).cl = s.cl ∧ (linkQuietAtEight s).cfg = s.cfg ∧ (linkQuietAtEight s).pins = s.pins ∧
    (linkQuietAtEight s).pending = s.pending := by
  unfold linkQuietAtEight
  (try dsimp only)
  all_goals ((repeat' split) <;> simp)

@[simp] theorem countQuiet_frame (s : State) :
    (countQuiet s).ft = s.ft ∧ (countQuiet s).ru = s.ru ∧ (countQuiet s).chans = s.chans ∧ (countQuiet s).spl =
    s.spl ∧ (countQuiet s).dlu = s.dlu ∧ (countQuiet s).ss = s.ss ∧ (countQuiet s).pu = s.pu ∧ (countQuiet s).iu
    = s.iu ∧ (countQuiet s).zu = s.zu ∧ (countQuiet s).ts = s.ts ∧ (countQuiet s).tpr = s.tpr ∧ (countQuiet
    s).cl = s.cl ∧ (countQuiet s).cfg = s.cfg ∧ (countQuiet s).pins = s.pins ∧ (countQuiet s).pending =
    s.pending := by
  unfold countQuiet
  (try dsimp only)
  all_goals ((repeat' split) <;> simp)

@[simp] theorem countDup_frame (s : State) :
    (countDup s).ft = s.ft ∧ (countDup s).ru = s.ru ∧ (countDup s).chans = s.chans ∧ (countDup s).spl = s.spl ∧
    (countDup s).dlu = s.dlu ∧ (countDup s).ss = s.ss ∧ (countDup s).pu = s.pu ∧ (countDup s).iu = s.iu ∧
    (countDup s).zu = s.zu ∧ (countDup s).ts = s.ts ∧ (countDup s).tpr = s.tpr ∧ (countDup s).attention =
    s.attention ∧ (countDup s).cl = s.cl ∧ (countDup s).cfg = s.cfg ∧ (countDup s).pins = s.pins ∧ (countDup
    s).pending = s.pending := by
  unfold countDup
  (try dsimp only)
  all_goals ((repeat' split) <;> simp)

@[simp] theorem clearOverflow_frame (s : State) :
    (clearOverflow s).lif = s.lif ∧ (clearOverflow s).ft = s.ft ∧ (clearOverflow s).ru = s.ru ∧ (clearOverflow
    s).chans = s.chans ∧ (clearOverflow s).spl = s.spl ∧ (clearOverflow s).dlu = s.dlu ∧ (clearOverflow s).pu =
    s.pu ∧ (clearOverflow s).iu = s.iu ∧ (clearOverflow s).zu = s.zu ∧ (clearOverflow s).ts = s.ts ∧
    (clearOverflow s).tpr = s.tpr ∧ (clearOverflow s).attention = s.attention ∧ (clearOverflow s).cl = s.cl ∧
    (clearOverflow s).cfg = s.cfg ∧ (clearOverflow s).pins = s.pins ∧ (clearOverflow s).pending = s.pending := by
  unfold clearOverflow
  (try dsimp only)
  all_goals ((repeat' split) <;> simp)

@[simp] theorem countOverflow_frame (s : State) :
    (countOverflow s).lif = s.lif ∧ (countOverflow s).ft = s.ft ∧ (countOverflow s).ru = s.ru ∧ (countOverflow
    s).chans = s.chans ∧ (countOverflow s).spl = s.spl ∧ (countOverflow s).dlu = s.dlu ∧ (countOverflow s).pu =
    s.pu ∧ (countOverflow s).iu = s.iu ∧ (countOverflow s).zu = s.zu ∧ (countOverflow s).ts = s.ts ∧
    (countOverflow s).tpr = s.tpr ∧ (countOverflow s).attention = s.attention ∧ (countOverflow s).cl = s.cl ∧
    (countOverflow s).cfg = s.cfg ∧ (countOverflow s).pins = s.pins ∧ (countOverflow s).pending = s.pending := by
  unfold countOverflow
  (try dsimp only)
  all_goals ((repeat' split) <;> simp)

@[simp] theorem rollCall_frame (s : State) :
    (rollCall s).ft = s.ft ∧ (rollCall s).ru = s.ru ∧ (rollCall s).chans = s.chans ∧ (rollCall s).spl = s.spl ∧
    (rollCall s).dlu = s.dlu ∧ (rollCall s).ss = s.ss ∧ (rollCall s).pu = s.pu ∧ (rollCall s).iu = s.iu ∧
    (rollCall s).zu = s.zu ∧ (rollCall s).ts = s.ts ∧ (rollCall s).tpr = s.tpr ∧ (rollCall s).cl = s.cl ∧
    (rollCall s).cfg = s.cfg ∧ (rollCall s).pins = s.pins ∧ (rollCall s).pending = s.pending := by
  unfold rollCall
  (try dsimp only)
  all_goals ((repeat' split) <;> simp)

@[simp] theorem endEnable_frame (s : State) :
    (endEnable s).lif = s.lif ∧ (endEnable s).ft = s.ft ∧ (endEnable s).ru = s.ru ∧ (endEnable s).chans =
    s.chans ∧ (endEnable s).spl = s.spl ∧ (endEnable s).pu = s.pu ∧ (endEnable s).iu = s.iu ∧ (endEnable s).zu =
    s.zu ∧ (endEnable s).ts = s.ts ∧ (endEnable s).tpr = s.tpr ∧ (endEnable s).attention = s.attention ∧
    (endEnable s).cl = s.cl ∧ (endEnable s).cfg = s.cfg ∧ (endEnable s).pins = s.pins ∧ (endEnable s).pending =
    s.pending := by
  unfold endEnable
  (try dsimp only)
  all_goals ((repeat' split) <;> simp)

@[simp] theorem endRelease_frame (s : State) :
    (endRelease s).ft = s.ft ∧ (endRelease s).ru = s.ru ∧ (endRelease s).chans = s.chans ∧ (endRelease s).spl =
    s.spl ∧ (endRelease s).dlu = s.dlu ∧ (endRelease s).pu = s.pu ∧ (endRelease s).iu = s.iu ∧ (endRelease s).zu
    = s.zu ∧ (endRelease s).ts = s.ts ∧ (endRelease s).tpr = s.tpr ∧ (endRelease s).cl = s.cl ∧ (endRelease
    s).cfg = s.cfg ∧ (endRelease s).pins = s.pins ∧ (endRelease s).pending = s.pending := by
  unfold endRelease
  (try dsimp only)
  all_goals ((repeat' split) <;> simp)

@[simp] theorem endBrakeSet_frame (s : State) :
    (endBrakeSet s).ft = s.ft ∧ (endBrakeSet s).ru = s.ru ∧ (endBrakeSet s).iu = s.iu ∧ (endBrakeSet s).zu =
    s.zu ∧ (endBrakeSet s).cl = s.cl ∧ (endBrakeSet s).cfg = s.cfg ∧ (endBrakeSet s).pins = s.pins ∧
    (endBrakeSet s).pending = s.pending := by
  unfold endBrakeSet
  (try dsimp only)
  all_goals ((repeat' split) <;> simp)

@[simp] theorem brakeTick_frame (s : State) :
    (brakeTick s).ft = s.ft ∧ (brakeTick s).ru = s.ru ∧ (brakeTick s).iu = s.iu ∧ (brakeTick s).zu = s.zu ∧
    (brakeTick s).cl = s.cl ∧ (brakeTick s).cfg = s.cfg ∧ (brakeTick s).pins = s.pins ∧ (brakeTick s).pending =
    s.pending := by
  unfold brakeTick
  (try dsimp only)
  all_goals ((repeat' split) <;> simp)

@[simp] theorem parkIfDue_frame (s : State) :
    (parkIfDue s).ft = s.ft ∧ (parkIfDue s).dlu = s.dlu ∧ (parkIfDue s).iu = s.iu ∧ (parkIfDue s).zu = s.zu ∧
    (parkIfDue s).ts = s.ts ∧ (parkIfDue s).attention = s.attention ∧ (parkIfDue s).cfg = s.cfg ∧ (parkIfDue
    s).pins = s.pins ∧ (parkIfDue s).pending = s.pending := by
  unfold parkIfDue
  (try dsimp only)
  all_goals ((repeat' split) <;> simp)

@[simp] theorem restartIfDue_frame (s : State) :
    (restartIfDue s).ts = s.ts ∧ (restartIfDue s).cfg.station = s.cfg.station ∧
    (restartIfDue s).cfg.nChans = s.cfg.nChans ∧ (restartIfDue s).pins = s.pins ∧ (restartIfDue
    s).pending = s.pending := by
  unfold restartIfDue
  (try dsimp only)
  all_goals ((repeat' split) <;> simp)

@[simp] theorem countPark_frame (s : State) :
    (countPark s).ft = s.ft ∧ (countPark s).dlu = s.dlu ∧ (countPark s).iu = s.iu ∧ (countPark s).zu = s.zu ∧
    (countPark s).ts = s.ts ∧ (countPark s).attention = s.attention ∧ (countPark s).cfg = s.cfg ∧ (countPark
    s).pins = s.pins ∧ (countPark s).pending = s.pending := by
  unfold countPark
  (try dsimp only)
  all_goals ((repeat' split) <;> simp)

@[simp] theorem countRestart_frame (s : State) :
    (countRestart s).ts = s.ts ∧ (countRestart s).cfg.station = s.cfg.station ∧
    (countRestart s).cfg.nChans = s.cfg.nChans ∧ (countRestart s).pins = s.pins ∧ (countRestart
    s).pending = s.pending := by
  unfold countRestart
  (try dsimp only)
  all_goals ((repeat' split) <;> simp)

@[simp] theorem endPunch_frame (s : State) :
    (endPunch s).lif = s.lif ∧ (endPunch s).ft = s.ft ∧ (endPunch s).ru = s.ru ∧ (endPunch s).spl = s.spl ∧
    (endPunch s).dlu = s.dlu ∧ (endPunch s).ss = s.ss ∧ (endPunch s).pu = s.pu ∧ (endPunch s).iu = s.iu ∧
    (endPunch s).zu = s.zu ∧ (endPunch s).ts = s.ts ∧ (endPunch s).attention = s.attention ∧ (endPunch s).cl =
    s.cl ∧ (endPunch s).cfg = s.cfg ∧ (endPunch s).pins = s.pins ∧ (endPunch s).pending = s.pending := by
  unfold endPunch
  (try dsimp only)
  all_goals ((repeat' split) <;> simp)

@[simp] theorem abortTake_frame (s : State) :
    (abortTake s).ft = s.ft ∧ (abortTake s).ru = s.ru ∧ (abortTake s).spl = s.spl ∧ (abortTake s).dlu = s.dlu ∧
    (abortTake s).ss = s.ss ∧ (abortTake s).iu = s.iu ∧ (abortTake s).zu = s.zu ∧ (abortTake s).cl = s.cl ∧
    (abortTake s).cfg = s.cfg ∧ (abortTake s).pins = s.pins ∧ (abortTake s).pending = s.pending := by
  unfold abortTake
  (try dsimp only)
  all_goals ((repeat' split) <;> simp)

@[simp] theorem abortIfDue_frame (s : State) :
    (abortIfDue s).ft = s.ft ∧ (abortIfDue s).ru = s.ru ∧ (abortIfDue s).spl = s.spl ∧ (abortIfDue s).dlu =
    s.dlu ∧ (abortIfDue s).ss = s.ss ∧ (abortIfDue s).iu = s.iu ∧ (abortIfDue s).zu = s.zu ∧ (abortIfDue s).cl =
    s.cl ∧ (abortIfDue s).cfg = s.cfg ∧ (abortIfDue s).pins = s.pins ∧ (abortIfDue s).pending = s.pending := by
  unfold abortIfDue
  (try dsimp only)
  all_goals ((repeat' split) <;> simp)

@[simp] theorem enterPlaying_frame (id : Nat) (s : State) :
    (enterPlaying id s).ft = s.ft ∧ (enterPlaying id s).ru = s.ru ∧ (enterPlaying id s).spl = s.spl ∧
    (enterPlaying id s).dlu = s.dlu ∧ (enterPlaying id s).ss = s.ss ∧ (enterPlaying id s).pu = s.pu ∧
    (enterPlaying id s).iu = s.iu ∧ (enterPlaying id s).zu = s.zu ∧ (enterPlaying id s).ts = s.ts ∧
    (enterPlaying id s).cl = s.cl ∧ (enterPlaying id s).cfg = s.cfg ∧ (enterPlaying id s).pins = s.pins ∧
    (enterPlaying id s).pending = s.pending := by
  unfold enterPlaying
  (try dsimp only)
  all_goals ((repeat' split) <;> simp)

@[simp] theorem startUnqualified_frame (id : Nat) (s : State) :
    (startUnqualified id s).ft = s.ft ∧ (startUnqualified id s).ru = s.ru ∧ (startUnqualified id s).spl = s.spl
    ∧ (startUnqualified id s).dlu = s.dlu ∧ (startUnqualified id s).ss = s.ss ∧ (startUnqualified id s).iu =
    s.iu ∧ (startUnqualified id s).zu = s.zu ∧ (startUnqualified id s).cl = s.cl ∧ (startUnqualified id s).cfg =
    s.cfg ∧ (startUnqualified id s).pins = s.pins ∧ (startUnqualified id s).pending = s.pending := by
  unfold startUnqualified
  (try dsimp only)
  all_goals ((repeat' split) <;> simp)

@[simp] theorem startIfDue_frame (s : State) :
    (startIfDue s).ft = s.ft ∧ (startIfDue s).ru = s.ru ∧ (startIfDue s).spl = s.spl ∧ (startIfDue s).dlu =
    s.dlu ∧ (startIfDue s).ss = s.ss ∧ (startIfDue s).iu = s.iu ∧ (startIfDue s).zu = s.zu ∧ (startIfDue s).cl =
    s.cl ∧ (startIfDue s).cfg = s.cfg ∧ (startIfDue s).pins = s.pins ∧ (startIfDue s).pending = s.pending := by
  unfold startIfDue
  (try dsimp only)
  all_goals ((repeat' split) <;> simp)

@[simp] theorem turnGoal_frame (g : FrameNo) (i : Nat) (s : State) :
    (turnGoal g i s).lif = s.lif ∧ (turnGoal g i s).ft = s.ft ∧ (turnGoal g i s).ru = s.ru ∧ (turnGoal g i
    s).spl = s.spl ∧ (turnGoal g i s).dlu = s.dlu ∧ (turnGoal g i s).ss = s.ss ∧ (turnGoal g i s).pu = s.pu ∧
    (turnGoal g i s).iu = s.iu ∧ (turnGoal g i s).zu = s.zu ∧ (turnGoal g i s).ts = s.ts ∧ (turnGoal g i
    s).attention = s.attention ∧ (turnGoal g i s).cl = s.cl ∧ (turnGoal g i s).cfg = s.cfg ∧ (turnGoal g i
    s).pins = s.pins ∧ (turnGoal g i s).pending = s.pending := by
  unfold turnGoal
  (try dsimp only)
  all_goals ((repeat' split) <;> simp)

@[simp] theorem turnGoals_frame (g : FrameNo) (s : State) :
    (turnGoals g s).lif = s.lif ∧ (turnGoals g s).ft = s.ft ∧ (turnGoals g s).ru = s.ru ∧ (turnGoals g s).spl =
    s.spl ∧ (turnGoals g s).dlu = s.dlu ∧ (turnGoals g s).ss = s.ss ∧ (turnGoals g s).pu = s.pu ∧ (turnGoals g
    s).iu = s.iu ∧ (turnGoals g s).zu = s.zu ∧ (turnGoals g s).ts = s.ts ∧ (turnGoals g s).attention =
    s.attention ∧ (turnGoals g s).cl = s.cl ∧ (turnGoals g s).cfg = s.cfg ∧ (turnGoals g s).pins = s.pins ∧
    (turnGoals g s).pending = s.pending := by
  unfold turnGoals
  (try dsimp only)
  all_goals ((repeat' split) <;> simp)

@[simp] theorem timeOutLive_frame (s : State) :
    (timeOutLive s).lif = s.lif ∧ (timeOutLive s).ft = s.ft ∧ (timeOutLive s).ru = s.ru ∧ (timeOutLive s).spl =
    s.spl ∧ (timeOutLive s).dlu = s.dlu ∧ (timeOutLive s).ss = s.ss ∧ (timeOutLive s).pu = s.pu ∧ (timeOutLive
    s).iu = s.iu ∧ (timeOutLive s).zu = s.zu ∧ (timeOutLive s).ts = s.ts ∧ (timeOutLive s).cl = s.cl ∧
    (timeOutLive s).cfg = s.cfg ∧ (timeOutLive s).pins = s.pins ∧ (timeOutLive s).pending = s.pending := by
  unfold timeOutLive
  (try dsimp only)
  all_goals ((repeat' split) <;> simp)

@[simp] theorem turnMarks_frame (g : FrameNo) (s : State) :
    (turnMarks g s).lif = s.lif ∧ (turnMarks g s).ft = s.ft ∧ (turnMarks g s).ru = s.ru ∧ (turnMarks g s).chans
    = s.chans ∧ (turnMarks g s).spl = s.spl ∧ (turnMarks g s).dlu = s.dlu ∧ (turnMarks g s).ss = s.ss ∧
    (turnMarks g s).pu = s.pu ∧ (turnMarks g s).iu = s.iu ∧ (turnMarks g s).zu = s.zu ∧ (turnMarks g s).ts =
    s.ts ∧ (turnMarks g s).attention = s.attention ∧ (turnMarks g s).cl = s.cl ∧ (turnMarks g s).cfg = s.cfg ∧
    (turnMarks g s).pins = s.pins ∧ (turnMarks g s).pending = s.pending := by
  unfold turnMarks
  (try dsimp only)
  all_goals ((repeat' split) <;> simp)

@[simp] theorem advanceBase_frame (s : State) :
    (advanceBase s).lif = s.lif ∧ (advanceBase s).ft = s.ft ∧ (advanceBase s).ru = s.ru ∧ (advanceBase s).chans
    = s.chans ∧ (advanceBase s).spl = s.spl ∧ (advanceBase s).dlu = s.dlu ∧ (advanceBase s).ss = s.ss ∧
    (advanceBase s).pu = s.pu ∧ (advanceBase s).iu = s.iu ∧ (advanceBase s).zu = s.zu ∧ (advanceBase s).ts =
    s.ts ∧ (advanceBase s).attention = s.attention ∧ (advanceBase s).cl = s.cl ∧ (advanceBase s).cfg = s.cfg ∧
    (advanceBase s).pins = s.pins ∧ (advanceBase s).pending = s.pending := by
  unfold advanceBase
  (try dsimp only)
  all_goals ((repeat' split) <;> simp)

@[simp] theorem easeOn_frame (s : State) :
    (easeOn s).lif = s.lif ∧ (easeOn s).ft = s.ft ∧ (easeOn s).ru = s.ru ∧ (easeOn s).chans = s.chans ∧ (easeOn
    s).spl = s.spl ∧ (easeOn s).dlu = s.dlu ∧ (easeOn s).ss = s.ss ∧ (easeOn s).iu = s.iu ∧ (easeOn s).zu = s.zu
    ∧ (easeOn s).ts = s.ts ∧ (easeOn s).tpr = s.tpr ∧ (easeOn s).attention = s.attention ∧ (easeOn s).cl = s.cl
    ∧ (easeOn s).cfg = s.cfg ∧ (easeOn s).pins = s.pins ∧ (easeOn s).pending = s.pending := by
  unfold easeOn
  (try dsimp only)
  all_goals ((repeat' split) <;> simp)

@[simp] theorem loseReference_frame (s : State) :
    (loseReference s).lif = s.lif ∧ (loseReference s).ru = s.ru ∧ (loseReference s).chans = s.chans ∧
    (loseReference s).spl = s.spl ∧ (loseReference s).dlu = s.dlu ∧ (loseReference s).ss = s.ss ∧ (loseReference
    s).pu = s.pu ∧ (loseReference s).iu = s.iu ∧ (loseReference s).zu = s.zu ∧ (loseReference s).ts = s.ts ∧
    (loseReference s).tpr = s.tpr ∧ (loseReference s).cl = s.cl ∧ (loseReference s).cfg = s.cfg ∧ (loseReference
    s).pins = s.pins ∧ (loseReference s).pending = s.pending := by
  unfold loseReference
  (try dsimp only)
  all_goals ((repeat' split) <;> simp)

@[simp] theorem watchCycles_frame (k : Nat) (s : State) :
    (watchCycles k s).lif = s.lif ∧ (watchCycles k s).ru = s.ru ∧ (watchCycles k s).chans = s.chans ∧
    (watchCycles k s).spl = s.spl ∧ (watchCycles k s).dlu = s.dlu ∧ (watchCycles k s).ss = s.ss ∧ (watchCycles k
    s).pu = s.pu ∧ (watchCycles k s).iu = s.iu ∧ (watchCycles k s).zu = s.zu ∧ (watchCycles k s).ts = s.ts ∧
    (watchCycles k s).tpr = s.tpr ∧ (watchCycles k s).cl = s.cl ∧ (watchCycles k s).cfg = s.cfg ∧ (watchCycles k
    s).pins = s.pins ∧ (watchCycles k s).pending = s.pending := by
  unfold watchCycles
  (try dsimp only)
  all_goals ((repeat' split) <;> simp)

@[simp] theorem sampleFault_frame (active : Bool) (i : Nat) (s : State) :
    (sampleFault active i s).ft = s.ft ∧ (sampleFault active i s).ru = s.ru ∧ (sampleFault active i s).iu = s.iu
    ∧ (sampleFault active i s).zu = s.zu ∧ (sampleFault active i s).cl = s.cl ∧ (sampleFault active i s).cfg =
    s.cfg ∧ (sampleFault active i s).pins = s.pins ∧ (sampleFault active i s).pending = s.pending := by
  unfold sampleFault
  (try dsimp only)
  all_goals ((repeat' split) <;> simp)

@[simp] theorem sampleFaults_frame (l : LineLevels) (s : State) :
    (sampleFaults l s).ft = s.ft ∧ (sampleFaults l s).ru = s.ru ∧ (sampleFaults l s).iu = s.iu ∧ (sampleFaults l
    s).zu = s.zu ∧ (sampleFaults l s).cl = s.cl ∧ (sampleFaults l s).cfg = s.cfg ∧ (sampleFaults l s).pins =
    s.pins ∧ (sampleFaults l s).pending = s.pending := by
  unfold sampleFaults
  (try dsimp only)
  all_goals ((repeat' split) <;> simp)

@[simp] theorem sampleLow_frame (a : Bool) (i : Nat) (s : State) :
    (sampleLow a i s).ft = s.ft ∧ (sampleLow a i s).ru = s.ru ∧ (sampleLow a i s).iu = s.iu ∧ (sampleLow a i
    s).zu = s.zu ∧ (sampleLow a i s).cl = s.cl ∧ (sampleLow a i s).cfg = s.cfg ∧ (sampleLow a i s).pins = s.pins
    ∧ (sampleLow a i s).pending = s.pending := by
  unfold sampleLow
  (try dsimp only)
  all_goals ((repeat' split) <;> simp)

@[simp] theorem sampleHigh_frame (a : Bool) (i : Nat) (s : State) :
    (sampleHigh a i s).ft = s.ft ∧ (sampleHigh a i s).ru = s.ru ∧ (sampleHigh a i s).iu = s.iu ∧ (sampleHigh a i
    s).zu = s.zu ∧ (sampleHigh a i s).cl = s.cl ∧ (sampleHigh a i s).cfg = s.cfg ∧ (sampleHigh a i s).pins =
    s.pins ∧ (sampleHigh a i s).pending = s.pending := by
  unfold sampleHigh
  (try dsimp only)
  all_goals ((repeat' split) <;> simp)

@[simp] theorem sampleLimits_frame (l : LineLevels) (s : State) :
    (sampleLimits l s).ft = s.ft ∧ (sampleLimits l s).ru = s.ru ∧ (sampleLimits l s).iu = s.iu ∧ (sampleLimits l
    s).zu = s.zu ∧ (sampleLimits l s).cl = s.cl ∧ (sampleLimits l s).cfg = s.cfg ∧ (sampleLimits l s).pins =
    s.pins ∧ (sampleLimits l s).pending = s.pending := by
  unfold sampleLimits
  (try dsimp only)
  all_goals ((repeat' split) <;> simp)

@[simp] theorem sampleSafetyLines_frame (l : LineLevels) (s : State) :
    (sampleSafetyLines l s).ft = s.ft ∧ (sampleSafetyLines l s).ru = s.ru ∧ (sampleSafetyLines l s).iu = s.iu ∧
    (sampleSafetyLines l s).cl = s.cl ∧ (sampleSafetyLines l s).cfg = s.cfg ∧ (sampleSafetyLines l s).pins =
    s.pins ∧ (sampleSafetyLines l s).pending = s.pending := by
  unfold sampleSafetyLines
  (try dsimp only)
  all_goals ((repeat' split) <;> simp)

@[simp] theorem brakeIfBegun_frame (before : TickStart) (s : State) :
    (brakeIfBegun before s).ft = s.ft ∧ (brakeIfBegun before s).ru = s.ru ∧ (brakeIfBegun before s).iu = s.iu ∧
    (brakeIfBegun before s).zu = s.zu ∧ (brakeIfBegun before s).cl = s.cl ∧ (brakeIfBegun before s).cfg = s.cfg ∧
    (brakeIfBegun before s).pins = s.pins ∧ (brakeIfBegun before s).pending = s.pending := by
  unfold brakeIfBegun
  split <;> simp

@[simp] theorem noteReports_frame (s : State) :
    (noteReports s).lif = s.lif ∧ (noteReports s).ft = s.ft ∧ (noteReports s).ru = s.ru ∧ (noteReports s).spl = s.spl ∧
    (noteReports s).dlu = s.dlu ∧ (noteReports s).ss = s.ss ∧ (noteReports s).pu = s.pu ∧ (noteReports s).iu = s.iu ∧
    (noteReports s).zu = s.zu ∧ (noteReports s).ts = s.ts ∧ (noteReports s).tpr = s.tpr ∧
    (noteReports s).attention = s.attention ∧ (noteReports s).cl = s.cl ∧ (noteReports s).cfg = s.cfg ∧
    (noteReports s).pins = s.pins ∧ (noteReports s).pending = s.pending := by
  unfold noteReports
  simp

@[simp] theorem tickWork_frame (before : TickStart) (l : LineLevels) (j : Nat) (w : TickWork) (s : State) :
    (tickWork before l j w s).ft = s.ft ∧ (tickWork before l j w s).ru = s.ru ∧ (tickWork before l j w s).iu =
    s.iu ∧ (tickWork before l j w s).cl = s.cl ∧ (tickWork before l j w s).cfg = s.cfg ∧ (tickWork before l j w
    s).pins = s.pins ∧ (tickWork before l j w s).pending = s.pending := by
  cases w <;> simp only [tickWork, inOpen]
  all_goals ((repeat' split) <;> simp)

@[simp] theorem doWork_frame (before : TickStart) (l : LineLevels) (j : Nat) (ws : List TickWork) (s : State) :
    (doWork before l j ws s).ft = s.ft ∧ (doWork before l j ws s).ru = s.ru ∧ (doWork before l j ws s).iu = s.iu
    ∧ (doWork before l j ws s).cl = s.cl ∧ (doWork before l j ws s).cfg = s.cfg ∧ (doWork before l j ws
    s).pending = s.pending := by
  unfold doWork
  (try dsimp only)
  all_goals ((repeat' split) <;> simp)

@[simp] theorem beginFrame_frame (s : State) :
    (beginFrame s).lif = s.lif ∧ (beginFrame s).ru = s.ru ∧ (beginFrame s).chans = s.chans ∧ (beginFrame s).spl
    = s.spl ∧ (beginFrame s).dlu = s.dlu ∧ (beginFrame s).ss = s.ss ∧ (beginFrame s).pu = s.pu ∧ (beginFrame
    s).iu = s.iu ∧ (beginFrame s).zu = s.zu ∧ (beginFrame s).ts = s.ts ∧ (beginFrame s).tpr = s.tpr ∧
    (beginFrame s).cl = s.cl ∧ (beginFrame s).cfg = s.cfg ∧ (beginFrame s).pins = s.pins ∧ (beginFrame
    s).pending = s.pending := by
  unfold beginFrame
  (try dsimp only)
  all_goals ((repeat' split) <;> simp)

@[simp] theorem alignFrame_frame (s : State) :
    (alignFrame s).ft = s.ft ∧ (alignFrame s).cl = s.cl ∧ (alignFrame s).cfg = s.cfg ∧ (alignFrame s).pins =
    s.pins ∧ (alignFrame s).pending = s.pending := by
  unfold alignFrame
  (try dsimp only)
  all_goals ((repeat' split) <;> simp)

@[simp] theorem composeFirst_frame (before : State) (order : List TickWork) (s : State) :
    (composeFirst before order s).ft = s.ft ∧ (composeFirst before order s).ru = s.ru ∧
    (composeFirst before order s).chans = s.chans ∧ (composeFirst before order s).spl = s.spl ∧
    (composeFirst before order s).dlu = s.dlu ∧ (composeFirst before order s).ss = s.ss ∧
    (composeFirst before order s).pu = s.pu ∧ (composeFirst before order s).iu = s.iu ∧
    (composeFirst before order s).zu = s.zu ∧ (composeFirst before order s).ts = s.ts ∧
    (composeFirst before order s).tpr = s.tpr ∧ (composeFirst before order s).cl = s.cl ∧
    (composeFirst before order s).cfg = s.cfg ∧ (composeFirst before order s).pins = s.pins ∧
    (composeFirst before order s).pending = s.pending := by
  unfold composeFirst
  split <;> simp

@[simp] theorem frameTick_frame (before : State) (l : LineLevels) (order : List TickWork) (s0 : State) :
    (frameTick before l order s0).cfg.station = s0.cfg.station ∧
    (frameTick before l order s0).cfg.nChans = s0.cfg.nChans ∧ (frameTick before l order s0).pending = s0.pending := by
  unfold frameTick
  (try dsimp only)
  all_goals ((repeat' split) <;> simp)

/-- Without a pending RESTART the frame counts nothing for one. -/
@[simp] theorem countRestart_none (s : State) (h : s.cl.restartPending = false) : countRestart s = s := by
  simp [countRestart, h]

@[simp] theorem restartFromEdge_frame (s : State) :
    (restartFromEdge s).lif = s.lif ∧ (restartFromEdge s).ru = s.ru ∧ (restartFromEdge s).chans = s.chans ∧
    (restartFromEdge s).spl = s.spl ∧ (restartFromEdge s).dlu = s.dlu ∧ (restartFromEdge s).ss = s.ss ∧
    (restartFromEdge s).pu = s.pu ∧ (restartFromEdge s).iu = s.iu ∧ (restartFromEdge s).zu = s.zu ∧
    (restartFromEdge s).ts = s.ts ∧ (restartFromEdge s).tpr = s.tpr ∧ (restartFromEdge s).attention =
    s.attention ∧ (restartFromEdge s).cl = s.cl ∧ (restartFromEdge s).cfg = s.cfg ∧ (restartFromEdge s).pins =
    s.pins ∧ (restartFromEdge s).pending = s.pending := by
  unfold restartFromEdge
  (try dsimp only)
  all_goals ((repeat' split) <;> simp)

@[simp] theorem validFrom_frame (station : Nat) (s : State) :
    (validFrom station s).ft = s.ft ∧ (validFrom station s).chans = s.chans ∧ (validFrom station s).spl = s.spl
    ∧ (validFrom station s).dlu = s.dlu ∧ (validFrom station s).ss = s.ss ∧ (validFrom station s).pu = s.pu ∧
    (validFrom station s).iu = s.iu ∧ (validFrom station s).zu = s.zu ∧ (validFrom station s).ts = s.ts ∧
    (validFrom station s).tpr = s.tpr ∧ (validFrom station s).cl = s.cl ∧ (validFrom station s).cfg = s.cfg ∧
    (validFrom station s).pins = s.pins ∧ (validFrom station s).pending = s.pending := by
  unfold validFrom
  (try dsimp only)
  all_goals ((repeat' split) <;> simp)

@[simp] theorem takeClaim_frame (o : Nat) (cause : Nat) (detail : Nat) (s : State) :
    (takeClaim o cause detail s).ft = s.ft ∧ (takeClaim o cause detail s).ru = s.ru ∧ (takeClaim o cause detail
    s).spl = s.spl ∧ (takeClaim o cause detail s).dlu = s.dlu ∧ (takeClaim o cause detail s).iu = s.iu ∧
    (takeClaim o cause detail s).zu = s.zu ∧ (takeClaim o cause detail s).cl = s.cl ∧ (takeClaim o cause detail
    s).cfg = s.cfg ∧ (takeClaim o cause detail s).pins = s.pins ∧ (takeClaim o cause detail s).pending =
    s.pending := by
  unfold takeClaim
  cases State.admittedCause s o cause <;> simp

@[simp] theorem takeClear_frame (o : Nat) (cause : Nat) (s : State) :
    (takeClear o cause s).lif = s.lif ∧ (takeClear o cause s).ft = s.ft ∧ (takeClear o cause s).ru = s.ru ∧
    (takeClear o cause s).chans = s.chans ∧ (takeClear o cause s).spl = s.spl ∧ (takeClear o cause s).dlu =
    s.dlu ∧ (takeClear o cause s).pu = s.pu ∧ (takeClear o cause s).iu = s.iu ∧ (takeClear o cause s).zu = s.zu
    ∧ (takeClear o cause s).ts = s.ts ∧ (takeClear o cause s).tpr = s.tpr ∧ (takeClear o cause s).attention =
    s.attention ∧ (takeClear o cause s).cl = s.cl ∧ (takeClear o cause s).cfg = s.cfg ∧ (takeClear o cause
    s).pins = s.pins ∧ (takeClear o cause s).pending = s.pending := by
  unfold takeClear
  cases Cause.ofCode cause <;> simp

@[simp] theorem takeRoll_frame (o : Nat) (more : Bool) (pairs : List (Byte × Byte)) (s : State) :
    (takeRoll o more pairs s).ft = s.ft ∧ (takeRoll o more pairs s).ru = s.ru ∧ (takeRoll o more pairs s).spl =
    s.spl ∧ (takeRoll o more pairs s).dlu = s.dlu ∧ (takeRoll o more pairs s).iu = s.iu ∧ (takeRoll o more pairs
    s).zu = s.zu ∧ (takeRoll o more pairs s).cl = s.cl ∧ (takeRoll o more pairs s).cfg = s.cfg ∧ (takeRoll o
    more pairs s).pins = s.pins ∧ (takeRoll o more pairs s).pending = s.pending := by
  unfold takeRoll
  (try dsimp only)
  all_goals ((repeat' split) <;> simp)

@[simp] theorem takeAbort_frame (id : Nat) (d : FrameNo) (s : State) :
    (takeAbort id d s).lif = s.lif ∧ (takeAbort id d s).ft = s.ft ∧ (takeAbort id d s).ru = s.ru ∧ (takeAbort id
    d s).chans = s.chans ∧ (takeAbort id d s).spl = s.spl ∧ (takeAbort id d s).dlu = s.dlu ∧ (takeAbort id d
    s).ss = s.ss ∧ (takeAbort id d s).pu = s.pu ∧ (takeAbort id d s).iu = s.iu ∧ (takeAbort id d s).zu = s.zu ∧
    (takeAbort id d s).ts = s.ts ∧ (takeAbort id d s).attention = s.attention ∧ (takeAbort id d s).cl = s.cl ∧
    (takeAbort id d s).cfg = s.cfg ∧ (takeAbort id d s).pins = s.pins ∧ (takeAbort id d s).pending = s.pending := by
  unfold takeAbort
  (try dsimp only)
  all_goals ((repeat' split) <;> simp)

@[simp] theorem takeStart_frame (o : Nat) (id : Nat) (lead : Nat) (d : FrameNo) (s : State) :
    (takeStart o id lead d s).lif = s.lif ∧ (takeStart o id lead d s).ft = s.ft ∧ (takeStart o id lead d s).ru =
    s.ru ∧ (takeStart o id lead d s).chans = s.chans ∧ (takeStart o id lead d s).spl = s.spl ∧ (takeStart o id
    lead d s).dlu = s.dlu ∧ (takeStart o id lead d s).ss = s.ss ∧ (takeStart o id lead d s).pu = s.pu ∧
    (takeStart o id lead d s).iu = s.iu ∧ (takeStart o id lead d s).zu = s.zu ∧ (takeStart o id lead d s).ts =
    s.ts ∧ (takeStart o id lead d s).attention = s.attention ∧ (takeStart o id lead d s).cl = s.cl ∧ (takeStart
    o id lead d s).cfg = s.cfg ∧ (takeStart o id lead d s).pins = s.pins ∧ (takeStart o id lead d s).pending =
    s.pending := by
  unfold takeStart
  (try dsimp only)
  all_goals ((repeat' split) <;> simp)

@[simp] theorem takeGoal_frame (d : FrameNo) (i : Nat) (v : Nat) (s : State) :
    (takeGoal d i v s).lif = s.lif ∧ (takeGoal d i v s).ft = s.ft ∧ (takeGoal d i v s).ru = s.ru ∧ (takeGoal d i
    v s).spl = s.spl ∧ (takeGoal d i v s).dlu = s.dlu ∧ (takeGoal d i v s).ss = s.ss ∧ (takeGoal d i v s).pu =
    s.pu ∧ (takeGoal d i v s).iu = s.iu ∧ (takeGoal d i v s).zu = s.zu ∧ (takeGoal d i v s).ts = s.ts ∧
    (takeGoal d i v s).attention = s.attention ∧ (takeGoal d i v s).cl = s.cl ∧ (takeGoal d i v s).cfg = s.cfg ∧
    (takeGoal d i v s).pins = s.pins ∧ (takeGoal d i v s).pending = s.pending := by
  unfold takeGoal
  (try dsimp only)
  all_goals ((repeat' split) <;> simp)

@[simp] theorem releaseLive_frame (i : Nat) (s : State) :
    (releaseLive i s).lif = s.lif ∧ (releaseLive i s).ft = s.ft ∧ (releaseLive i s).ru = s.ru ∧ (releaseLive i
    s).spl = s.spl ∧ (releaseLive i s).dlu = s.dlu ∧ (releaseLive i s).ss = s.ss ∧ (releaseLive i s).pu = s.pu ∧
    (releaseLive i s).iu = s.iu ∧ (releaseLive i s).zu = s.zu ∧ (releaseLive i s).ts = s.ts ∧ (releaseLive i
    s).attention = s.attention ∧ (releaseLive i s).cl = s.cl ∧ (releaseLive i s).cfg = s.cfg ∧ (releaseLive i
    s).pins = s.pins ∧ (releaseLive i s).pending = s.pending := by
  unfold releaseLive
  (try dsimp only)
  all_goals ((repeat' split) <;> simp)

@[simp] theorem takeMark_frame (d : FrameNo) (mark : Nat) (s : State) :
    (takeMark d mark s).lif = s.lif ∧ (takeMark d mark s).ft = s.ft ∧ (takeMark d mark s).ru = s.ru ∧ (takeMark
    d mark s).chans = s.chans ∧ (takeMark d mark s).spl = s.spl ∧ (takeMark d mark s).dlu = s.dlu ∧ (takeMark d
    mark s).ss = s.ss ∧ (takeMark d mark s).pu = s.pu ∧ (takeMark d mark s).iu = s.iu ∧ (takeMark d mark s).zu =
    s.zu ∧ (takeMark d mark s).ts = s.ts ∧ (takeMark d mark s).attention = s.attention ∧ (takeMark d mark s).cl
    = s.cl ∧ (takeMark d mark s).cfg = s.cfg ∧ (takeMark d mark s).pins = s.pins ∧ (takeMark d mark s).pending =
    s.pending := by
  unfold takeMark
  (try dsimp only)
  all_goals ((repeat' split) <;> simp)

@[simp] theorem takeLive_frame (o : Nat) (d : FrameNo) (enable : Bool) (mask : ChanSet) (mark : Nat) (values : List U16) (s : State) :
    (takeLive o d enable mask mark values s).lif = s.lif ∧ (takeLive o d enable mask mark values s).ft = s.ft ∧
    (takeLive o d enable mask mark values s).ru = s.ru ∧ (takeLive o d enable mask mark values s).spl = s.spl ∧
    (takeLive o d enable mask mark values s).dlu = s.dlu ∧ (takeLive o d enable mask mark values s).ss = s.ss ∧
    (takeLive o d enable mask mark values s).pu = s.pu ∧ (takeLive o d enable mask mark values s).iu = s.iu ∧
    (takeLive o d enable mask mark values s).zu = s.zu ∧ (takeLive o d enable mask mark values s).ts = s.ts ∧
    (takeLive o d enable mask mark values s).attention = s.attention ∧ (takeLive o d enable mask mark values
    s).cl = s.cl ∧ (takeLive o d enable mask mark values s).cfg = s.cfg ∧ (takeLive o d enable mask mark values
    s).pins = s.pins ∧ (takeLive o d enable mask mark values s).pending = s.pending := by
  unfold takeLive
  (try dsimp only)
  all_goals ((repeat' split) <;> simp)

@[simp] theorem takeWake_frame (o : Nat) (d : FrameNo) (mask : BitVec 64) (cranes : List (BitVec 32)) (s : State) :
    (takeWake o d mask cranes s).lif = s.lif ∧ (takeWake o d mask cranes s).ft = s.ft ∧ (takeWake o d mask
    cranes s).chans = s.chans ∧ (takeWake o d mask cranes s).spl = s.spl ∧ (takeWake o d mask cranes s).dlu =
    s.dlu ∧ (takeWake o d mask cranes s).ss = s.ss ∧ (takeWake o d mask cranes s).pu = s.pu ∧ (takeWake o d mask
    cranes s).iu = s.iu ∧ (takeWake o d mask cranes s).zu = s.zu ∧ (takeWake o d mask cranes s).ts = s.ts ∧
    (takeWake o d mask cranes s).tpr = s.tpr ∧ (takeWake o d mask cranes s).attention = s.attention ∧ (takeWake
    o d mask cranes s).cl = s.cl ∧ (takeWake o d mask cranes s).cfg = s.cfg ∧ (takeWake o d mask cranes s).pins
    = s.pins ∧ (takeWake o d mask cranes s).pending = s.pending := by
  unfold takeWake
  (try dsimp only)
  all_goals ((repeat' split) <;> simp)

@[simp] theorem loadError_frame (o : Nat) (take : Nat) (first : Nat) (expected : Nat) (status : Status) (s : State) :
    (loadError o take first expected status s).ft = s.ft ∧ (loadError o take first expected status s).ru = s.ru
    ∧ (loadError o take first expected status s).chans = s.chans ∧ (loadError o take first expected status
    s).spl = s.spl ∧ (loadError o take first expected status s).dlu = s.dlu ∧ (loadError o take first expected
    status s).ss = s.ss ∧ (loadError o take first expected status s).pu = s.pu ∧ (loadError o take first
    expected status s).iu = s.iu ∧ (loadError o take first expected status s).zu = s.zu ∧ (loadError o take
    first expected status s).ts = s.ts ∧ (loadError o take first expected status s).tpr = s.tpr ∧ (loadError o
    take first expected status s).cl = s.cl ∧ (loadError o take first expected status s).cfg = s.cfg ∧
    (loadError o take first expected status s).pins = s.pins ∧ (loadError o take first expected status
    s).pending = s.pending := by
  unfold loadError
  (try dsimp only)
  all_goals ((repeat' split) <;> simp)

@[simp] theorem storeRecords_frame (t : Take) (first : Nat) (rs : List Sample) (s : State) :
    (storeRecords t first rs s).lif = s.lif ∧ (storeRecords t first rs s).ft = s.ft ∧ (storeRecords t first rs
    s).ru = s.ru ∧ (storeRecords t first rs s).chans = s.chans ∧ (storeRecords t first rs s).spl = s.spl ∧
    (storeRecords t first rs s).dlu = s.dlu ∧ (storeRecords t first rs s).ss = s.ss ∧ (storeRecords t first rs
    s).pu = s.pu ∧ (storeRecords t first rs s).iu = s.iu ∧ (storeRecords t first rs s).zu = s.zu ∧ (storeRecords
    t first rs s).tpr = s.tpr ∧ (storeRecords t first rs s).cl = s.cl ∧ (storeRecords t first rs s).cfg = s.cfg
    ∧ (storeRecords t first rs s).pins = s.pins ∧ (storeRecords t first rs s).pending = s.pending := by
  unfold storeRecords
  (try dsimp only)
  all_goals ((repeat' split) <;> simp)

@[simp] theorem storeSamples_frame (t : Take) (first : Nat) (last : Bool) (rs : List Sample) (s : State) :
    (storeSamples t first last rs s).ft = s.ft ∧ (storeSamples t first last rs s).ru = s.ru ∧ (storeSamples t
    first last rs s).spl = s.spl ∧ (storeSamples t first last rs s).dlu = s.dlu ∧ (storeSamples t first last rs
    s).ss = s.ss ∧ (storeSamples t first last rs s).iu = s.iu ∧ (storeSamples t first last rs s).zu = s.zu ∧
    (storeSamples t first last rs s).cl = s.cl ∧ (storeSamples t first last rs s).cfg = s.cfg ∧ (storeSamples t
    first last rs s).pins = s.pins ∧ (storeSamples t first last rs s).pending = s.pending := by
  unfold storeSamples
  (try dsimp only)
  all_goals ((repeat' split) <;> simp)

@[simp] theorem takeSamples_frame (o : Nat) (id : Nat) (first : Nat) (last : Bool) (rs : List Sample) (s : State) :
    (takeSamples o id first last rs s).ft = s.ft ∧ (takeSamples o id first last rs s).ru = s.ru ∧ (takeSamples o
    id first last rs s).spl = s.spl ∧ (takeSamples o id first last rs s).dlu = s.dlu ∧ (takeSamples o id first
    last rs s).ss = s.ss ∧ (takeSamples o id first last rs s).iu = s.iu ∧ (takeSamples o id first last rs s).zu
    = s.zu ∧ (takeSamples o id first last rs s).cl = s.cl ∧ (takeSamples o id first last rs s).cfg = s.cfg ∧
    (takeSamples o id first last rs s).pins = s.pins ∧ (takeSamples o id first last rs s).pending = s.pending := by
  unfold takeSamples
  (try dsimp only)
  all_goals ((repeat' split) <;> simp)

@[simp] theorem acceptArm_frame (who : Slot) (s : State) :
    (acceptArm who s).ft = s.ft ∧ (acceptArm who s).ru = s.ru ∧ (acceptArm who s).pu = s.pu ∧ (acceptArm who
    s).iu = s.iu ∧ (acceptArm who s).zu = s.zu ∧ (acceptArm who s).ts = s.ts ∧ (acceptArm who s).tpr = s.tpr ∧
    (acceptArm who s).cl = s.cl ∧ (acceptArm who s).cfg = s.cfg ∧ (acceptArm who s).pins = s.pins ∧ (acceptArm
    who s).pending = s.pending := by
  unfold acceptArm
  (try dsimp only)
  all_goals ((repeat' split) <;> simp)

@[simp] theorem armCommand_frame (who : Slot) (s : State) :
    (armCommand who s).ft = s.ft ∧ (armCommand who s).ru = s.ru ∧ (armCommand who s).pu = s.pu ∧ (armCommand who
    s).iu = s.iu ∧ (armCommand who s).zu = s.zu ∧ (armCommand who s).ts = s.ts ∧ (armCommand who s).tpr = s.tpr
    ∧ (armCommand who s).cl = s.cl ∧ (armCommand who s).cfg = s.cfg ∧ (armCommand who s).pins = s.pins ∧
    (armCommand who s).pending = s.pending := by
  unfold armCommand
  (try dsimp only)
  all_goals ((repeat' split) <;> simp)

@[simp] theorem acceptDisarm_frame (who : Slot) (s : State) :
    (acceptDisarm who s).ft = s.ft ∧ (acceptDisarm who s).ru = s.ru ∧ (acceptDisarm who s).spl = s.spl ∧
    (acceptDisarm who s).pu = s.pu ∧ (acceptDisarm who s).iu = s.iu ∧ (acceptDisarm who s).zu = s.zu ∧
    (acceptDisarm who s).ts = s.ts ∧ (acceptDisarm who s).tpr = s.tpr ∧ (acceptDisarm who s).cl = s.cl ∧
    (acceptDisarm who s).cfg = s.cfg ∧ (acceptDisarm who s).pins = s.pins ∧ (acceptDisarm who s).pending =
    s.pending := by
  unfold acceptDisarm
  (try dsimp only)
  all_goals ((repeat' split) <;> simp)

@[simp] theorem disarmCommand_frame (who : Slot) (s : State) :
    (disarmCommand who s).ft = s.ft ∧ (disarmCommand who s).ru = s.ru ∧ (disarmCommand who s).spl = s.spl ∧
    (disarmCommand who s).pu = s.pu ∧ (disarmCommand who s).iu = s.iu ∧ (disarmCommand who s).zu = s.zu ∧
    (disarmCommand who s).ts = s.ts ∧ (disarmCommand who s).tpr = s.tpr ∧ (disarmCommand who s).cl = s.cl ∧
    (disarmCommand who s).cfg = s.cfg ∧ (disarmCommand who s).pins = s.pins ∧ (disarmCommand who s).pending =
    s.pending := by
  unfold disarmCommand
  (try dsimp only)
  all_goals ((repeat' split) <;> simp)

@[simp] theorem releaseCause_frame (c : Cause) (s : State) :
    (releaseCause c s).ft = s.ft ∧ (releaseCause c s).ru = s.ru ∧ (releaseCause c s).chans = s.chans ∧
    (releaseCause c s).spl = s.spl ∧ (releaseCause c s).dlu = s.dlu ∧ (releaseCause c s).pu = s.pu ∧
    (releaseCause c s).iu = s.iu ∧ (releaseCause c s).zu = s.zu ∧ (releaseCause c s).ts = s.ts ∧ (releaseCause c
    s).tpr = s.tpr ∧ (releaseCause c s).cl = s.cl ∧ (releaseCause c s).cfg = s.cfg ∧ (releaseCause c s).pins =
    s.pins ∧ (releaseCause c s).pending = s.pending := by
  unfold releaseCause
  (try dsimp only)
  all_goals ((repeat' split) <;> simp)

@[simp] theorem releaseCommand_frame (who : Slot) (s : State) :
    (releaseCommand who s).ft = s.ft ∧ (releaseCommand who s).ru = s.ru ∧ (releaseCommand who s).chans = s.chans
    ∧ (releaseCommand who s).spl = s.spl ∧ (releaseCommand who s).dlu = s.dlu ∧ (releaseCommand who s).pu = s.pu
    ∧ (releaseCommand who s).iu = s.iu ∧ (releaseCommand who s).zu = s.zu ∧ (releaseCommand who s).ts = s.ts ∧
    (releaseCommand who s).tpr = s.tpr ∧ (releaseCommand who s).cl = s.cl ∧ (releaseCommand who s).cfg = s.cfg ∧
    (releaseCommand who s).pins = s.pins ∧ (releaseCommand who s).pending = s.pending := by
  unfold releaseCommand
  (try dsimp only)
  all_goals ((repeat' split) <;> simp)

@[simp] theorem parkCommand_frame (who : Slot) (s : State) :
    (parkCommand who s).ft = s.ft ∧ (parkCommand who s).chans = s.chans ∧ (parkCommand who s).spl = s.spl ∧
    (parkCommand who s).dlu = s.dlu ∧ (parkCommand who s).ss = s.ss ∧ (parkCommand who s).pu = s.pu ∧
    (parkCommand who s).iu = s.iu ∧ (parkCommand who s).zu = s.zu ∧ (parkCommand who s).ts = s.ts ∧ (parkCommand
    who s).tpr = s.tpr ∧ (parkCommand who s).cl = s.cl ∧ (parkCommand who s).cfg = s.cfg ∧ (parkCommand who
    s).pins = s.pins ∧ (parkCommand who s).pending = s.pending := by
  unfold parkCommand
  (try dsimp only)
  all_goals ((repeat' split) <;> simp)

@[simp] theorem restartCommand_frame (who : Slot) (s : State) :
    (restartCommand who s).ft = s.ft ∧ (restartCommand who s).ru = s.ru ∧ (restartCommand who s).chans = s.chans
    ∧ (restartCommand who s).spl = s.spl ∧ (restartCommand who s).dlu = s.dlu ∧ (restartCommand who s).ss = s.ss
    ∧ (restartCommand who s).pu = s.pu ∧ (restartCommand who s).iu = s.iu ∧ (restartCommand who s).zu = s.zu ∧
    (restartCommand who s).ts = s.ts ∧ (restartCommand who s).tpr = s.tpr ∧ (restartCommand who s).cfg = s.cfg ∧
    (restartCommand who s).pins = s.pins ∧ (restartCommand who s).pending = s.pending := by
  unfold restartCommand
  (try dsimp only)
  all_goals ((repeat' split) <;> simp)

@[simp] theorem sensorReadCommand_frame (channel : Nat) (item : Nat) (who : Slot) (s : State) :
    (sensorReadCommand channel item who s).ft = s.ft ∧ (sensorReadCommand channel item who s).ru = s.ru ∧
    (sensorReadCommand channel item who s).chans = s.chans ∧ (sensorReadCommand channel item who s).dlu = s.dlu
    ∧ (sensorReadCommand channel item who s).ss = s.ss ∧ (sensorReadCommand channel item who s).pu = s.pu ∧
    (sensorReadCommand channel item who s).iu = s.iu ∧ (sensorReadCommand channel item who s).zu = s.zu ∧
    (sensorReadCommand channel item who s).ts = s.ts ∧ (sensorReadCommand channel item who s).tpr = s.tpr ∧
    (sensorReadCommand channel item who s).cl = s.cl ∧ (sensorReadCommand channel item who s).cfg = s.cfg ∧
    (sensorReadCommand channel item who s).pins = s.pins ∧ (sensorReadCommand channel item who s).pending =
    s.pending := by
  unfold sensorReadCommand
  (try dsimp only)
  all_goals ((repeat' split) <;> simp)

@[simp] theorem attentionQuery_frame (clear : Bool) (who : Slot) (s : State) :
    (attentionQuery clear who s).ft = s.ft ∧ (attentionQuery clear who s).ru = s.ru ∧ (attentionQuery clear who
    s).chans = s.chans ∧ (attentionQuery clear who s).spl = s.spl ∧ (attentionQuery clear who s).dlu = s.dlu ∧
    (attentionQuery clear who s).ss = s.ss ∧ (attentionQuery clear who s).pu = s.pu ∧ (attentionQuery clear who
    s).iu = s.iu ∧ (attentionQuery clear who s).zu = s.zu ∧ (attentionQuery clear who s).ts = s.ts ∧
    (attentionQuery clear who s).tpr = s.tpr ∧ (attentionQuery clear who s).cl = s.cl ∧ (attentionQuery clear
    who s).cfg = s.cfg ∧ (attentionQuery clear who s).pins = s.pins ∧ (attentionQuery clear who s).pending =
    s.pending := by
  unfold attentionQuery
  (try dsimp only)
  all_goals ((repeat' split) <;> simp)

@[simp] theorem countersQuery_frame (who : Slot) (s : State) :
    (countersQuery who s).ft = s.ft ∧ (countersQuery who s).ru = s.ru ∧ (countersQuery who s).chans = s.chans ∧
    (countersQuery who s).spl = s.spl ∧ (countersQuery who s).dlu = s.dlu ∧ (countersQuery who s).ss = s.ss ∧
    (countersQuery who s).pu = s.pu ∧ (countersQuery who s).iu = s.iu ∧ (countersQuery who s).zu = s.zu ∧
    (countersQuery who s).ts = s.ts ∧ (countersQuery who s).tpr = s.tpr ∧ (countersQuery who s).cl = s.cl ∧
    (countersQuery who s).cfg = s.cfg ∧ (countersQuery who s).pins = s.pins ∧ (countersQuery who s).pending =
    s.pending := by
  unfold countersQuery
  (try dsimp only)
  all_goals ((repeat' split) <;> simp)

@[simp] theorem claimsQuery_frame (start : Nat) (who : Slot) (s : State) :
    (claimsQuery start who s).ft = s.ft ∧ (claimsQuery start who s).ru = s.ru ∧ (claimsQuery start who s).chans
    = s.chans ∧ (claimsQuery start who s).spl = s.spl ∧ (claimsQuery start who s).dlu = s.dlu ∧ (claimsQuery
    start who s).ss = s.ss ∧ (claimsQuery start who s).pu = s.pu ∧ (claimsQuery start who s).iu = s.iu ∧
    (claimsQuery start who s).zu = s.zu ∧ (claimsQuery start who s).ts = s.ts ∧ (claimsQuery start who s).tpr =
    s.tpr ∧ (claimsQuery start who s).cl = s.cl ∧ (claimsQuery start who s).cfg = s.cfg ∧ (claimsQuery start who
    s).pins = s.pins ∧ (claimsQuery start who s).pending = s.pending := by
  unfold claimsQuery
  (try dsimp only)
  all_goals ((repeat' split) <;> simp)

@[simp] theorem rosterQuery_frame (start : Nat) (who : Slot) (s : State) :
    (rosterQuery start who s).ft = s.ft ∧ (rosterQuery start who s).ru = s.ru ∧ (rosterQuery start who s).chans
    = s.chans ∧ (rosterQuery start who s).spl = s.spl ∧ (rosterQuery start who s).dlu = s.dlu ∧ (rosterQuery
    start who s).ss = s.ss ∧ (rosterQuery start who s).pu = s.pu ∧ (rosterQuery start who s).iu = s.iu ∧
    (rosterQuery start who s).zu = s.zu ∧ (rosterQuery start who s).ts = s.ts ∧ (rosterQuery start who s).tpr =
    s.tpr ∧ (rosterQuery start who s).cl = s.cl ∧ (rosterQuery start who s).cfg = s.cfg ∧ (rosterQuery start who
    s).pins = s.pins ∧ (rosterQuery start who s).pending = s.pending := by
  unfold rosterQuery
  (try dsimp only)
  all_goals ((repeat' split) <;> simp)

@[simp] theorem directoryQuery_frame (start : Nat) (who : Slot) (s : State) :
    (directoryQuery start who s).ft = s.ft ∧ (directoryQuery start who s).ru = s.ru ∧ (directoryQuery start who
    s).chans = s.chans ∧ (directoryQuery start who s).spl = s.spl ∧ (directoryQuery start who s).dlu = s.dlu ∧
    (directoryQuery start who s).ss = s.ss ∧ (directoryQuery start who s).pu = s.pu ∧ (directoryQuery start who
    s).iu = s.iu ∧ (directoryQuery start who s).zu = s.zu ∧ (directoryQuery start who s).ts = s.ts ∧
    (directoryQuery start who s).tpr = s.tpr ∧ (directoryQuery start who s).cl = s.cl ∧ (directoryQuery start
    who s).cfg = s.cfg ∧ (directoryQuery start who s).pins = s.pins ∧ (directoryQuery start who s).pending =
    s.pending := by
  unfold directoryQuery
  (try dsimp only)
  all_goals ((repeat' split) <;> simp)

@[simp] theorem latchQuery_frame (take : Nat) (clear : Bool) (who : Slot) (s : State) :
    (latchQuery take clear who s).ft = s.ft ∧ (latchQuery take clear who s).ru = s.ru ∧ (latchQuery take clear
    who s).chans = s.chans ∧ (latchQuery take clear who s).spl = s.spl ∧ (latchQuery take clear who s).dlu =
    s.dlu ∧ (latchQuery take clear who s).ss = s.ss ∧ (latchQuery take clear who s).pu = s.pu ∧ (latchQuery take
    clear who s).iu = s.iu ∧ (latchQuery take clear who s).zu = s.zu ∧ (latchQuery take clear who s).tpr = s.tpr
    ∧ (latchQuery take clear who s).cl = s.cl ∧ (latchQuery take clear who s).cfg = s.cfg ∧ (latchQuery take
    clear who s).pins = s.pins ∧ (latchQuery take clear who s).pending = s.pending := by
  unfold latchQuery
  (try dsimp only)
  all_goals ((repeat' split) <;> simp)

@[simp] theorem takeOpenCommand_frame (a : TakeOpenArgs) (who : Slot) (s : State) :
    (takeOpenCommand a who s).ft = s.ft ∧ (takeOpenCommand a who s).ru = s.ru ∧ (takeOpenCommand a who s).chans
    = s.chans ∧ (takeOpenCommand a who s).spl = s.spl ∧ (takeOpenCommand a who s).dlu = s.dlu ∧ (takeOpenCommand
    a who s).ss = s.ss ∧ (takeOpenCommand a who s).pu = s.pu ∧ (takeOpenCommand a who s).iu = s.iu ∧
    (takeOpenCommand a who s).zu = s.zu ∧ (takeOpenCommand a who s).tpr = s.tpr ∧ (takeOpenCommand a who s).cl =
    s.cl ∧ (takeOpenCommand a who s).cfg = s.cfg ∧ (takeOpenCommand a who s).pins = s.pins ∧ (takeOpenCommand a
    who s).pending = s.pending := by
  unfold takeOpenCommand
  (try dsimp only)
  all_goals ((repeat' split) <;> simp)

@[simp] theorem freeTake_frame (id : Nat) (s : State) :
    (freeTake id s).lif = s.lif ∧ (freeTake id s).ft = s.ft ∧ (freeTake id s).ru = s.ru ∧ (freeTake id s).chans
    = s.chans ∧ (freeTake id s).spl = s.spl ∧ (freeTake id s).dlu = s.dlu ∧ (freeTake id s).ss = s.ss ∧
    (freeTake id s).pu = s.pu ∧ (freeTake id s).iu = s.iu ∧ (freeTake id s).zu = s.zu ∧ (freeTake id s).tpr =
    s.tpr ∧ (freeTake id s).attention = s.attention ∧ (freeTake id s).cl = s.cl ∧ (freeTake id s).cfg = s.cfg ∧
    (freeTake id s).pins = s.pins ∧ (freeTake id s).pending = s.pending := by
  unfold freeTake
  (try dsimp only)
  all_goals ((repeat' split) <;> simp)

@[simp] theorem takeDeleteCommand_frame (id : Nat) (who : Slot) (s : State) :
    (takeDeleteCommand id who s).ft = s.ft ∧ (takeDeleteCommand id who s).ru = s.ru ∧ (takeDeleteCommand id who
    s).chans = s.chans ∧ (takeDeleteCommand id who s).spl = s.spl ∧ (takeDeleteCommand id who s).dlu = s.dlu ∧
    (takeDeleteCommand id who s).ss = s.ss ∧ (takeDeleteCommand id who s).pu = s.pu ∧ (takeDeleteCommand id who
    s).iu = s.iu ∧ (takeDeleteCommand id who s).zu = s.zu ∧ (takeDeleteCommand id who s).tpr = s.tpr ∧
    (takeDeleteCommand id who s).cl = s.cl ∧ (takeDeleteCommand id who s).cfg = s.cfg ∧ (takeDeleteCommand id
    who s).pins = s.pins ∧ (takeDeleteCommand id who s).pending = s.pending := by
  unfold takeDeleteCommand
  (try dsimp only)
  all_goals ((repeat' split) <;> simp)

@[simp] theorem takeRewindCommand_frame (id : Nat) (who : Slot) (s : State) :
    (takeRewindCommand id who s).ft = s.ft ∧ (takeRewindCommand id who s).ru = s.ru ∧ (takeRewindCommand id who
    s).chans = s.chans ∧ (takeRewindCommand id who s).spl = s.spl ∧ (takeRewindCommand id who s).dlu = s.dlu ∧
    (takeRewindCommand id who s).ss = s.ss ∧ (takeRewindCommand id who s).pu = s.pu ∧ (takeRewindCommand id who
    s).iu = s.iu ∧ (takeRewindCommand id who s).zu = s.zu ∧ (takeRewindCommand id who s).tpr = s.tpr ∧
    (takeRewindCommand id who s).cl = s.cl ∧ (takeRewindCommand id who s).cfg = s.cfg ∧ (takeRewindCommand id
    who s).pins = s.pins ∧ (takeRewindCommand id who s).pending = s.pending := by
  unfold takeRewindCommand
  (try dsimp only)
  all_goals ((repeat' split) <;> simp)

@[simp] theorem acceptCue_frame (id : Nat) (rate : Nat) (mask : ChanSet) (who : Slot) (s : State) :
    (acceptCue id rate mask who s).ft = s.ft ∧ (acceptCue id rate mask who s).ru = s.ru ∧ (acceptCue id rate
    mask who s).spl = s.spl ∧ (acceptCue id rate mask who s).dlu = s.dlu ∧ (acceptCue id rate mask who s).ss =
    s.ss ∧ (acceptCue id rate mask who s).pu = s.pu ∧ (acceptCue id rate mask who s).iu = s.iu ∧ (acceptCue id
    rate mask who s).zu = s.zu ∧ (acceptCue id rate mask who s).ts = s.ts ∧ (acceptCue id rate mask who s).cl =
    s.cl ∧ (acceptCue id rate mask who s).cfg = s.cfg ∧ (acceptCue id rate mask who s).pins = s.pins ∧
    (acceptCue id rate mask who s).pending = s.pending := by
  unfold acceptCue
  (try dsimp only)
  all_goals ((repeat' split) <;> simp)

@[simp] theorem cueCommand_frame (id : Nat) (rate : Nat) (mask : ChanSet) (who : Slot) (s : State) :
    (cueCommand id rate mask who s).ft = s.ft ∧ (cueCommand id rate mask who s).ru = s.ru ∧ (cueCommand id rate
    mask who s).spl = s.spl ∧ (cueCommand id rate mask who s).dlu = s.dlu ∧ (cueCommand id rate mask who s).ss =
    s.ss ∧ (cueCommand id rate mask who s).pu = s.pu ∧ (cueCommand id rate mask who s).iu = s.iu ∧ (cueCommand
    id rate mask who s).zu = s.zu ∧ (cueCommand id rate mask who s).ts = s.ts ∧ (cueCommand id rate mask who
    s).cl = s.cl ∧ (cueCommand id rate mask who s).cfg = s.cfg ∧ (cueCommand id rate mask who s).pins = s.pins ∧
    (cueCommand id rate mask who s).pending = s.pending := by
  unfold cueCommand
  (try dsimp only)
  all_goals ((repeat' split) <;> simp)

@[simp] theorem cueCancelCommand_frame (who : Slot) (s : State) :
    (cueCancelCommand who s).ft = s.ft ∧ (cueCancelCommand who s).ru = s.ru ∧ (cueCancelCommand who s).spl =
    s.spl ∧ (cueCancelCommand who s).dlu = s.dlu ∧ (cueCancelCommand who s).ss = s.ss ∧ (cueCancelCommand who
    s).iu = s.iu ∧ (cueCancelCommand who s).zu = s.zu ∧ (cueCancelCommand who s).cl = s.cl ∧ (cueCancelCommand
    who s).cfg = s.cfg ∧ (cueCancelCommand who s).pins = s.pins ∧ (cueCancelCommand who s).pending = s.pending := by
  unfold cueCancelCommand
  (try dsimp only)
  all_goals ((repeat' split) <;> simp)

@[simp] theorem acceptRecord_frame (id : Nat) (s : State) :
    (acceptRecord id s).lif = s.lif ∧ (acceptRecord id s).ft = s.ft ∧ (acceptRecord id s).ru = s.ru ∧
    (acceptRecord id s).chans = s.chans ∧ (acceptRecord id s).spl = s.spl ∧ (acceptRecord id s).dlu = s.dlu ∧
    (acceptRecord id s).ss = s.ss ∧ (acceptRecord id s).pu = s.pu ∧ (acceptRecord id s).iu = s.iu ∧
    (acceptRecord id s).zu = s.zu ∧ (acceptRecord id s).attention = s.attention ∧ (acceptRecord id s).cl = s.cl
    ∧ (acceptRecord id s).cfg = s.cfg ∧ (acceptRecord id s).pins = s.pins ∧ (acceptRecord id s).pending =
    s.pending := by
  unfold acceptRecord
  (try dsimp only)
  all_goals ((repeat' split) <;> simp)

@[simp] theorem recordCommand_frame (id : Nat) (who : Slot) (s : State) :
    (recordCommand id who s).ft = s.ft ∧ (recordCommand id who s).ru = s.ru ∧ (recordCommand id who s).chans =
    s.chans ∧ (recordCommand id who s).spl = s.spl ∧ (recordCommand id who s).dlu = s.dlu ∧ (recordCommand id
    who s).ss = s.ss ∧ (recordCommand id who s).pu = s.pu ∧ (recordCommand id who s).iu = s.iu ∧ (recordCommand
    id who s).zu = s.zu ∧ (recordCommand id who s).cl = s.cl ∧ (recordCommand id who s).cfg = s.cfg ∧
    (recordCommand id who s).pins = s.pins ∧ (recordCommand id who s).pending = s.pending := by
  unfold recordCommand
  (try dsimp only)
  all_goals ((repeat' split) <;> simp)

@[simp] theorem recordEndCommand_frame (who : Slot) (s : State) :
    (recordEndCommand who s).ft = s.ft ∧ (recordEndCommand who s).ru = s.ru ∧ (recordEndCommand who s).chans =
    s.chans ∧ (recordEndCommand who s).spl = s.spl ∧ (recordEndCommand who s).dlu = s.dlu ∧ (recordEndCommand
    who s).ss = s.ss ∧ (recordEndCommand who s).pu = s.pu ∧ (recordEndCommand who s).iu = s.iu ∧
    (recordEndCommand who s).zu = s.zu ∧ (recordEndCommand who s).cl = s.cl ∧ (recordEndCommand who s).cfg =
    s.cfg ∧ (recordEndCommand who s).pins = s.pins ∧ (recordEndCommand who s).pending = s.pending := by
  unfold recordEndCommand
  (try dsimp only)
  all_goals ((repeat' split) <;> simp)

@[simp] theorem punchCommand_frame (id : Nat) (mask : ChanSet) (who : Slot) (s : State) :
    (punchCommand id mask who s).ft = s.ft ∧ (punchCommand id mask who s).ru = s.ru ∧ (punchCommand id mask who
    s).chans = s.chans ∧ (punchCommand id mask who s).spl = s.spl ∧ (punchCommand id mask who s).dlu = s.dlu ∧
    (punchCommand id mask who s).ss = s.ss ∧ (punchCommand id mask who s).pu = s.pu ∧ (punchCommand id mask who
    s).iu = s.iu ∧ (punchCommand id mask who s).zu = s.zu ∧ (punchCommand id mask who s).ts = s.ts ∧
    (punchCommand id mask who s).cl = s.cl ∧ (punchCommand id mask who s).cfg = s.cfg ∧ (punchCommand id mask
    who s).pins = s.pins ∧ (punchCommand id mask who s).pending = s.pending := by
  unfold punchCommand
  (try dsimp only)
  all_goals ((repeat' split) <;> simp)

@[simp] theorem enterFaulted_frame (code : Nat) (item : Nat) (spineId : Bool) (cfg : NodeCfg) (ts : Ts) (s : State) :
    (enterFaulted code item spineId cfg ts s).attention = s.attention ∧ (enterFaulted code item spineId cfg ts
    s).pins = s.pins ∧ (enterFaulted code item spineId cfg ts s).pending = s.pending := by
  unfold enterFaulted
  (try dsimp only)
  all_goals ((repeat' split) <;> simp)

@[simp] theorem leaveLoading_frame (cfg : NodeCfg) (ts : Ts) (s : State) :
    (leaveLoading cfg ts s).attention = s.attention ∧ (leaveLoading cfg ts s).pins = s.pins ∧ (leaveLoading cfg
    ts s).pending = s.pending := by
  unfold leaveLoading
  (try dsimp only)
  all_goals ((repeat' split) <;> simp)

@[simp] theorem readEnds_frame (img : Image) (s : State) :
    (readEnds img s).attention = s.attention ∧ (readEnds img s).pins = s.pins ∧ (readEnds img s).pending =
    s.pending := by
  unfold readEnds
  (try dsimp only)
  all_goals ((repeat' split) <;> simp)

end Sys2Proof.Machine
end

