-- ==== Sys2Proof/Laws/Arrival.lean ====
section
/-! SUPPORT. What an arriving message is at a node that takes it: the report, then the owner of the kind. -/

namespace Sys2Proof

open Machine

/-- The report of a message changes the link counts, the roster and the attention set alone. -/
@[simp] theorem heard_frame (h : Header) (s : State) :
    (heard h s).ft = s.ft ∧ (heard h s).chans = s.chans ∧ (heard h s).spl = s.spl ∧ (heard h s).dlu = s.dlu ∧
    (heard h s).ss = s.ss ∧ (heard h s).pu = s.pu ∧ (heard h s).iu = s.iu ∧ (heard h s).zu = s.zu ∧
    (heard h s).ts = s.ts ∧ (heard h s).tpr = s.tpr ∧ (heard h s).cl = s.cl ∧ (heard h s).cfg = s.cfg ∧
    (heard h s).pins = s.pins ∧ (heard h s).pending = s.pending := by
  unfold heard validFrom lineBusy
  simp

/-- What a report does to the link's counts. -/
@[simp] theorem heard_lif (h : Header) (s : State) :
    (heard h s).lif = { s.lif with lineIdle := false, quiet := 0 } := by
  unfold heard validFrom lineBusy
  simp

/-- A report leaves what the Roster Unit keeps beside the roster. -/
@[simp] theorem heard_ru (h : Header) (s : State) :
    (heard h s).ru.learning = s.ru.learning ∧ (heard h s).ru.slots = s.ru.slots ∧
    (heard h s).ru.parkPending = s.ru.parkPending ∧ (heard h s).ru.parkTicks = s.ru.parkTicks ∧
    (heard h s).ru.wake = s.ru.wake := by
  unfold heard validFrom lineBusy reportStation
  (repeat' split) <;> simp

@[simp] theorem heard_silent (h : Header) (s : State) : (heard h s).silent = s.silent := by simp [State.silent]

@[simp] theorem heard_isControl (h : Header) (s : State) (n : Nat) : (heard h s).isControl n = s.isControl n := by
  simp [State.isControl]

@[simp] theorem heard_addressed (h k : Header) (s : State) : (heard h s).addressed k = s.addressed k := by
  simp [State.addressed]

@[simp] theorem heard_findTake (h : Header) (s : State) (id : Nat) : (heard h s).findTake id = s.findTake id := by
  simp [State.findTake]

@[simp] theorem heard_dateNow (h : Header) (s : State) : (heard h s).dateNow = s.dateNow := by simp [State.dateNow]

@[simp] theorem heard_readingsReady (h : Header) (s : State) : (heard h s).readingsReady = s.readingsReady := by
  simp [State.readingsReady, State.channels]

/-- A valid message from another station is reported and goes to its owner. -/
theorem arrive_of_receives (h : Header) (p d : State → State) (s : State) (r : receives h s = true) :
    arrive h p d s = d (heard h s) := by
  simp only [receives, Bool.and_eq_true, Bool.not_eq_true', bne_iff_ne, ne_eq, decide_eq_true_eq] at r
  obtain ⟨⟨⟨⟨⟨⟨hd, hw⟩, hp⟩, hl⟩, h1⟩, h2⟩, hs⟩ := r
  have e : (lineBusy s).deaf = s.deaf := rfl
  unfold arrive
  simp only [e, hd]
  simp [lineBusy, hw, hp, hs, heard, show ¬ Config.maxLength < h.length.toNat from by omega,
    show ¬(h.source.toNat = 0 ∨ h.source.toNat = 63) from by omega]

/-- What a message that its owner takes says about the node. -/
theorem hears_iff (h : Header) (n : Nat) (s : State) :
    hears h n s = true ↔ receives h s = true ∧ s.ss.safety.isOpen = true ∧ h.length.toNat = n := by
  simp [hears, and_assoc]

/-- A broadcast kind at a node that hears it. -/
theorem broadcastKind_of_hears (h : Header) (n : Nat) (f : State → State) (s : State) (r : hears h n s = true) :
    broadcastKind h n f s = .next (f (heard h s)) := by
  obtain ⟨hr, ho, hl⟩ := (hears_iff h n s).1 r
  simp [broadcastKind, arrive_of_receives h _ _ s hr, deliverOpen, ho, hl]

/-- An addressed kind at a node that hears it. -/
theorem addressedKind_of_hears (h : Header) (n : State → Nat) (f : State → State) (s : State)
    (r : hears h (n (heard h s)) s = true) (a : s.addressed h = true) :
    addressedKind h n f s = .next (f (heard h s)) := by
  obtain ⟨hr, ho, hl⟩ := (hears_iff h _ s).1 r
  simp [addressedKind, arrive_of_receives h _ _ s hr, deliverOpen, ho, hl, a]

/-- The parts of `obeys`. -/
theorem obeys_iff (h : Header) (n : Nat) (s : State) :
    obeys h n s = true ↔ receives h s = true ∧ s.ss.safety.isOpen = true ∧ h.length.toNat = 2 + n ∧
      s.addressed h = true ∧ s.isControl h.source.toNat = true ∧ s.ru.parkPending = false ∧
      s.cl.restartPending = false := by
  simp [obeys, hears, and_assoc]

/-- A COMMAND that passes every test goes to its owner. -/
theorem command_of_obeys (h : Header) (serial : Byte) (code n : Nat) (owner : Slot → State → State) (s : State)
    (r : obeys h n s = true) (c : argOctets code = some n) :
    command h serial code owner s = .next (owner (caller h serial) (heard h s)) := by
  obtain ⟨hr, ho, hl, ha, hc, hp, hq⟩ := (obeys_iff h n s).1 r
  simp [command, arrive_of_receives h _ _ s hr, commandUnit, State.gate, State.mayCommand, State.admits, ho, hl, ha, hc, hp,
    hq, c, caller]

end Sys2Proof
end

