-- ==== Sys2Proof/Laws/Claims.lean ====
section
/-! SUPPORT. The claims list under each of its operations, and the passages of the safety state that leave the list as it is. -/

namespace Sys2Proof.Machine

open Sys2Proof

/-! ### The order of the list -/

/-- The codes of the causes tell the causes apart. -/
theorem cause_code_injective : ∀ a b : Cause, a.code = b.code → a = b := by
  intro a b h
  cases a <;> cases b <;> simp_all [Cause.code]

/-- What the order of two claims says. -/
theorem before_iff (a b : Claim) :
    Claim.before a b = true ↔ a.origin < b.origin ∨ a.origin = b.origin ∧ a.cause.code < b.cause.code := by
  simp [Claim.before]

/-- The order is transitive. -/
theorem before_trans (a b c : Claim) (h1 : Claim.before a b = true) (h2 : Claim.before b c = true) :
    Claim.before a c = true := by
  rw [before_iff] at *
  omega

/-- Two claims of different keys stand in one order or the other. -/
theorem before_total (a b : Claim) (h : b.hasKey a.origin a.cause = false) (n : Claim.before a b = false) :
    Claim.before b a = true := by
  have n' : ¬ Claim.before a b = true := by simp [n]
  rw [before_iff] at *
  have hk : ¬ (b.origin = a.origin ∧ b.cause = a.cause) := by
    intro hh
    simp [Claim.hasKey, hh] at h
  by_cases ho : a.origin = b.origin
  · have : a.cause.code ≠ b.cause.code := fun hc => hk ⟨ho.symm, (cause_code_injective _ _ hc).symm⟩
    omega
  · omega

/-- No entry of a key, said of every entry. -/
theorem findClaim_none (l : List Claim) (o : Nat) (c : Cause) :
    findClaim l o c = none ↔ ∀ e ∈ l, e.hasKey o c = false := by
  simp [findClaim]

/-- What stands in the list after an entry has been added. -/
theorem mem_insertClaim (e k : Claim) (l : List Claim) : k ∈ insertClaim e l ↔ k = e ∨ k ∈ l := by
  induction l with
  | nil => simp [insertClaim]
  | cons d l ih =>
    simp only [insertClaim]
    split
    · simp
    · simp only [List.mem_cons, ih]
      tauto

/-- One entry more. -/
theorem length_insertClaim (e : Claim) (l : List Claim) : (insertClaim e l).length = l.length + 1 := by
  induction l with
  | nil => rfl
  | cons d l ih =>
    simp only [insertClaim]
    split <;> simp [*]

/-- An entry of a new key keeps the order. -/
theorem pairwise_insertClaim (e : Claim) (l : List Claim) (h : l.Pairwise fun a b => Claim.before a b = true)
    (n : findClaim l e.origin e.cause = none) : (insertClaim e l).Pairwise fun a b => Claim.before a b = true := by
  induction l with
  | nil => simp [insertClaim]
  | cons d l ih =>
    obtain ⟨hd, hl⟩ := List.pairwise_cons.1 h
    rw [findClaim_none] at n
    simp only [insertClaim]
    split
    · rename_i hb
      refine List.pairwise_cons.2 ⟨?_, h⟩
      intro k hk
      rcases List.mem_cons.1 hk with rfl | hk
      · exact hb
      · exact before_trans _ _ _ hb (hd k hk)
    · rename_i hb
      refine List.pairwise_cons.2 ⟨?_, ih hl ((findClaim_none _ _ _).2 fun k hk => n k (List.mem_cons_of_mem _ hk))⟩
      intro k hk
      rcases (mem_insertClaim _ _ _).1 hk with rfl | hk
      · exact before_total _ _ (n d (by simp)) (by simpa using hb)
      · exact hd k hk

/-- The entry that has been added is found. -/
theorem findClaim_insertClaim (e : Claim) (l : List Claim) (n : findClaim l e.origin e.cause = none) :
    findClaim (insertClaim e l) e.origin e.cause = some e := by
  induction l with
  | nil => simp [insertClaim, findClaim, Claim.hasKey]
  | cons d l ih =>
    rw [findClaim_none] at n
    have hd := n d (by simp)
    have hl := ih ((findClaim_none _ _ _).2 fun k hk => n k (List.mem_cons_of_mem _ hk))
    simp only [insertClaim]
    split
    · simp [findClaim, Claim.hasKey]
    · simpa [findClaim, List.find?_cons, hd] using hl

/-- A replaced detail keeps the order. -/
theorem pairwise_setDetail (l : List Claim) (o : Nat) (c : Cause) (d : Nat)
    (h : l.Pairwise fun a b => Claim.before a b = true) :
    (setDetail l o c d).Pairwise fun a b => Claim.before a b = true := by
  refine List.pairwise_map.2 (h.imp ?_)
  intro a b hab
  rw [before_iff] at *
  (repeat' split) <;> simpa using hab

/-- A replaced detail leaves the number of entries. -/
theorem length_setDetail (l : List Claim) (o : Nat) (c : Cause) (d : Nat) : (setDetail l o c d).length = l.length := by
  simp [setDetail]

/-- Taking out the last remote entry takes out entries alone. -/
theorem sublist_removeLastRemote (own : Nat) (l : List Claim) : (removeLastRemote own l).Sublist l := by
  induction l with
  | nil => exact List.Sublist.refl _
  | cons d l ih =>
    simp only [removeLastRemote]
    split
    · exact List.sublist_cons_self d l
    · exact ih.cons_cons d

/-- Fewer entries keep the invariant of the list. -/
theorem claimsOrdered_of_sublist (s t : State) (h : ClaimsOrdered s) (l : t.ss.claims.Sublist s.ss.claims) :
    ClaimsOrdered t :=
  ⟨l.length_le.trans h.1, h.2.sublist l⟩

/-! ### Passages that leave the list -/

@[simp] theorem completeArm_claims (st : Status) (s : State) : (completeArm st s).ss.claims = s.ss.claims := by
  unfold completeArm
  split <;> simp

@[simp] theorem completeDisarm_claims (s : State) : (completeDisarm s).ss.claims = s.ss.claims := by
  unfold completeDisarm
  split <;> simp

@[simp] theorem enterStopping_claims (s : State) : (enterStopping s).ss.claims = s.ss.claims := by
  unfold enterStopping
  simp

@[simp] theorem enterSecuring_claims (s : State) : (enterSecuring s).ss.claims = s.ss.claims := by
  unfold enterSecuring
  simp

@[simp] theorem enterDisarmed_claims (s : State) : (enterDisarmed s).ss.claims = s.ss.claims := by
  unfold enterDisarmed
  simp

@[simp] theorem stopIfMoving_claims (s : State) : (stopIfMoving s).ss.claims = s.ss.claims := by
  unfold stopIfMoving
  split <;> simp

@[simp] theorem estopCut_claims (s : State) : (estopCut s).ss.claims = s.ss.claims := by
  unfold estopCut
  split <;> simp

@[simp] theorem afterOwnClaim_claims (c : Cause) (s : State) : (afterOwnClaim c s).ss.claims = s.ss.claims := by
  unfold afterOwnClaim
  split <;> simp

@[simp] theorem refuseClaim_claims (s : State) : (refuseClaim s).ss.claims = s.ss.claims := by
  unfold refuseClaim
  simp

@[simp] theorem addOwn_claims (c : Cause) (d : Nat) (s : State) :
    (addOwn c d s).ss.claims =
      insertClaim { origin := s.cfg.station, cause := c, detail := d, latched := c.isLatched } s.ss.claims := by
  unfold addOwn
  simp

/-! ### The invariant of the list -/

/-- A raised own cause keeps the list in order and within its entries. -/
theorem raiseOwn_claimsOrdered (c : Cause) (d : Nat) (s : State) (h : ClaimsOrdered s) : ClaimsOrdered (raiseOwn c d s) := by
  unfold raiseOwn
  split
  · exact h
  · split
    · split
      · exact h
      · refine ⟨?_, ?_⟩
        · simpa [length_setDetail] using h.1
        · simpa using pairwise_setDetail _ _ _ _ h.2
    · rename_i n
      split
      · rename_i hr
        refine ⟨?_, ?_⟩
        · simp only [afterOwnClaim_claims, addOwn_claims, length_insertClaim]
          omega
        · simp only [afterOwnClaim_claims, addOwn_claims]
          exact pairwise_insertClaim _ _ h.2 n
      · dsimp only
        split
        · rename_i hr
          have hs := sublist_removeLastRemote s.cfg.station s.ss.claims
          refine ⟨?_, ?_⟩
          · simp only [afterOwnClaim_claims, refuseClaim_claims, addOwn_claims, length_insertClaim]
            omega
          · simp only [afterOwnClaim_claims, refuseClaim_claims, addOwn_claims]
            refine pairwise_insertClaim _ _ (h.2.sublist hs) ?_
            rw [findClaim_none] at n ⊢
            exact fun k hk => n k (hs.subset hk)
        · exact h

/-- A claim of another station keeps the list in order and within its entries. -/
theorem remoteClaim_claimsOrdered (o : Nat) (c : Cause) (d : Nat) (s : State) (h : ClaimsOrdered s) :
    ClaimsOrdered (remoteClaim o c d s) := by
  unfold remoteClaim
  split
  · exact ⟨by simpa [length_setDetail] using h.1, pairwise_setDetail _ _ _ _ h.2⟩
  · rename_i n
    split
    · rename_i hr
      refine ⟨?_, ?_⟩
      · simp only [stopIfMoving_claims, length_insertClaim]
        omega
      · simp only [stopIfMoving_claims]
        exact pairwise_insertClaim _ _ h.2 n
    · exact ⟨by simpa using h.1, by simpa using h.2⟩

/-- A withdrawn own cause keeps the list in order and within its entries. -/
theorem withdrawOwn_claimsOrdered (c : Cause) (s : State) (h : ClaimsOrdered s) : ClaimsOrdered (withdrawOwn c s) := by
  unfold withdrawOwn
  split
  · refine claimsOrdered_of_sublist s _ h ?_
    simp [removeClaim]
  · exact h

end Sys2Proof.Machine
end

