-- ==== Sys2Proof/Laws/Memory.lean ====
section
/-! SUPPORT. The sample store: its reads after each operation, its canonical form under each, and the operations that
change the directory but no record. -/

namespace Sys2Proof.Machine

open Sys2Proof

namespace Memory

/-- Every listed position lies above a bound. -/
theorem wf_cons (p : Nat) (v : Sample) (m : Memory) :
    wf ((p, v) :: m) = true ↔ p < Config.storeSize ∧ v ≠ blank ∧ (∀ e ∈ m, p < e.1) ∧ wf m = true := by
  simp [wf, and_assoc]

/-- A position below every listed one holds the blank record. -/
theorem read_below (m : Memory) (p : Nat) (h : ∀ e ∈ m, p < e.1) : read m p = blank := by
  induction m with
  | nil => rfl
  | cons e m ih =>
    obtain ⟨q, w⟩ := e
    have hq : p < q := h (q, w) (by simp)
    simp [read, show p ≠ q by omega, ih fun e he => h e (by simp [he])]

/-- Putting a record lists no position but its own and those listed before. -/
theorem mem_put (m : Memory) (p : Nat) (v : Sample) (e : Nat × Sample) (h : e ∈ put m p v) : e = (p, v) ∨ e ∈ m := by
  induction m with
  | nil => simp only [put] at h; split at h <;> simp_all
  | cons d m ih =>
    obtain ⟨q, w⟩ := d
    simp only [put] at h
    split at h
    · split at h <;> simp_all
    · split at h
      · split at h
        · exact .inr (List.mem_cons_of_mem _ h)
        · rcases List.mem_cons.1 h with h | h
          · exact .inl h
          · exact .inr (List.mem_cons_of_mem _ h)
      · rcases List.mem_cons.1 h with h | h
        · exact .inr (by simp [h])
        · rcases ih h with h | h
          · exact .inl h
          · exact .inr (List.mem_cons_of_mem _ h)

/-- Putting a record keeps the canonical form. -/
theorem wf_put (m : Memory) (p : Nat) (v : Sample) (h : wf m = true) (hp : p < Config.storeSize) : wf (put m p v) = true := by
  induction m with
  | nil =>
    simp only [put]
    split
    · rfl
    · exact (wf_cons _ _ _).2 ⟨hp, by assumption, by simp, rfl⟩
  | cons d m ih =>
    obtain ⟨q, w⟩ := d
    obtain ⟨h1, h2, h3, h4⟩ := (wf_cons _ _ _).1 h
    simp only [put]
    split
    · split
      · exact h
      · refine (wf_cons _ _ _).2 ⟨hp, by assumption, ?_, h⟩
        intro e he
        rcases List.mem_cons.1 he with rfl | he
        · assumption
        · have := h3 e he; omega
    · split
      · subst_vars
        split
        · exact h4
        · exact (wf_cons _ _ _).2 ⟨hp, by assumption, h3, h4⟩
      · refine (wf_cons _ _ _).2 ⟨h1, h2, ?_, ih h4⟩
        intro e he
        rcases mem_put m p v e he with rfl | he
        · show q < p
          omega
        · exact h3 e he

/-- What a store reads after a record has been put. -/
theorem read_put (m : Memory) (p : Nat) (v : Sample) (h : wf m = true) (q : Nat) :
    read (put m p v) q = if q = p then v else read m q := by
  induction m with
  | nil =>
    simp only [put]
    split
    · by_cases hq : q = p <;> simp_all [read]
    · simp [read]
  | cons d m ih =>
    obtain ⟨a, w⟩ := d
    obtain ⟨_, _, h3, h4⟩ := (wf_cons _ _ _).1 h
    simp only [put]
    split
    · have hb : read ((a, w) :: m) p = blank := read_below _ _ (by
        intro e he
        rcases List.mem_cons.1 he with rfl | he
        · assumption
        · have := h3 e he; omega)
      split
      · by_cases hq : q = p
        · subst hq; simp_all
        · simp [hq]
      · simp only [read]
    · split
      · subst_vars
        split
        · by_cases hq : q = a
          · subst hq; simp [read_below m q h3, *]
          · simp [read, hq]
        · by_cases hq : q = a <;> simp [read, hq]
      · simp only [read, ih h4]
        by_cases hq : q = a
        · simp [hq, show a ≠ p by omega]
        · simp [hq]

/-- What a store reads after a write. -/
theorem read_write (m : Memory) (p : Nat) (v : Sample) (h : wf m = true) (q : Nat) :
    read (write m p v) q = if q = p ∧ p < Config.storeSize then v else read m q := by
  unfold write
  split
  · simp [read_put m p v h q, *]
  · simp [*]

/-- A write keeps the canonical form. -/
theorem wf_write (m : Memory) (p : Nat) (v : Sample) (h : wf m = true) : wf (write m p v) = true := by
  unfold write
  split
  · exact wf_put m p v h (by assumption)
  · exact h

/-- Leaving out records keeps the canonical form. -/
theorem wf_filter (f : Nat × Sample → Bool) (m : Memory) (h : wf m = true) : wf (m.filter f) = true := by
  induction m with
  | nil => rfl
  | cons d m ih =>
    obtain ⟨a, w⟩ := d
    obtain ⟨h1, h2, h3, h4⟩ := (wf_cons _ _ _).1 h
    rw [List.filter_cons]
    split
    · exact (wf_cons _ _ _).2 ⟨h1, h2, fun e he => h3 e (List.mem_of_mem_filter he), ih h4⟩
    · exact ih h4

/-- Clearing an extent keeps the canonical form. -/
theorem wf_clearRange (m : Memory) (b n : Nat) (h : wf m = true) : wf (clearRange m b n) = true := wf_filter _ m h

/-- What a store reads after an extent has been cleared. -/
theorem read_clearRange (m : Memory) (b n q : Nat) :
    read (clearRange m b n) q = if b ≤ q ∧ q < b + n then blank else read m q := by
  induction m with
  | nil => simp [clearRange, read]
  | cons d m ih =>
    obtain ⟨a, w⟩ := d
    simp only [clearRange, List.filter_cons] at ih ⊢
    by_cases ha : (decide (a < b) || decide (b + n ≤ a)) = true
    · rw [if_pos ha]
      simp only [read, ih]
      simp only [Bool.or_eq_true, decide_eq_true_eq] at ha
      by_cases hq : q = a
      · subst hq
        rw [if_pos rfl, if_pos rfl, if_neg (by omega)]
      · simp [hq]
    · rw [if_neg ha, ih]
      simp only [Bool.or_eq_true, decide_eq_true_eq] at ha
      by_cases hq : q = a
      · subst hq
        rw [if_pos (by omega), if_pos (by omega)]
      · simp [read, hq]

end Memory

/-- The store at RESET has the canonical form. -/
theorem reset_store_wf : Memory.wf State.reset.ts.store = true := rfl

/-! ### No record changes -/

@[simp] theorem modTake_store (id : Nat) (f : Take → Take) (s : State) : (modTake id f s).ts.store = s.ts.store := rfl

@[simp] theorem spendPlayed_store (s : State) : (spendPlayed s).ts.store = s.ts.store := by
  unfold spendPlayed spendStream
  (repeat' split) <;> simp

@[simp] theorem endRecording_store (s : State) : (endRecording s).ts.store = s.ts.store := by
  unfold endRecording
  (repeat' split) <;> simp

@[simp] theorem forceIdle_store (s : State) : (forceIdle s).ts.store = s.ts.store := by
  unfold forceIdle
  (repeat' split) <;> simp

@[simp] theorem enterStopping_store (s : State) : (enterStopping s).ts.store = s.ts.store := by
  unfold enterStopping
  simp

@[simp] theorem enterDisarmed_store (s : State) : (enterDisarmed s).ts.store = s.ts.store := by
  unfold enterDisarmed
  simp

@[simp] theorem stopIfMoving_store (s : State) : (stopIfMoving s).ts.store = s.ts.store := by
  unfold stopIfMoving
  split <;> simp

@[simp] theorem refuseClaim_store (s : State) : (refuseClaim s).ts.store = s.ts.store := by
  unfold refuseClaim
  simp

@[simp] theorem raiseOwn_store (c : Cause) (d : Nat) (s : State) : (raiseOwn c d s).ts.store = s.ts.store := by
  unfold raiseOwn afterOwnClaim estopCut
  (repeat' (first | split | dsimp only)) <;> simp

@[simp] theorem remoteClaim_store (o : Nat) (c : Cause) (d : Nat) (s : State) :
    (remoteClaim o c d s).ts.store = s.ts.store := by
  unfold remoteClaim
  (repeat' split) <;> simp

/-- A record stored keeps the canonical form. -/
theorem storeRecord_wf (t : Take) (n : Nat) (w : ChanSet) (r : Sample) (s : State) (h : Memory.wf s.ts.store = true) :
    Memory.wf (storeRecord t n w r s).ts.store = true := by
  have hw := Memory.wf_write s.ts.store (t.position n) r h
  unfold storeRecord latchRange
  dsimp only
  (repeat' split) <;> simpa using hw

end Sys2Proof.Machine
end

