-- ==== Sys2Proof/Laws/Queues.lean ====
section
/-! SUPPORT. What placing a message does to a transmit queue. -/

namespace Sys2Proof

open Machine

/-- A message overtakes another when both have one key (R11) or are of one latest-only kind (R12). -/
theorem overtakes_iff_key (a b : Body) : overtakes a b = true ↔ ∃ k, a.key = some k ∧ b.key = some k := by
  cases a <;> cases b <;> simp [overtakes, Body.key] <;> exact eq_comm

/-- An entry has the key of a message that overtakes it. -/
theorem hasKey_eq_overtakes (m : Msg) (k : Key) (hk : m.body.key = some k) (e : QEntry) :
    e.hasKey k = overtakes m.body e.msg.body := by
  rw [Bool.eq_iff_iff, overtakes_iff_key]
  simp [QEntry.hasKey, hk]

/-- A message without a key overtakes no other. -/
theorem overtakes_of_no_key (m : Msg) (hk : m.body.key = none) (b : Body) : overtakes m.body b = false := by
  rw [Bool.eq_false_iff, ne_eq, overtakes_iff_key]
  simp [hk]

/-- In a sound queue no entry but one has the key of that one. -/
theorem QueueSound.key_once {pre post : List QEntry} {e : QEntry} {k : Key} (h : QueueSound (pre ++ e :: post))
    (hk : e.hasKey k = true) : (∀ x ∈ pre, x.hasKey k = false) ∧ ∀ x ∈ post, x.hasKey k = false := by
  have hp := h.2.1
  rw [List.pairwise_append, List.pairwise_cons] at hp
  simp only [QEntry.hasKey, beq_iff_eq, beq_eq_false_iff_ne] at hk ⊢
  refine ⟨fun x hx he => ?_, fun x hx he => ?_⟩
  · rcases hp.2.2 x hx e (by simp) with n | n
    · simp [he] at n
    · exact n (he.trans hk.symm)
  · rcases hp.2.1.1 x hx with n | n
    · simp [hk] at n
    · exact n (hk.trans he.symm)

/-- Renewing the entries of a key touches no list without it. -/
theorem renew_absent (m : Msg) (k : Key) (q : List QEntry) (h : ∀ x ∈ q, x.hasKey k = false) :
    (q.map fun e => if e.hasKey k then e.renew m else e) = q :=
  (List.map_congr_left fun x hx => by simp [h x hx]).trans q.map_id

/-- All that placing a message does to a sound queue (R11, R12, R13). -/
theorem enqueue_spec (m : Msg) (q : List QEntry) (h : QueueSound q) :
    (HasPlace m q → ∃ u, enqueue q m = some u ∧ PlacedIn m q u) ∧ (¬ HasPlace m q → enqueue q m = none) := by
  have fresh : (∀ e ∈ q, overtakes m.body e.msg.body = false) →
      PlacedIn m q (q ++ [freshEntry m.dest m.body]) := fun no =>
    ⟨fun pre e post hq ho => absurd ho (by simp [no e (by simp [hq])]), fun _ => rfl⟩
  unfold enqueue HasPlace
  cases hk : m.body.key with
  | none =>
    have no : ∀ e ∈ q, overtakes m.body e.msg.body = false := fun e _ => overtakes_of_no_key m hk _
    by_cases hl : q.length < Config.queueSize
    · exact ⟨fun _ => ⟨_, by simp [hl, freshEntry], fresh no⟩, fun n => absurd (.inl hl) n⟩
    · refine ⟨?_, fun _ => by simp [hl]⟩
      rintro (hlt | ⟨e, he, ho⟩)
      · exact absurd hlt hl
      · simp [no e he] at ho
  | some k =>
    simp only [← hasKey_eq_overtakes m k hk]
    by_cases ha : q.any (·.hasKey k) = true
    · refine ⟨fun _ => ⟨_, if_pos ha, ?_, ?_⟩, fun n => absurd (.inr (by simpa using ha)) n⟩
      · rintro pre e post rfl ho
        rw [← hasKey_eq_overtakes m k hk] at ho
        obtain ⟨hpre, hpost⟩ := h.key_once ho
        rw [List.map_append, List.map_cons, renew_absent m k pre hpre, renew_absent m k post hpost, if_pos ho]
        rfl
      · intro no
        obtain ⟨e, he, hek⟩ := List.any_eq_true.mp ha
        rw [hasKey_eq_overtakes m k hk] at hek
        simp [no e he] at hek
    · have no : ∀ e ∈ q, overtakes m.body e.msg.body = false := fun e he => by
        rw [← hasKey_eq_overtakes m k hk]
        simpa using fun hek => ha (List.any_eq_true.mpr ⟨e, he, hek⟩)
      by_cases hl : q.length < Config.queueSize
      · exact ⟨fun _ => ⟨_, by simp [ha, hl, freshEntry], fresh no⟩, fun n => absurd (.inl hl) n⟩
      · refine ⟨?_, fun _ => by simp [ha, hl]⟩
        rintro (hlt | ⟨e, he, hek⟩)
        · exact absurd hlt hl
        · exact absurd (List.any_eq_true.mpr ⟨e, he, hek⟩) ha

/-- The LIF takes a message where the node is not silent, and in FAULTED where it is a STATE or a REPLY (R10). -/
theorem mayQueue_iff (m : Msg) (s : State) :
    mayQueue m.body s = true ↔ s.silent = false ∧ ¬ (s.ss.safety = .faulted ∧ m.body.sentFaulted = false) := by
  unfold mayQueue State.silent
  cases h : s.ss.safety <;> simp
  intro _
  cases m.body <;> simp [Body.sentFaulted]

/-- A message that the LIF does not take changes nothing (R10). -/
theorem place_of_not_taken (m : Msg) (s : State) (h : mayQueue m.body s = false) : place m s = s := by
  have n := (mayQueue_iff m s).not.mp (by simp [h])
  unfold place
  by_cases hs : s.silent = true
  · exact if_pos hs
  · have hf : s.ss.safety = .faulted ∧ m.body.sentFaulted = false := by
      by_contra hf
      exact n ⟨by simpa using hs, hf⟩
    exact (if_neg hs).trans (if_pos hf)

/-- A message that the LIF takes goes to the queue of its class, or is dropped there (R10, R11, R12). -/
theorem place_of_taken (m : Msg) (s : State) (h : mayQueue m.body s = true) :
    (m.body.cls ≤ 1 → place m s = (enqueue s.lif.urgent m).elim (txDrop s) fun q => { s with lif.urgent := q }) ∧
    (2 ≤ m.body.cls → place m s = (enqueue s.lif.ordinary m).elim (txDrop s) fun q => { s with lif.ordinary := q }) := by
  obtain ⟨hs, hf⟩ := (mayQueue_iff m s).mp h
  unfold place
  refine ⟨fun hc => (if_neg (by simp [hs])).trans ((if_neg hf).trans ((if_pos hc).trans ?_)),
    fun hc => (if_neg (by simp [hs])).trans ((if_neg hf).trans ((if_neg (by omega)).trans ?_))⟩
  · cases enqueue s.lif.urgent m <;> rfl
  · cases enqueue s.lif.ordinary m <;> rfl

/-- A message dropped is counted, and TX-DROP is present (R11, R12). -/
theorem txDrop_eq (s : State) : txDrop s = txDropped s := by
  simp [txDrop, txDropped, raise, attentionRaise, Attention.code, satSucc]

/-- The node sends any message in the five open states (R10). -/
theorem mayQueue_of_open (b : Body) (s : State) (h : s.ss.safety.isOpen = true) : mayQueue b s = true := by
  unfold mayQueue
  cases hs : s.ss.safety <;> simp_all [Safety.isOpen]

/-- A REPLY in the five open states takes the last place of the ordinary queue, with DEST the station of its command, or is
dropped (R12, R190). -/
theorem reply_spec (w : Slot) (code : Nat) (st : Status) (d : ReplyData) (s : State) (h : s.ss.safety.isOpen = true) :
    reply w code st d s =
      if s.lif.ordinary.length < 16 then
        { s with lif.ordinary := s.lif.ordinary ++ [freshEntry w.station (.reply w.serial code st d)] }
      else txDropped s := by
  have p := (place_of_taken { dest := w.station, body := .reply w.serial code st d } s (mayQueue_of_open _ s h)).2
    (by simp [Body.cls])
  unfold reply
  rw [p]
  by_cases hl : s.lif.ordinary.length < 16 <;> simp [enqueue, Body.key, Config.queueSize, hl, freshEntry, txDrop_eq]

end Sys2Proof
end

