-- ==== Sys2Proof/Laws/Stops.lean ====
section
/-! SUPPORT. All that a stop does: the forcing to IDLE, the requests for a mode, the entry to STOPPING and to DISARMED. -/

namespace Sys2Proof.Machine
open Sys2Proof

/-! ### Values that wait for a date -/

/-- What waits for a date after the values of a date have been replaced. -/
theorem getPend_replace {α : Type} (l : List (FrameNo × α)) (d e : FrameNo) (v : α) :
    getPend (l.map fun p => if p.1 == d then (d, v) else p) e =
      if e = d ∧ l.any (fun p => p.1 == d) = true then some v else getPend l e := by
  induction l with
  | nil => simp [getPend]
  | cons p l ih =>
    simp only [getPend, List.map_cons, List.find?_cons, List.any_cons] at ih ⊢
    by_cases hp : p.1 = d
    · by_cases he : e = d
      · subst he; simp [hp]
      · have h1 : (d == e) = false := by simpa using fun h => he h.symm
        have h2 : (p.1 == e) = false := by rw [hp]; exact h1
        simp only [hp, beq_self_eq_true, if_true, h1, he, false_and, if_false] at ih ⊢
        exact ih
    · have h1 : (p.1 == d) = false := by simpa using hp
      by_cases hq : p.1 = e
      · have : ¬ e = d := fun h => hp (hq.trans h)
        simp [hq, this]
      · have h2 : (p.1 == e) = false := by simpa using hq
        simp only [h1, h2, Bool.false_or, Bool.false_eq_true, if_false]
        exact ih

/-- What waits for a date after a value has been placed (R122, R172). -/
theorem getPend_setPend {α : Type} (l : List (FrameNo × α)) (d e : FrameNo) (v : α) :
    getPend (setPend l d v) e = if e = d then some v else getPend l e := by
  unfold setPend
  split
  · rename_i h
    rw [getPend_replace]
    simp [h]
  · rename_i h
    have hn : l.find? (fun p => p.1 == d) = none := by
      rw [List.find?_eq_none]; intro p hp hd; exact h (List.any_eq_true.2 ⟨p, hp, hd⟩)
    simp only [getPend, List.find?_append, List.find?_cons, List.find?_nil]
    by_cases he : e = d
    · subst he
      simp [hn]
    · have : (d == e) = false := by simpa using fun h => he h.symm
      simp [this, he]

/-! ### The forcing to IDLE -/

/-- A CUE completion leaves none pending. -/
theorem completeCue_tpr (st : Status) (s : State) : (completeCue st s).tpr = { s.tpr with cueCompletion := none } := by
  unfold completeCue
  split
  · simp
  · rename_i h; rw [← h]

/-- A change of the take in use, said of the directory. -/
theorem modTake_ts_inUse (f : Take → Take) (s : State) :
    (match s.tpr.take with | some id => modTake id f s | none => s) = 
    { s with ts.dir := s.ts.dir.map (Option.map fun k => if s.tpr.take = some k.id then f k else k) } := by
  split
  · rename_i id h
    rw [h]
    simp only [modTake, Option.some.injEq]
    simp only [eq_comm (a := id)]
  · rename_i h
    rw [h]
    have : (Option.map fun k : Take => if (none : Option Nat) = some k.id then f k else k) = id := by
      funext o; cases o <;> simp
    simp only [this, List.map_id]

/-- What making a take SPENT changes (R149). -/
theorem spendStream_modTake (id : Nat) (s : State) :
    spendStream id s =
      modTake id (fun k => if k.kind = .stream then { k with state := .spent, held := false } else k) s := by
  unfold spendStream
  congr 1
  funext k
  split <;> simp_all

/-- What leaving PLAYING and EASING does to the take in use (R154, R169). -/
theorem spendPlayed_inUse (s : State) :
    spendPlayed s = if s.tpr.activity.plays then
      { s with ts.dir := s.ts.dir.map (Option.map fun k => if s.tpr.take = some k.id then
        (if k.kind = .stream then { k with state := .spent, held := false } else k) else k) } else s := by
  rw [← modTake_ts_inUse]
  unfold spendPlayed
  simp only [spendStream_modTake]
  cases s.tpr.activity <;> cases s.tpr.take <;> rfl

/-- All that the forcing to IDLE does to the Take Player, the takes and the ease settings (R169, R187). -/
theorem forceIdle_forced (s : State) : ForcedIdle s (forceIdle s) := by
  have hd := modTake_ts_inUse (fun k => { k with state := if k.length = 0 then .loading else .ready }) s
  refine ⟨fun h => ?_, fun h => ?_, fun h => ?_, fun h => ?_⟩
  · simp [forceIdle, h]
  · simp only [forceIdle, h]; exact ⟨rfl, rfl, rfl⟩
  · have e : endRecording s = _ := hd
    simp only [forceIdle, h, e]; exact ⟨rfl, rfl, rfl⟩
  · have e := spendPlayed_inUse s
    have e2 : forceIdle s =
        clearLive (clearPlay (easeFor (s.ft.frame + 1) false (completeCue .stopped (spendPlayed s)))) := by
      unfold forceIdle; cases ha : s.tpr.activity <;> simp_all [Activity.hasTake]
    rw [e2]
    refine ⟨?_, ?_, ?_, ?_, ?_, ?_⟩
    · rw [e]
      simp only [clearLive, clearPlay, easeFor, completeCue_tpr]
      split <;> rfl
    · rw [e]
      simp only [clearLive, clearPlay, easeFor]
      split <;> simp
    · rw [e]
      simp only [clearLive, clearPlay, easeFor, getPend_setPend]
      simp
    · intro d hd
      rw [e]
      simp only [clearLive, clearPlay, easeFor, getPend_setPend, hd, if_false]
      split <;> simp
    · intro h; rw [e]; simp [clearLive, clearPlay, easeFor, h]
    · intro h; rw [e]; simp [clearLive, clearPlay, easeFor, h]

/-! ### Requests for a mode -/

/-- A request that is taken brings the channel into the mode it leads to (R54). -/
theorem requestMode_enters (m : Mode) (i : Nat) (s : State) (hi : i < 4) (on : (s.dlu.lines.get i).enable = true)
    (h1 : (s.chans.get i).mode ≠ m) (h2 : (s.chans.get i).mode ≠ (s.chans.get i).modeFor m) :
    EntersMode (s.cfg.chan.get i).table ((s.chans.get i).modeFor m) (s.chans.get i) ((requestMode m i s).chans.get i) := by
  have e : requestMode m i s = modChan i (Chan.enter (s.cfg.chan.get i).table ((s.chans.get i).modeFor m)) s := by
    simp [requestMode, on, h1, h2]
  rw [e, modChan_chans, quad_get_set _ _ _ _ hi hi, if_pos rfl]
  generalize (s.chans.get i).modeFor m = k at h2
  unfold EntersMode Chan.enter
  refine ⟨rfl, ?_, ?_, ?_, ?_, ?_, ?_, ?_, ?_, ?_, ?_⟩ <;> cases hk : k <;> simp_all
/-- What a request for STOP leaves of a channel (R54, R58). -/
theorem requestStop_chan (i j : Nat) (s : State) (hi : i < 4) (hj : j < 4) :
    ((if (s.chans.get i).mode = .off then s else requestMode .stop i s).chans.get j) =
      if j = i ∧ (s.dlu.lines.get j).enable = true ∧ (s.chans.get j).mode ≠ .off ∧ (s.chans.get j).mode ≠ .stop then
        stopChan (s.chans.get j)
      else s.chans.get j := by
  by_cases hij : j = i
  · subst hij
    by_cases h1 : (s.chans.get j).mode = .off
    · simp [h1]
    · by_cases h2 : (s.dlu.lines.get j).enable = true
      · by_cases h3 : (s.chans.get j).mode = .stop
        · simp [requestMode, h2, h3]
        · simp [requestMode, h1, h2, h3, Chan.modeFor, quad_get_set, hj, Chan.enter, stopChan]
      · simp [requestMode, h1, h2]
  · have : ∀ f, (modChan i f s).chans.get j = s.chans.get j := fun f => by simp [quad_get_set, hi, hj, hij]
    simp only [hij, false_and, if_false]
    unfold requestMode
    dsimp only
    repeat' split
    all_goals first | rfl | exact this _

/-- Which channels the request for STOP reaches (R58, R108). -/
theorem stopAll_chan (i : Nat) (s : State) (hn : s.cfg.nChans ≤ 4) (hi : i < 4) :
    (stopAll s).chans.get i =
      if i < s.cfg.nChans ∧ (s.dlu.lines.get i).enable = true ∧ (s.chans.get i).mode ≠ .off ∧ (s.chans.get i).mode ≠ .stop then
        stopChan (s.chans.get i)
      else s.chans.get i := by
  have fold : ∀ (n : Nat) (s : State), n ≤ 4 →
      ((List.range n).foldl (fun s k => if (s.chans.get k).mode = .off then s else requestMode .stop k s) s).dlu = s.dlu ∧
      ((List.range n).foldl (fun s k => if (s.chans.get k).mode = .off then s else requestMode .stop k s) s).chans.get i =
        if i < n ∧ (s.dlu.lines.get i).enable = true ∧ (s.chans.get i).mode ≠ .off ∧ (s.chans.get i).mode ≠ .stop then
          stopChan (s.chans.get i)
        else s.chans.get i := by
    intro n
    induction n with
    | zero => intro s _; simp
    | succ n ih =>
      intro s h
      obtain ⟨hd, hc⟩ := ih s (by omega)
      rw [List.range_succ, List.foldl_append]
      generalize (List.range n).foldl _ s = u at hd hc
      simp only [List.foldl_cons, List.foldl_nil]
      refine ⟨?_, ?_⟩
      · split <;> simp [hd]
      · rw [requestStop_chan n i u (by omega) hi, hd]
        by_cases hin : i = n
        · subst hin; simp_all
        · have : (i < n + 1) = (i < n) := by simp; omega
          simp [hin, this, hc]
  exact (fold _ s hn).2

/-! ### Completions -/

/-- The completion of an ARM is its REPLY and leaves none pending. -/
theorem completeArm_answered (st : Status) (s : State) :
    completeArm st s = { answered s.ss.armPending codeArm st s with ss.armPending := none } := by
  unfold completeArm
  cases h : s.ss.armPending with
  | none =>
    have e : s = { s with ss.armPending := none } := by rw [← h]
    exact e
  | some w => rfl

/-- The completion of a DISARM is its REPLY and leaves none pending. -/
theorem completeDisarm_answered (s : State) :
    completeDisarm s = { answered s.ss.disarmPending codeDisarm .done s with ss.disarmPending := none } := by
  unfold completeDisarm
  cases h : s.ss.disarmPending with
  | none =>
    have e : s = { s with ss.disarmPending := none } := by rw [← h]
    exact e
  | some w => rfl

/-- Where the node may send, what a message does to the queues and the attention set depends on these alone (R10). -/
theorem place_congr (m : Msg) (s t : State) (hs : s.ss.safety.isOpen = true) (ht : t.ss.safety.isOpen = true)
    (hl : t.lif = s.lif) (ha : t.attention = s.attention) :
    (place m t).lif = (place m s).lif ∧ (place m t).attention = (place m s).attention := by
  have hs' := place_of_taken m s (mayQueue_of_open _ s hs)
  have ht' := place_of_taken m t (mayQueue_of_open _ t ht)
  rcases Nat.lt_or_ge m.body.cls 2 with h | h
  · rw [hs'.1 (by omega), ht'.1 (by omega), hl]
    cases enqueue s.lif.urgent m <;> simp [txDrop, raise, hl, ha]
  · rw [hs'.2 h, ht'.2 h, hl]
    cases enqueue s.lif.ordinary m <;> simp [txDrop, raise, hl, ha]

/-- The same for a completion REPLY. -/
theorem answered_congr (p : Option Slot) (code : Nat) (st : Status) (s t : State) (hs : s.ss.safety.isOpen = true)
    (ht : t.ss.safety.isOpen = true) (hl : t.lif = s.lif) (ha : t.attention = s.attention) :
    (answered p code st t).lif = (answered p code st s).lif ∧
      (answered p code st t).attention = (answered p code st s).attention := by
  cases p with
  | none => exact ⟨hl, ha⟩
  | some w => exact place_congr _ s t hs ht hl ha

/-- Which blocks a completion REPLY leaves as they are. -/
@[simp] theorem answered_frame (p : Option Slot) (code : Nat) (st : Status) (s : State) :
    (answered p code st s).ft = s.ft ∧ (answered p code st s).ru = s.ru ∧ (answered p code st s).chans = s.chans ∧
    (answered p code st s).spl = s.spl ∧ (answered p code st s).dlu = s.dlu ∧ (answered p code st s).ss = s.ss ∧
    (answered p code st s).pu = s.pu ∧ (answered p code st s).iu = s.iu ∧ (answered p code st s).zu = s.zu ∧
    (answered p code st s).ts = s.ts ∧ (answered p code st s).tpr = s.tpr ∧ (answered p code st s).cl = s.cl ∧
    (answered p code st s).cfg = s.cfg ∧ (answered p code st s).pins = s.pins ∧
    (answered p code st s).pending = s.pending := by
  unfold answered
  split <;> simp

/-- The REPLY of a CUE completion. -/
theorem completeCue_sends (st : Status) (s t : State) (hs : s.ss.safety.isOpen = true) (ht : t.ss = s.ss)
    (hl : t.lif = s.lif) (ha : t.attention = s.attention) (hp : t.tpr = s.tpr) :
    (completeCue st t).lif = (answered s.tpr.cueCompletion codeCue st s).lif ∧
      (completeCue st t).attention = (answered s.tpr.cueCompletion codeCue st s).attention := by
  have h : (completeCue st t).lif = (answered t.tpr.cueCompletion codeCue st t).lif ∧
      (completeCue st t).attention = (answered t.tpr.cueCompletion codeCue st t).attention := by
    unfold completeCue
    cases t.tpr.cueCompletion <;> exact ⟨rfl, rfl⟩
  rw [h.1, h.2, hp]
  exact answered_congr _ _ _ s t hs (by rw [ht]; exact hs) hl ha

/-- All that the forcing to IDLE sends (R169). -/
theorem forceIdle_sends (s : State) (hs : s.ss.safety.isOpen = true) :
    (forceIdle s).lif = (answered (pendingCue s) codeCue .stopped s).lif ∧
      (forceIdle s).attention = (answered (pendingCue s) codeCue .stopped s).attention := by
  have hc := completeCue_sends .stopped s (spendPlayed s) hs (by simp) (by simp) (by simp) (by simp)
  unfold forceIdle pendingCue
  cases s.tpr.activity
  · exact ⟨rfl, rfl⟩
  · exact ⟨rfl, rfl⟩
  · simp [clearLive, Activity.hasTake, answered]
  all_goals exact hc

/-- The forcing seen from a state with the same Take Player, takes and ease settings. -/
theorem forcedIdle_of_same {s u t : State} (h : ForcedIdle u t) (htpr : u.tpr = s.tpr) (hts : u.ts = s.ts)
    (hpu : u.pu = s.pu) (hft : u.ft = s.ft) : ForcedIdle s t := by
  unfold ForcedIdle at h ⊢
  rw [htpr, hts, hpu, hft] at h
  exact h

/-- The forcing seen at a state with the same Take Player, takes and ease settings. -/
theorem forcedIdle_to_same {s t v : State} (h : ForcedIdle s t) (htpr : v.tpr = t.tpr) (hts : v.ts = t.ts)
    (hpu : v.pu = t.pu) : ForcedIdle s v := by
  unfold ForcedIdle at h ⊢
  rw [htpr, hts, hpu]
  exact h

/-- The forcing to IDLE leaves every record of the store as it is. -/
theorem forcedIdle_store {s t : State} (h : ForcedIdle s t) : t.ts.store = s.ts.store := by
  obtain ⟨h1, h2, h3, h4⟩ := h
  have hp : s.tpr.activity.hasTake = true → t.ts.store = s.ts.store := by
    intro ht
    obtain ⟨-, -, -, -, h5, h6⟩ := h4 ht
    cases hp : s.tpr.activity.plays
    · rw [h6 hp]
    · rw [h5 hp]
  cases ha : s.tpr.activity
  · rw [(h1 ha).2.1]
  · rw [(h2 ha).2.1]
  · rw [(h3 ha).2.1]
  all_goals exact hp (by simp [ha, Activity.hasTake])

/-! ### Entry to STOPPING and to DISARMED -/

/-- All that the entry to STOPPING does (R108). -/
theorem enterStopping_enters (s : State) (hs : s.ss.safety.canStop = true) (hn : s.cfg.nChans ≤ 4) :
    EntersStopping s (enterStopping s) := by
  have ho : s.ss.safety.isOpen = true := by cases h : s.ss.safety <;> simp_all [Safety.canStop, Safety.isOpen]
  have e : enterStopping s = stopAll (forceIdle (completeArm .stopped
      { s with ss := { s.ss with safety := .stopping, timer := none } })) := rfl
  have ha := completeArm_answered .stopped { s with ss := { s.ss with safety := .stopping, timer := none } }
  generalize hu : completeArm .stopped { s with ss := { s.ss with safety := .stopping, timer := none } } = u at e ha
  have huo : u.ss.safety.isOpen = true := by rw [ha]; simp [Safety.isOpen]
  have hA := answered_congr s.ss.armPending codeArm .stopped s { s with ss := { s.ss with safety := .stopping, timer := none } }
    ho rfl rfl rfl
  have hul : u.lif = (answered s.ss.armPending codeArm .stopped s).lif := by rw [ha]; exact hA.1
  have hua : u.attention = (answered s.ss.armPending codeArm .stopped s).attention := by rw [ha]; exact hA.2
  have hut : u.tpr = s.tpr ∧ u.ts = s.ts ∧ u.pu = s.pu ∧ u.ft = s.ft ∧ u.chans = s.chans ∧ u.dlu = s.dlu ∧ u.cfg = s.cfg := by
    rw [ha]; simp
  have hF := forceIdle_sends u huo
  have hp : pendingCue u = pendingCue s := by unfold pendingCue; rw [hut.1]
  have hC := answered_congr (pendingCue s) codeCue .stopped (answered s.ss.armPending codeArm .stopped s) u
    (by simpa using ho) huo hul hua
  have hst := forcedIdle_store (forceIdle_forced u)
  refine ⟨?_, ?_, ?_, ?_, ?_, ?_⟩
  · rw [e]; simp [ha]
  · refine forcedIdle_to_same (forcedIdle_of_same (forceIdle_forced u) hut.1 hut.2.1 hut.2.2.1 hut.2.2.2.1) ?_ ?_ ?_ <;>
      rw [e] <;> simp
  · rw [e]; simp [hF.1, hp, hC.1]
  · rw [e]; simp [hF.2, hp, hC.2]
  · intro i hi
    rw [e, stopAll_chan i _ (by simpa [hut] using hn) hi]
    simp [hut]
  · intro b hb
    have hts : (enterStopping s).ts = (forceIdle u).ts := by rw [e]; simp
    cases b
    case store => exact (congrArg Ts.store hts).trans (hst.trans (congrArg Ts.store hut.2.1))
    all_goals rw [e]
    all_goals first | (simp at hb; done) | simp [SameBlock, ha]

/-- What turning one drive off leaves of a channel's line, values and reading (R55, R88). -/
theorem driveOff_chan (i j : Nat) (s : State) (hi : i < 4) (hj : j < 4) :
    ((driveOff i s).dlu.lines.get j = if j = i then
      offLine (s.dlu.lines.get j)
      else s.dlu.lines.get j) ∧
    ((driveOff i s).chans.get j = if j = i ∧ (s.chans.get j).mode ≠ .off then
      offChan (s.chans.get j)
      else s.chans.get j) ∧
    ((driveOff i s).spl.readings.get j = if j = i ∧ (s.chans.get j).mode ≠ .off then
      { s.spl.readings.get j with ferr := 0 } else s.spl.readings.get j) := by
  by_cases hij : j = i
  · subst hij
    by_cases h1 : (s.chans.get j).mode = .off
    · simp [driveOff, enterOff, h1, quad_get_set, hj, offLine]
    · simp [driveOff, enterOff, h1, quad_get_set, hj, offLine, offChan]
  · unfold driveOff enterOff
    split <;> simp [quad_get_set, hi, hj, hij]

/-- The same for every channel of the node. -/
theorem allDrivesOff_chan (i : Nat) (s : State) (hn : s.cfg.nChans ≤ 4) (hi : i < 4) :
    ((allDrivesOff s).dlu.lines.get i = if i < s.cfg.nChans then
      offLine (s.dlu.lines.get i)
      else s.dlu.lines.get i) ∧
    ((allDrivesOff s).chans.get i = if i < s.cfg.nChans ∧ (s.chans.get i).mode ≠ .off then
      offChan (s.chans.get i)
      else s.chans.get i) ∧
    ((allDrivesOff s).spl.readings.get i = if i < s.cfg.nChans ∧ (s.chans.get i).mode ≠ .off then
      { s.spl.readings.get i with ferr := 0 } else s.spl.readings.get i) := by
  have fold : ∀ (n : Nat), n ≤ 4 → ∀ u, u = (List.range n).foldl (fun s k => driveOff k s) s →
      (u.dlu.lines.get i = if i < n then
        offLine (s.dlu.lines.get i)
        else s.dlu.lines.get i) ∧
      (u.chans.get i = if i < n ∧ (s.chans.get i).mode ≠ .off then
        offChan (s.chans.get i)
        else s.chans.get i) ∧
      (u.spl.readings.get i = if i < n ∧ (s.chans.get i).mode ≠ .off then
        { s.spl.readings.get i with ferr := 0 } else s.spl.readings.get i) := by
    intro n
    induction n with
    | zero => rintro - u rfl; simp
    | succ n ih =>
      rintro h u rfl
      rw [List.range_succ, List.foldl_append]
      obtain ⟨h1, h2, h3⟩ := ih (by omega) _ rfl
      generalize (List.range n).foldl (fun s k => driveOff k s) s = u at h1 h2 h3
      simp only [List.foldl_cons, List.foldl_nil]
      obtain ⟨g1, g2, g3⟩ := driveOff_chan n i u (by omega) hi
      rw [g1, g2, g3, h1, h2, h3]
      by_cases hin : i = n
      · subst hin; simp
      · have : (i < n + 1) = (i < n) := by simp; omega
        simp [hin, this]
  exact fold _ hn _ rfl

/-- All that the entry to DISARMED does, from SECURING or by ESTOP (R111, R113, R114). -/
theorem enterDisarmed_enters (s : State) (hs : s.ss.safety.driven = true) (hn : s.cfg.nChans ≤ 4) :
    EntersDisarmed s (enterDisarmed s) := by
  have ho : s.ss.safety.isOpen = true := by cases h : s.ss.safety <;> simp_all [Safety.driven, Safety.isOpen]
  have hd := fun i hi => allDrivesOff_chan i s hn hi
  have e : enterDisarmed s = clearFaultOff
      { completeDisarm (completeArm .stopped (forceIdle { allDrivesOff s with ss.timer := none })) with
        ss.safety := .disarmed } := rfl
  generalize hw : ({ allDrivesOff s with ss.timer := none } : State) = w at e
  have hwo : w.ss.safety.isOpen = true := by rw [← hw]; simpa using ho
  have hws : w.tpr = s.tpr ∧ w.ts = s.ts ∧ w.pu = s.pu ∧ w.ft = s.ft ∧ w.lif = s.lif ∧ w.attention = s.attention ∧
      w.ss = { s.ss with timer := none } ∧ w.cfg = s.cfg := by rw [← hw]; simp
  have hF := forceIdle_sends w hwo
  have hp : pendingCue w = pendingCue s := by unfold pendingCue; rw [hws.1]
  have hC := answered_congr (pendingCue s) codeCue .stopped s w ho hwo hws.2.2.2.2.1 hws.2.2.2.2.2.1
  rw [hp, hC.1, hC.2] at hF
  have hst := forcedIdle_store (forceIdle_forced w)
  rw [hws.2.1] at hst
  generalize hv : forceIdle w = v at e hF
  have hvs : v.ss = { s.ss with timer := none } := by rw [← hv]; simpa using hws.2.2.2.2.2.2.1
  have hA := answered_congr s.ss.armPending codeArm .stopped (answered (pendingCue s) codeCue .stopped s) v
    (by simpa using ho) (by rw [hvs]; exact ho) hF.1 hF.2
  rw [completeArm_answered, hvs] at e
  rw [completeDisarm_answered] at e
  simp only [answered_frame, hvs] at e
  have hD := fun z hz hl ha => answered_congr s.ss.disarmPending codeDisarm .done
    (answered s.ss.armPending codeArm .stopped (answered (pendingCue s) codeCue .stopped s)) z (by simpa using ho) hz hl ha
  refine ⟨?_, ?_, ?_, ?_, ?_, ?_⟩
  · rw [e]; simp [clearFaultOff]
  · refine forcedIdle_to_same (forcedIdle_of_same (forceIdle_forced w) hws.1 hws.2.1 hws.2.2.1 hws.2.2.2.1) ?_ ?_ ?_ <;>
      rw [e, hv] <;> simp [clearFaultOff]
  · rw [e]
    refine (hD _ ?_ ?_ ?_).1
    · exact ho
    · exact hA.1
    · exact hA.2
  · rw [e]
    refine (hD _ ?_ ?_ ?_).2
    · exact ho
    · exact hA.1
    · exact hA.2
  · intro i hi
    have h4 : i < 4 := by omega
    have hx : (enterDisarmed s).chans = (allDrivesOff s).chans ∧ (enterDisarmed s).spl = (allDrivesOff s).spl ∧
        (enterDisarmed s).dlu.lines = (allDrivesOff s).dlu.lines.map fun l => { l with faultOff := false } := by
      rw [e, ← hv, ← hw]; simp [clearFaultOff]
    obtain ⟨h1, h2, h3⟩ := hd i h4
    rw [hx.1, hx.2.1, hx.2.2, quad_get_map, h1, h2, h3]
    refine ⟨by simp [hi], fun h => by simp [h], fun h => by simp [h, hi]⟩
  · intro b hb
    have hts : (enterDisarmed s).ts = (forceIdle w).ts := by rw [e, hv]; simp [clearFaultOff]
    cases b
    case store => exact (congrArg Ts.store hts).trans hst
    all_goals rw [e, ← hv, ← hw]
    all_goals first | (simp at hb; done) | simp [SameBlock, clearFaultOff]
end Sys2Proof.Machine
end

