-- ==== Sys2Proof/Tests/Slice0.lean ====
section
/-! SUPPORT. Tests of the model: a term that each check of well-formedness refuses, the worked examples of the manual, and
for every statement with hypotheses a state and operands that meet them. -/

namespace Sys2Proof.Tests

open Sys2Proof Sys2Proof.Machine

set_option Elab.async false

/-! ### A node for the tests -/

/-- A channel with a rising table, a brake and both limit lines. -/
def channel : ChanCfg :=
  { kind := .pan, brake := true, lowLimit := true, highLimit := true, lo := -1000, hi := 5000, vmax := 200, vcue := 100,
    ferrMax := 100, ferrTicks := 3, devTol := 50, amax := 6, astop := 15, table := [(0, -1000), (60000, 5000)] }

/-- Station 5 with one channel, the control station 10 and the required peer 20. -/
def cfg : NodeCfg :=
  { station := 5, crane := 7, bitRate := 2, timing := { refUse := true, n := 64000, s := 4 }, lossTimeout := 3,
    liveTimeout := 3, paceStep := 2, zoneClearTime := 2, enableSettle := 2, brakeRelease := 2, brakeSet := 2,
    controls := [10], controlsKnown := true, nChans := 1, chan := { Quad.fill ChanCfg.absent with c0 := channel },
    zones := { cls := .stop, factor := 0, high := true } :: { cls := .slow, factor := 6, high := true } ::
      List.replicate 6 { cls := .none, factor := 0, high := true },
    peers := [20], watch := [{ station := 20, channel := 0 }],
    cross := [{ channel := 0, slot := 0, srcLow := 0, srcHigh := 30000, limLow := -500, limHigh := 3000 }] }

/-- The node right after LOADING. -/
def fresh : State := leaveLoading cfg { Ts.reset with width := some 1 } State.reset

/-- The required peer as heard. -/
def peer : RosterEntry := { station := 20, role := .node, pinned := true, heard := true, age := 0, last := none }

/-- A reading in order. -/
def reading : Reading :=
  { position := 1000, status := some .ok, valid := true, stale := 0, ferr := 0, received := true, hist := [] }

/-- The node ready for ARM. -/
def ready : State :=
  { fresh with
    ru := { fresh.ru with roster := [peer], learning := 0 }, spl.readings := { Quad.fill Reading.reset with c0 := reading }
    lif.lineIdle := true, ft.frame0 := false, ft.frame := 100, ft.tick := 1 }

/-- The drive of channel 0 on, its brake released and the channel in a mode at 1,000 counts. -/
def driving (m : Mode) (v : Int) (s : State) : State :=
  { s with
    chans := { s.chans with c0 := { Chan.reset with mode := m, x := 1000, v := v, held := 1000 } }
    dlu.lines := { s.dlu.lines with c0 := { DriveLine.reset with enable := true, released := true } } }

/-- The node ARMED at rest. -/
def armed : State := driving .hold 0 { ready with ss.safety := .armed }

/-- A take of eight records at the head of the store. -/
def resident : Take :=
  { id := 1, kind := .resident, state := .ready, chanSet := 1, editSet := 1, base := 0, size := 8, loader := 10,
    length := 8, fill := 0, retired := 0, endReceived := false, high := 0, low := 0, held := false, latch := none }

/-- A stream take of 64 records behind it. -/
def stream : Take :=
  { resident with id := 2, kind := .stream, state := .loading, base := 8, size := 64, length := 0, fill := 40, high := 32,
                  low := 8 }

/-- The directory with some takes. -/
def holding (ts : List Take) (s : State) : State :=
  { s with ts.dir := ts.map some ++ List.replicate (8 - ts.length) none }

/-- A message header of the control station. -/
def control (length : Nat) : Header := { source := 10, dest := 0, length := BitVec.ofNat 6 length }

/-- A message header of the peer. -/
def fromPeer (length : Nat) : Header := { source := 20, dest := 0, length := BitVec.ofNat 6 length }

/-- The state after a command. -/
def after (c : Instr) (s : State) : State :=
  match exec c s with
  | .next t => t
  | .fault f => nomatch f
  | .refused _ => s

/-- The messages in both queues. -/
def queued (s : State) : List Body := (s.lif.urgent ++ s.lif.ordinary).map (·.msg.body)

/-- No line active. -/
def quietLines : LineLevels := { zone := 0, estop := 0, fault := 0, low := 0, high := 0 }

/-- A STATE of a DISARMED station without channels. -/
def report : StateFields :=
  { safety := 2, activity := 0, take := 0, cursor := 0, applied := 16, target := 16, claims := 0, attention := 0, zones := 0,
    flags := 0, count := 0, chans := [] }

/-! ### Well-formedness: a term that each check refuses -/

theorem test_wf_length : Header.wf (control 49) = false ∧ (Instr.stop (control 49) 1 1).wf = false := by decide

theorem test_wf_lengthOfEachKind :
    (Instr.pace (control 49) 1).wf = false ∧ (Instr.arm (control 49) 0).wf = false ∧
      (Instr.record (control 49) 0 1).wf = false ∧ (Instr.sensorRead (control 49) 0 0 0).wf = false ∧
      (Instr.latch (control 49) 0 1 0).wf = false ∧ (Instr.takeDelete (control 49) 0 1).wf = false := by decide

theorem test_wf_image : (Instr.leavingLoading (List.replicate 8193 0)).wf = false := by decide +kernel

theorem test_wf_orderTwice : (Instr.flywheelTick quietLines [.poll, .poll]).wf = false := by decide

theorem test_wf_frameWorkAtServoTick : (Instr.servoTick quietLines [.brake]).wf = false := by decide

theorem test_wf_rollPairs : (Instr.roll (control 4) false 2 16 [(1, 1)]).wf = false := by decide

theorem test_wf_liveValues : (Instr.live (control 6) true 3 0 [100]).wf = false := by decide

theorem test_wf_stateChannels :
    (Instr.state (control 16) { report with count := 1 }).wf = false := by decide

theorem test_wf_samplesRecords : (Instr.samples (control 9) 1 0 false 1 []).wf = false := by decide

theorem test_wf_commandArguments : (Instr.commandNotInCatalogue (control 4) 0 99 [1]).wf = false := by decide

theorem test_wf_commandInCatalogue : (Instr.commandNotInCatalogue (control 2) 0 1 []).wf = false := by decide

theorem test_wf_goodTerms :
    (Instr.roll (control 4) false 1 16 [(1, 1)]).wf = true ∧ (Instr.live (control 4) true 2 0 [100]).wf = true ∧
      (Instr.commandNotInCatalogue (control 4) 0 99 [1, 2]).wf = true ∧
      (Instr.commandNotInCatalogue (control 5) 0 14 [6, 0, 0]).wf = true ∧
      (Instr.servoTick quietLines [.compute, .poll]).wf = true := by decide

/-! ### The arithmetic of chapter 4 -/

/-- The falling IRIS table of R64 and R71. -/
def iris : List (Nat × Int) := [(0, 5000), (60000, -1000)]

theorem test_calibration : cal iris 100 = 4990 ∧ cal iris 30005 = 1999 ∧ cal iris 61000 = -1000 := by decide

theorem test_inverse : inverse iris 1999 = 30010 ∧ inverse iris 6000 = 0 ∧ inverse iris (-2000) = 60000 := by decide

theorem test_stoppingDistance :
    stopDistance 15 40 = 75 ∧ stopDistance 50 200 = 500 ∧ stopDistance 10 9 = 9 ∧ stopDistance 10 30 = 60 := by decide

theorem test_brakeSpeed : brakeSpeed 6 52 = 22 ∧ brakeSpeed 6 (-52) = 22 ∧ brakeSpeed 6 0 = 0 := by decide +kernel

theorem test_decelerate : decelerate 15 40 = 25 ∧ decelerate 15 25 = 10 ∧ decelerate 15 (-10) = 0 := by decide

theorem test_nearestTies : nearest 5 10 = 1 ∧ nearest (-5) 10 = -1 ∧ nearest 4 10 = 0 ∧ nearest 5 (-10) = -1 := by decide

theorem test_paceStep :
    movePace 2 9 16 = 14 ∧ movePace 2 9 14 = 12 ∧ movePace 2 9 12 = 10 ∧ movePace 2 9 10 = 9 ∧ movePace 2 16 9 = 11 := by
  decide

theorem test_goals : interpolate 20000 19990 0 = 20000 ∧ interpolate 20000 19990 2048 = 19995 := by decide

/-! ### The layouts of chapter 13 -/

/-- An ATTENTION query of station 10 to node 5, octet by octet (section 13.2). -/
theorem test_commandSpelled :
    let p : Packet := { cls := 4, source := 10, kind := 8, dest := 5, payload := [77, 14, 0, 0, 1] }
    received 1 p p.check = .attention { source := 10, dest := 5, length := 5 } 77 0 1 ∧
      received 1 p (p.check ^^^ 1) = .badMessage .check ∧
      received 1 { p with cls := 3 } ({ p with cls := 3 } : Packet).check = .badMessage .kindClass := by decide +kernel

/-- A LIVE with ENABLE and two channels, and a SAMPLES with END and one record (section 13.2). -/
theorem test_payloadsSpelled :
    messageSpelled 1 (control 6) 6 [0x85, 3, 0x12, 0x34, 0x56, 0x78] = .live (control 6) true 5 3 [0x1234, 0x5678] ∧
      messageSpelled 1 (control 9) 12 [1, 0, 0, 2, 1, 1, 0xAB, 0xCD, 9] =
        .samples (control 9) 1 2 true 1 [{ v0 := 0xABCD, v1 := 0, v2 := 0, v3 := 0, mark := 9 }] ∧
      messageSpelled 1 (control 4) 14 [0x81, 16, 13, 2] = .roll (control 4) true 1 16 [(13, 2)] := by decide +kernel

/-- The octets of a STOP and of a MARK, and the first bits of the STOP on the line (R1, R2). -/
theorem test_octetsSent :
    (Body.stop .zone 3).payload = [2, 3] ∧ (Body.mark 1 70000 9).payload = [1, 1, 0x11, 0x70, 9] ∧
      ((Msg.packet 5 { dest := 0, body := .stop .zone 3 }).lineBits.take 11) =
        [false, false, false, false, false, false, false, true, false, true, false] := by decide +kernel

/-- A response of an encoder with its check, and one with a wrong octet (section 13.3). -/
theorem test_sensorExchange :
    pollSpelled true (withCheck [0, 1, 0xFF, 0xFF, 0xFE]) = .pollResponse .good 0 1 (-2) ∧
      pollSpelled true ((withCheck [0, 1, 0xFF, 0xFF, 0xFE]).set 1 0) = .pollResponse .badCheck 0 0 (-2) ∧
      pollSpelled false (withCheck [0, 1, 0xFF, 0xFF, 0xFE]) = .pollResponse .givenUp 0 1 (-2) ∧
      (DriveRecord.octets { channel := 1, x := -2, v := 300, enable := true }) = [0x81, 0xFF, 0xFF, 0xFE, 0, 1, 0x2C] := by
  decide +kernel

/-- The octets of the check of nothing: a register of all ones. -/
theorem test_checkOfNothing : crcOctets [] = 0xFFFF#16 := by decide

/-! ### The configuration image -/

/-- The records of an image after its header, for the node of the tests. -/
def imageBody : List Byte :=
  [5] ++ octetsOf 4 7 ++ [0, 2, 4, 1] ++ octetsOf 2 1000 ++ [8, 8, 3, 3, 2, 2, 2, 2, 2, 1, 1, 1, 1, 1] ++ [10] ++
    ([3, 7] ++ octetsOfInt 3 (-1000) ++ octetsOf 3 5000 ++ octetsOf 2 200 ++ octetsOf 2 100 ++ octetsOf 2 100 ++ [3] ++
      octetsOf 2 50 ++ octetsOf 2 6 ++ octetsOf 2 15 ++ [2] ++ octetsOf 2 0 ++ octetsOfInt 3 (-1000) ++ octetsOf 2 60000 ++
      octetsOf 3 5000) ++
    [1, 0, 1, 2, 6, 1] ++ (List.replicate 6 [0, 0, 1]).flatten ++ [20] ++ [20, 0] ++
    ([0, 0] ++ octetsOf 2 0 ++ octetsOf 2 30000 ++ octetsOfInt 3 (-500) ++ octetsOf 3 3000)

/-- Records behind a header that fits them. -/
def imageOf (records : List Byte) : Image :=
  octetsOf 2 (records.length + 5) ++ [1] ++ octetsOf 2 (crcOctets records).toNat ++ records

/-- The image of the test node. -/
def image : Image := imageOf imageBody

/-- The image of the test node with one octet of its records changed. -/
def imageWith (i : Nat) (b : Byte) : Image := imageOf (imageBody.set i b)

/-- Two octets read back as the value they were made from. -/
theorem two_octets (v : Nat) (h : v < 65536) (bs rest : List Byte) :
    readOctets (bs ++ octetsOf 2 v ++ rest) bs.length 2 = v := by
  have e : octetsOf 2 v = [BitVec.ofNat 8 (v >>> 8), BitVec.ofNat 8 (v >>> 0)] := rfl
  simp [e, readOctets, List.range, List.range.loop, List.getD, Nat.shiftRight_eq_div_pow]
  omega

/-- The header that fits passes the tests of the header. -/
theorem imageOf_header (rs : List Byte) (h1 : 25 ≤ rs.length) (h2 : rs.length ≤ 8187) :
    Image.failure (imageOf rs).headerChecks = none := by
  have hn : (imageOf rs).length = rs.length + 5 := by
    have := two_octets (rs.length + 5) (by omega) [] ([1] ++ octetsOf 2 (crcOctets rs).toNat ++ rs)
    simpa [imageOf, Image.length] using this
  have hc : (imageOf rs).check = (crcOctets rs).toNat := by
    have := two_octets (crcOctets rs).toNat (crcOctets rs).isLt (octetsOf 2 (rs.length + 5) ++ [1]) rs
    simpa [imageOf, Image.check, octetsOf] using this
  have hl : List.length (imageOf rs) = rs.length + 5 := by simp [imageOf, octetsOf]; omega
  have hv : (imageOf rs).version = 1 := rfl
  have hd : (List.take (rs.length + 5) (imageOf rs)).drop 5 = rs := by
    rw [List.take_of_length_le (by omega)]
    rfl
  simp [Image.failure, Image.headerChecks, hn, hc, hl, hv, hd, Image.inRange, Image.fixedOctets, h1, h2]

/-- An image with such a header is valid when no other condition fails. -/
theorem imageOf_valid (rs : List Byte) (h1 : 25 ≤ rs.length) (h2 : rs.length ≤ 8187)
    (h3 : Image.failure (imageOf rs).firstChecks = none) (h4 : Image.failure (imageOf rs).laterChecks = none) :
    (imageOf rs).verdict = none := by
  simp [Image.verdict, imageOf_header rs h1 h2, h3, h4]

/-- An image with such a header stops at the first condition that fails. -/
theorem imageOf_fails (rs : List Byte) (c : Image.Check) (h1 : 25 ≤ rs.length) (h2 : rs.length ≤ 8187)
    (h3 : Image.failure (imageOf rs).firstChecks = some c ∨
      Image.failure (imageOf rs).firstChecks = none ∧ Image.failure (imageOf rs).laterChecks = some c) :
    (imageOf rs).verdict = some c := by
  rcases h3 with h3 | ⟨h3, h4⟩
  · simp [Image.verdict, imageOf_header rs h1 h2, h3]
  · simp [Image.verdict, imageOf_header rs h1 h2, h3, h4]

theorem test_imageIsValid : image.verdict = none :=
  imageOf_valid imageBody (by decide) (by decide) (by decide +kernel) (by decide +kernel)

theorem test_imageConfig : image.config = cfg := by decide +kernel

/-- The first failures of an empty memory, and of a station number, a timing value, a control station, the number of
channels and a channel kind out of range. -/
theorem test_imageFailures :
    Image.verdict [] = some { code := 1, item := 0, holds := false } ∧
      (imageWith 0 63).verdict = some { code := 4, item := 0, holds := false } ∧
      (imageWith 13 0).verdict = some { code := 5, item := 0, holds := false } ∧
      (imageWith 25 5).verdict = some { code := 6, item := 0, holds := false } ∧
      (imageWith 26 10).verdict = some { code := 8, item := 0, holds := false } :=
  ⟨by decide +kernel, imageOf_fails _ _ (by decide) (by decide) (.inl (by decide +kernel)),
    imageOf_fails _ _ (by decide) (by decide) (.inl (by decide +kernel)),
    imageOf_fails _ _ (by decide) (by decide) (.inl (by decide +kernel)),
    imageOf_fails _ _ (by decide) (by decide) (.inr (by decide +kernel))⟩

/-! ### The allocation example of chapter 8 -/

theorem test_allocation :
    firstFit [] 3000 = some 0 ∧ firstFit [(0, 3000)] 2000 = some 3000 ∧ firstFit [(0, 3000), (3000, 2000)] 1500 = some 5000 ∧
      firstFit [(0, 3000), (5000, 1500)] 2500 = none ∧ firstFit [(0, 3000), (5000, 1500)] 1800 = some 3000 := by decide

/-! ### Start-up: what the statements assume, met -/

/-- The node with the read of an image in progress. -/
def reading1 (w : Option Nat) : State := { State.reset with cl.read := .reading, ts.width := w }

theorem witness_StepRunsTheFrontCommand :
    (armed.withPending [.attempt]).pending = .attempt :: [] ∧ armed.pending = [] := by decide +kernel

theorem witness_ResetGivesTheResetColumns : State.reset.pins.resetLine = true := rfl

theorem witness_ValidImageEntersDisarmed :
    (reading1 none).cl.read = .reading ∧ image.verdict = none ∧ (reading1 (some 1)).ts.width = some image.nChans ∧
      (reading1 (some 2)).ts.width = some 2 ∧ 2 ≠ image.nChans :=
  ⟨rfl, test_imageIsValid, by decide +kernel, rfl, by decide +kernel⟩

theorem witness_FailedReadEntersFaulted :
    (reading1 none).cl.read = .reading ∧
      (∃ c, (imageWith 13 0).verdict = some c ∧ c.code = 5) ∧ (∃ c, (imageWith 25 5).verdict = some c ∧ c.code = 6) ∧
      (∃ c, (imageWith 21 5).verdict = some c ∧ c.code = 3) ∧ ∃ c, (imageWith 26 10).verdict = some c ∧ c.code = 8 :=
  ⟨rfl, ⟨_, test_imageFailures.2.2.1, rfl⟩, ⟨_, test_imageFailures.2.2.2.1, rfl⟩,
    ⟨{ code := 3, item := 0, holds := false },
      imageOf_fails _ _ (by decide) (by decide) (.inl (by decide +kernel)), rfl⟩,
    ⟨_, test_imageFailures.2.2.2.2, rfl⟩⟩

/-! ### Ticks -/

/-- A station that has placed the factor 9. -/
def slowed (s : State) : State := { s with pu.entries := [{ origin := 20, factor := some 9, pend := [] }] }

theorem witness_FlywheelTickBeginsTheNextFrame :
    let s := { ready with ft.acc := 63999 }
    (s.ft.running = true ∧ s.cl.restartPending = false ∧ s.ft.acc < s.cfg.timing.n) ∧
      (s.ss.safety.isOpen = true ∧ s.ru.parkPending = false) ∧
      (after (.flywheelTick quietLines []) (slowed s)).pu.target < (slowed s).pu.applied ∧
      ({ s with pu.applied := 9 } : State).pu.applied <
        (after (.flywheelTick quietLines []) { s with pu.applied := 9 }).pu.target ∧
      (after (.flywheelTick quietLines []) s).pu.target = s.pu.applied := by decide +kernel

theorem witness_ReferenceEdgesAndTheirLoss :
    (ready.ft.running = true ∧ ready.cfg.timing.refUse = true ∧ ready.cl.restartPending = false ∧ ready.ft.tick = 1 ∧
      ready.ft.frame0 = false ∧ ready.ft.tick + 1 < ready.cfg.timing.s) ∧ fresh.ft.frame0 = true ∧ fresh.ft.running = true ∧
      (let s := { ready with ft.tick := 0 }
       s.ft.running = true ∧ s.cfg.timing.refUse = true ∧ s.ft.frame0 = false ∧ s.ft.tick = 0) ∧
      ({ ready with cfg.timing := Timing.fallback } : State).cfg.timing.refUse = false ∧
      (let s := { ready with ft.watch := 95999 }
       s.ft.running = true ∧ s.cfg.timing.refUse = true ∧ 2 * s.ft.watch < 3 * s.cfg.timing.n) := by decide +kernel

theorem witness_ServoTickSetsIndexAndGuard :
    (let s := { ready with ft.tick := 0 }
     s.ft.running = true ∧ s.ft.frame0 = false ∧ s.ft.tick + 1 < s.cfg.timing.s) ∧
      (let s := { ready with ft.tick := 2 }
       s.ft.tick + 1 < s.cfg.timing.s ∧ s.ft.tick + 2 = s.cfg.timing.s) := by decide +kernel

theorem test_servoTickMeetsTheNextQuarter :
    (after (.servoTick quietLines []) { ready with ft.acc := 16000 }).ft =
      { ready.ft with acc := 32000, tick := 2, watch := 16000 } := by decide +kernel

/-! ### Counts and causes -/

theorem witness_CountsAndAgesReachTheirEnds :
    (ready.ss.safety.isOpen = true ∧ ({ ready with ru.learning := 1 } : State).ru.learning = 1) ∧
      (let s := { ready with pu.floor := 15, pu.floorQuiet := 32 }
       s.ss.safety.isOpen = true ∧ s.pu.floorQuiet = 32 ∧ s.pu.floor < 16) ∧
      (let s := { ready with ss.overflow := true, ss.overflowQuiet := 32 }
       s.ss.safety.isOpen = true ∧ s.ss.overflowQuiet = 32 ∧ s.ss.overflow = true) ∧
      (let s := { ready with lif.quiet := 8 }
       s.ss.safety ≠ .loading ∧ s.ss.safety ≠ .parked ∧ s.lif.quiet = 8) := by decide +kernel

theorem test_countsEnd :
    (after .rosterRemoval { ready with ru.roster := [{ peer with pinned := false, age := 13 }] }).ru.roster = [] ∧
      (after .rosterRemoval { ready with ru.roster := [{ peer with pinned := false, age := 12 }] }).ru.roster.length = 1 ∧
      (after .linkQuiet { ready with lif.quiet := 8 }).attention = 64 := by decide +kernel

/-- The node with its required peer lost at this frame tick. -/
def losing : State := { ready with ru.roster := [{ peer with age := 4 }] }

theorem witness_PeerLostRaisesPeer :
    losing.ss.safety.isOpen = true ∧
      (∃ e ∈ losing.ru.roster, e.pinned = true ∧ e.heard = true ∧ e.age = losing.cfg.lossTimeout + 1) ∧
      20 ∈ losing.lostSet ∧ (∀ x ∈ losing.lostSet, 20 ≤ x) ∧
      findClaim losing.ss.claims losing.cfg.station .peer = none ∧ losing.ss.claims.length < 32 := by decide +kernel

/-- An own entry of a cause. -/
def own (c : Cause) (d : Nat) : Claim := { origin := 5, cause := c, detail := d, latched := c.isLatched }

/-- A node with some claims. -/
def claiming (cs : List Claim) (s : State) : State := { s with ss.claims := cs }

theorem witness_OwnCauseIsEnteredAndStopsTheNode :
    (Cause.zone ≠ .estop ∧ armed.ss.safety.canStop = true ∧ armed.cfg.nChans ≤ 4 ∧
      findClaim armed.ss.claims armed.cfg.station .zone = none ∧ armed.ss.claims.length < 32 ∧
      (armed.dlu.lines.get 0).enable = true ∧ (armed.chans.get 0).mode ≠ .off) ∧
      (ready.ss.safety.isOpen = true ∧ ready.ss.safety.canStop = false ∧
        findClaim ready.ss.claims ready.cfg.station .zone = none ∧ ready.ss.claims.length < 32) ∧
      (let s := claiming [own .zone 3] ready
       findClaim s.ss.claims s.cfg.station .zone = some (own .zone 3) ∧ (own .zone 3).detail ≠ 2 ∧
         (own .zone 3).detail = 3) ∧
      State.reset.ss.safety.isOpen = false ∧
      (armed.ss.safety.driven = true ∧ findClaim armed.ss.claims armed.cfg.station .estop = none) := by decide +kernel

/-- The zone line 0 of class STOP and the E-stop input 0 active, each at its clear time. -/
def clearing : State :=
  { claiming [own .estop 0, own .zone 0] ready with
    zu.lines := { active := true, run := 0, seen := false, clear := 2 } :: List.replicate 7 LineFilter.reset
    zu.estop := [{ active := true, run := 0, seen := false, clear := 2 }, LineFilter.reset] }

theorem witness_ZoneAndEstopLinesClear :
    clearing.ss.safety.isOpen = true ∧ clearing.zoneCondition ≠ none ∧ (after .zoneClear clearing).zoneCondition = none ∧
      clearing.estopCondition ≠ none ∧ (after .estopClear clearing).estopCondition = none ∧
      LineFilter.reset.active = false ∧ ({ LineFilter.reset with active := true } : LineFilter).active = true ∧
      (let l : LimitLine := { active := false, run := 1 }
       l.active ≠ true ∧ 1 ≤ l.run ∧ ({ l with run := 0 } : LimitLine).run = 0) := by decide +kernel

theorem test_zoneClearSendsClear :
    queued (after .zoneClear clearing) = [.clear .zone] ∧ (after .zoneClear clearing).ss.claims = [own .estop 0] := by
  decide +kernel

/-- The node under live control of channel 0. -/
def live : State := driving .live 30 { armed with tpr.activity := .live, tpr.liveSet := 1 }

theorem witness_LiveTimeoutHaltsTheChannel :
    let s := { live with tpr.live := Quad.fill { age := 3, pend := [] } }
    (s.ss.safety = .armed ∧ s.cfg.nChans ≤ 4 ∧ 0 < s.cfg.nChans ∧ s.tpr.liveSet.getLsbD 0 = true ∧
      s.cfg.liveTimeout ≤ (s.tpr.live.get 0).age ∧ (s.dlu.lines.get 0).enable = true) ∧
      (live.tpr.live.get 0).age < live.cfg.liveTimeout ∧ armed.tpr.liveSet.getLsbD 0 = false := by decide +kernel

/-- The brake timer at its end in a phase. -/
def timed (p : BrakePhase) (m : Safety) (s : State) : State :=
  { s with ss.safety := m, ss.timer := some { phase := p, frames := 0 } }

/-- A sender of a COMMAND. -/
def sender : Slot := { serial := 77, station := 10 }

theorem witness_BrakeTimerEnds :
    (let s := timed .enable .arming armed
     s.ss.safety = .arming ∧ s.ss.timer = some { phase := .enable, frames := 0 } ∧ s.cfg.nChans ≤ 4 ∧ 0 < s.cfg.nChans) ∧
      (let s := { timed .release .arming armed with ss.armPending := some sender }
       s.ss.safety = .arming ∧ s.ss.timer = some { phase := .release, frames := 0 } ∧ s.ss.armPending = some sender) ∧
      (let s := timed .set .securing armed
       s.ss.safety = .securing ∧ s.ss.timer = some { phase := .set, frames := 0 } ∧ s.cfg.nChans ≤ 4) := by decide +kernel

/-! ### START, ABORT and the pending passages -/

/-- The node with its take cued, started at the frame in progress. -/
def cued : State :=
  holding [resident, stream] { armed with
    tpr.activity := .cued, tpr.take := some 1, tpr.rate := some 8, tpr.cueSet := 1,
    tpr.startPend := some { take := 1, frame := 100 } }

/-- The same take playing, aborted at the frame in progress. -/
def playing : State :=
  holding [resident] (driving .play 0 { armed with
    tpr.activity := .playing, tpr.take := some 1, tpr.rate := some 8, tpr.cueSet := 1,
    tpr.startPend := some { take := 1, frame := 100 }, tpr.abortPend := some { take := 1, frame := 100 } })

theorem witness_StartActsOnTheQualifiedNode :
    (cued.ss.safety = .armed ∧ cued.ss.claims = [] ∧ cued.ss.overflow = false ∧ cued.tpr.activity = .cued ∧
      cued.tpr.take = some 1 ∧ cued.tpr.startPend = some { take := 1, frame := cued.ft.frame } ∧
      (cued.findTake 1).isSome = true ∧ cued.cfg.nChans ≤ 4 ∧ cued.tpr.punch = false ∧ cued.tpr.cueSet.getLsbD 0 = true ∧
      (cued.dlu.lines.get 0).enable = true) ∧
      (let s := { cued with tpr.punch := true, tpr.punchMask := 1 }
       s.tpr.punch = true ∧ s.tpr.punchMask.getLsbD 0 = true ∧ (s.dlu.lines.get 0).enable = true) ∧
      (let s := { holding [resident] ready with tpr.startPend := some { take := 1, frame := 100 } }
       s.ss.safety.isOpen = true ∧ s.tpr.startPend = some { take := 1, frame := s.ft.frame } ∧ s.ss.safety ≠ .armed ∧
         (s.findTake 1).isSome = true ∧ s.tpr.activity = .idle) ∧
      (let s := { cued with tpr.activity := .cueing }
       s.ss.safety.isOpen = true ∧ s.tpr.startPend = some { take := 1, frame := s.ft.frame } ∧
         (s.findTake 1).isSome = true ∧ s.tpr.activity = .cueing ∧ s.tpr.take = some 1) ∧
      (playing.ss.safety.isOpen = true ∧ playing.tpr.startPend = some { take := 1, frame := playing.ft.frame } ∧
        playing.tpr.activity = .playing) := by decide +kernel

theorem witness_AbortActsAtItsFrame :
    (playing.ss.safety.isOpen = true ∧ playing.tpr.abortPend = some { take := 1, frame := playing.ft.frame } ∧
      playing.tpr.take = some 1 ∧ playing.tpr.activity = .playing ∧
      playing.tpr.startPend = some { take := 1, frame := playing.ft.frame }) ∧
      (let s := { cued with tpr.activity := .cueing, tpr.abortPend := some { take := 1, frame := 100 },
                            tpr.cueCompletion := some sender }
       s.ss.safety.isOpen = true ∧ s.tpr.abortPend = some { take := 1, frame := s.ft.frame } ∧ s.tpr.take = some 1 ∧
         s.tpr.activity = .cueing ∧ s.tpr.cueCompletion = some sender) := by decide +kernel

theorem witness_PendingPassagesAreCarriedOut :
    (let s := { ready with ru.parkPending := true, ru.parkTicks := 2 }
     s.ru.parkPending = true ∧ 2 ≤ s.ru.parkTicks) ∧
      (let s := { ready with cl.restartPending := true, cl.restartTicks := 2 }
       s.cl.restartPending = true ∧ 2 ≤ s.cl.restartTicks) := by decide +kernel

/-- The parked node. -/
def parked : State := { ready with ss.safety := .parked, lif.parkFilter := true }

theorem witness_WakeAtTheNamedFrame :
    let s := { parked with ru.wake := some 100 }
    s.ss.safety = .parked ∧ s.ru.wake = some s.ft.frame := by decide +kernel

/-! ### The spine line -/

/-- A queue entry. -/
def entry (b : Body) : QEntry := { msg := { dest := 0, body := b }, succ := none, active := false }

/-- The node with messages in its queues. -/
def queueing (u o : List QEntry) (s : State) : State := { s with lif.urgent := u, lif.ordinary := o }

/-- The node with an attempt in progress. -/
def attempting (b : Body) (s : State) : State :=
  if b.cls ≤ 1 then queueing [{ entry b with active := true }] [] s else queueing [] [{ entry b with active := true }] s

theorem witness_AttemptSelectsTheLowestClassFirst :
    (let s := queueing [entry (.pace 9), entry (.stop .zone 0), entry (.clear .link)] [entry (.state (ready.report ready.shownReports))] ready
     s.lif.lineIdle = true ∧ s.silent = false ∧ s.lif.busy = false ∧
       s.lif.urgent = [entry (.pace 9)] ++ entry (.stop .zone 0) :: [entry (.clear .link)] ∧
       (∀ x ∈ [entry (.pace 9)], (Body.stop .zone 0).cls < x.msg.body.cls) ∧
       (∀ x ∈ [entry (.clear .link)], (Body.stop .zone 0).cls ≤ x.msg.body.cls) ∧
       ∀ x ∈ s.lif.ordinary, (Body.stop .zone 0).cls < x.msg.body.cls) ∧
      (let s := queueing [] [entry (.mark 1 0 1), entry (.hold 1 0), entry (.resume 1 0)] ready
       s.lif.lineIdle = true ∧ s.silent = false ∧ s.lif.busy = false ∧
         s.lif.ordinary = [entry (.mark 1 0 1)] ++ entry (.hold 1 0) :: [entry (.resume 1 0)] ∧
         (∀ x ∈ [entry (.mark 1 0 1)], (Body.hold 1 0).cls < x.msg.body.cls) ∧
         (∀ x ∈ [entry (.resume 1 0)], (Body.hold 1 0).cls ≤ x.msg.body.cls) ∧
         ∀ x ∈ s.lif.urgent, (Body.hold 1 0).cls < x.msg.body.cls) ∧
      (ready.lif.urgent = [] ∧ ready.lif.ordinary = []) ∧ fresh.lif.lineIdle = false ∧
      (attempting (.pace 9) ready).lif.busy = true ∧ parked.silent = true := by decide +kernel

/-- An ordinary queue with a number of HOLD messages. -/
def loadedWith (n : Nat) (s : State) : State := queueing [] (List.replicate n (entry (.hold 1 0))) s

/-- The hypotheses of the clauses on placing: queues that hold no key twice, with an entry to replace, an entry in its attempt, no
entry of the key, one free place and none, and the states in which the LIF takes nothing. -/
theorem witness_MessagesArePlaced :
    (let s := queueing [entry (.stop .zone 2)] [{ entry (.roll 16 []) with active := true }] ready
     QueuesSound s ∧ mayQueue (.clear .zone) s = true ∧ (Body.clear .zone).cls ≤ 1 ∧
       overtakes (.clear .zone) (.stop .zone 2) = true ∧ overtakes (.clear .link) (.stop .zone 2) = false ∧
       mayQueue (.roll 9 []) s = true ∧ 2 ≤ (Body.roll 9 []).cls ∧ overtakes (.roll 9 []) (.roll 16 []) = true) ∧
      (QueuesSound (loadedWith 15 ready) ∧ HasPlace { dest := 0, body := .hold 2 0 } (loadedWith 15 ready).lif.ordinary) ∧
      (QueuesSound (loadedWith 16 ready) ∧
        ¬ HasPlace { dest := 0, body := .hold 2 0 } (loadedWith 16 ready).lif.ordinary) ∧
      (let s := { ready with ss.safety := .faulted, cl.spineId := true }
       mayQueue (.reply 7 14 .done .none) s = true ∧ mayQueue (.pace 9) s = false) ∧
      (mayQueue (.reply 7 14 .done .none) { ready with ss.safety := .faulted, cl.spineId := false } = false ∧
        mayQueue (.stop .zone 0) parked = false ∧ mayQueue (.stop .zone 0) State.reset = false) ∧
      (obeys (control 5) 3 (loadedWith 15 ready) = true ∧ (loadedWith 15 ready).lif.ordinary.length < 16 ∧
        obeys (control 5) 3 (loadedWith 16 ready) = true ∧ 16 ≤ (loadedWith 16 ready).lif.ordinary.length) := by
  have sound : ∀ (u o : List QEntry) (s : State), (∀ e ∈ u, e.succ = none) → (∀ e ∈ o, e.succ = none) →
      u.length ≤ 16 ∧ o.length ≤ 16 →
      (u.Pairwise fun a b => a.msg.body.key = none ∨ a.msg.body.key ≠ b.msg.body.key) →
      (o.Pairwise fun a b => a.msg.body.key = none ∨ a.msg.body.key ≠ b.msg.body.key) →
      (∀ e ∈ u, e.msg.body.cls ≤ 1) → (∀ e ∈ o, 2 ≤ e.msg.body.cls) → QueuesSound (queueing u o s) :=
    fun u o s hu ho hl pu po cu co =>
      ⟨⟨hl.1, pu, fun e he m hm => by simp [hu e he] at hm⟩, ⟨hl.2, po, fun e he m hm => by simp [ho e he] at hm⟩, cu, co⟩
  refine ⟨⟨sound _ _ _ ?_ ?_ ?_ ?_ ?_ ?_ ?_, ?_⟩, ⟨sound _ _ _ ?_ ?_ ?_ ?_ ?_ ?_ ?_, ?_⟩,
    ⟨sound _ _ _ ?_ ?_ ?_ ?_ ?_ ?_ ?_, ?_⟩, ?_, ?_, ?_⟩
  all_goals try unfold HasPlace
  all_goals decide +kernel

/-- The urgent queue over one stop (chapter 1, the sequence after R19). -/
theorem test_urgentQueueOverOneStop :
    let placed := ([.abort 7, .stop .zone 2, .pace 10, .stop .zone 1] : List Body).foldl (fun s b => broadcast b s) ready
    queued placed = [.abort 7, .stop .zone 1, .pace 10] ∧
      queued (([.clear .zone, .pace 16] : List Body).foldl (fun s b => broadcast b s) placed) =
        [.abort 7, .clear .zone, .pace 16] := by decide +kernel

/-- A message for an entry in its attempt waits as its successor, and a later one replaces the successor (R13); a REPLY that
finds 16 entries is dropped, a STATE that finds a STATE is not (R12). -/
theorem test_successorsAndDrops :
    (let s := queueing [{ entry (.stop .zone 0) with active := true }] [] ready
     (broadcast (.clear .zone) (broadcast (.stop .zone 1) s)).lif.urgent =
       [{ entry (.stop .zone 0) with active := true, succ := some { dest := 0, body := .clear .zone } }]) ∧
      (let t := after (.counters (control 5) 7 0 0) (loadedWith 16 { ready with lif.txDrops := 65535 })
       t.lif.ordinary = (loadedWith 16 ready).lif.ordinary ∧ t.lif.txDrops = 65535 ∧
         attentionHas t.attention .txDrop = true) ∧
      (let full := queueing [] (entry (.state (ready.report [])) :: List.replicate 15 (entry (.hold 1 0))) ready
       (broadcast (.state (armed.report [])) full).lif.ordinary =
         entry (.state (armed.report [])) :: List.replicate 15 (entry (.hold 1 0))) ∧
      (after (.counters (control 5) 7 0 0) (loadedWith 15 ready)).lif.ordinary.getLast? =
        some (freshEntry 10 (.reply 7 14 .done (.counters 0 0 0))) := by decide +kernel

theorem witness_UnsuccessfulAttemptsKeepTheEntry :
    (attempting (.pace 9) ready).lif.busy = true ∧ min 255 ((attempting (.pace 9) ready).lif.failRun + 1) ≠ 16 ∧
      (let s := { attempting (.pace 9) armed with lif.failRun := 15 }
       s.lif.busy = true ∧ s.lif.failRun = 15 ∧ s.ss.safety.isOpen = true ∧
         findClaim s.ss.claims s.cfg.station .link = none ∧ s.ss.claims.length < 32 ∧ s.ss.safety.canStop = true) := by
  decide +kernel

theorem test_successorTakesThePlace :
    (after .arbitrationLost
      (queueing [{ entry (.stop .zone 0) with active := true, succ := some { dest := 0, body := .clear .zone } }] []
        ready)).lif.urgent = [entry (.clear .zone)] := by decide +kernel

theorem witness_SuccessfulAttemptSendsTheEntry :
    (let b := Body.stop .zone 0
     let s := attempting b ready
     s.lif.busy = true ∧ s.lif.inAttempt = some { entry b with active := true } ∧ b.factorCarried = none ∧
       b.isDone codePark = false ∧ b.isDone codeRestart = false) ∧
      (let b := Body.roll 9 []
       let s := attempting b ready
       s.lif.busy = true ∧ s.lif.inAttempt = some { entry b with active := true } ∧ b.factorCarried = some 9) ∧
      (let b := Body.reply 77 codePark .done .none
       let s := { attempting b ready with ru.parkPending := true }
       s.lif.busy = true ∧ s.lif.inAttempt = some { entry b with active := true } ∧ b.isDone codePark = true ∧
         s.ru.parkPending = true) ∧
      (let b := Body.reply 77 codeRestart .done .none
       let s := { attempting b ready with cl.restartPending := true }
       s.lif.busy = true ∧ s.lif.inAttempt = some { entry b with active := true } ∧ b.isDone codeRestart = true ∧
         s.cl.restartPending = true) := by decide +kernel

theorem witness_BadAndImpostorMessages :
    BadReason.check ≠ .early ∧ ready.deaf = false ∧ ready.lif.rxWait = false ∧ ready.lif.busy = false ∧
      ready.ss.safety.isOpen = true := by decide +kernel

/-! ### Messages -/

/-- A roster of 24 other stations. -/
def crowded : State :=
  { ready with ru.roster := (List.range 24).map fun n => { peer with station := n + 21, pinned := false } }

theorem witness_ValidMessageIsReported :
    (receives (fromPeer 48) ready = true ∧ ready.ss.safety.isOpen = true ∧
      (ready.ru.roster.any fun e => e.station == (fromPeer 48).source.toNat) = true) ∧
      (receives (control 3) ready = true ∧ (ready.ru.roster.any fun e => e.station == (control 3).source.toNat) = false ∧
        ready.ru.roster.length < 24) ∧
      (receives (control 3) crowded = true ∧
        (crowded.ru.roster.any fun e => e.station == (control 3).source.toNat) = false ∧ 24 ≤ crowded.ru.roster.length) ∧
      (let s := { ready with ss.safety := .faulted, cl.spineId := true }
       receives (control 3) s = true ∧ s.ss.safety.isOpen = false) := by decide +kernel

/-- 32 claims of other stations. -/
def full : List Claim :=
  (List.range 32).map fun n => { origin := n + 21, cause := .zone, detail := 0, latched := false }

theorem witness_StopMessageEntersAClaim :
    hears (fromPeer 2) 2 armed = true ∧ hears (control 2) 2 armed = true ∧ armed.ss.safety.canStop = true ∧
      ready.ss.safety.canStop = false ∧ hears (fromPeer 2) 2 ready = true ∧
      Cause.ofCode (1 : Byte).toNat = some .estop ∧ Cause.ofCode (13 : Byte).toNat = some .operator ∧
      armed.isControl (control 2).source.toNat = true ∧
      findClaim (claiming [{ own .zone 3 with origin := 20 }] armed).ss.claims (fromPeer 2).source.toNat .zone =
        some { own .zone 3 with origin := 20 } ∧
      (findClaim armed.ss.claims (fromPeer 2).source.toNat .estop = none ∧ armed.ss.claims.length < 32) ∧
      (hears (fromPeer 2) 2 (claiming full armed) = true ∧
        findClaim (claiming full armed).ss.claims (fromPeer 2).source.toNat .estop = none ∧
        32 ≤ (claiming full armed).ss.claims.length) ∧
      Cause.ofCode (14 : Byte).toNat = none ∧ armed.isControl (fromPeer 2).source.toNat = false ∧
      (let s := { ready with ss.safety := .faulted, cl.spineId := true }
       receives (fromPeer 2) s = true ∧ s.ss.safety.isOpen = false) := by decide +kernel

theorem test_stopStopsTheNode :
    (after (.stop (fromPeer 2) 2 1) live).ss.safety = .stopping ∧
      ((after (.stop (fromPeer 2) 2 1) live).chans.get 0).mode = .stop ∧
      (after (.stop (fromPeer 2) 2 1) live).tpr.liveSet = 0 := by decide +kernel

theorem witness_ClearMessageRemovesItsEntry :
    hears (fromPeer 1) 1 ready = true ∧ Cause.ofCode (13 : Byte).toNat = some .operator ∧
      findClaim ready.ss.claims (fromPeer 1).source.toNat .operator = none ∧ Cause.ofCode (0 : Byte).toNat = none ∧
      (let s := { ready with ss.safety := .faulted, cl.spineId := true }
       receives (fromPeer 1) s = true ∧ s.ss.safety.isOpen = false) := by decide +kernel

theorem test_clearRemovesOneEntry :
    (after (.clear (fromPeer 1) 2) (claiming [own .zone 1, { own .zone 3 with origin := 20 }] ready)).ss.claims =
      [own .zone 1] := by decide +kernel

theorem witness_RollStatesTheClaimsOfItsStation :
    (hears (fromPeer 42) (2 + 2 * (20 : BitVec 5).toNat) (slowed ready) = true ∧ (20 : BitVec 5).toNat ≤ 20 ∧
      (List.replicate 20 ((2 : Byte), (1 : Byte))).length = (20 : BitVec 5).toNat) ∧
      hears (fromPeer 2) (2 + 2 * (0 : BitVec 5).toNat) (slowed ready) = true ∧
      ((16 : Byte).toNat = 16 ∧ ((slowed ready).pu.entries.any fun e => e.origin == (fromPeer 2).source.toNat) = true) := by
  decide +kernel

theorem test_rollReplacesTheStatement :
    (after (.roll (fromPeer 4) false 1 16 [(3, 7)])
      (claiming [own .zone 1, { own .zone 3 with origin := 20 }] ready)).ss.claims =
      [own .zone 1, { origin := 20, cause := .limit, detail := 7, latched := false }] := by decide +kernel

/-- A full pace list. -/
def paced : State :=
  { ready with pu.entries := (List.range 32).map fun n => { origin := n + 21, factor := some 15, pend := [] } }

theorem witness_PaceMessageIsPlacedWithItsDate :
    hears (fromPeer 1) 1 (slowed ready) = true ∧
      (1 ≤ (16 : Byte).toNat ∧ ((slowed ready).pu.entries.any fun e => e.origin == (fromPeer 1).source.toNat) = true) ∧
      (1 ≤ (15 : Byte).toNat ∧ (15 : Byte).toNat ≤ 15 ∧
        (ready.pu.entries.any fun e => e.origin == (fromPeer 1).source.toNat) = false ∧ ready.pu.entries.length < 32) ∧
      (hears (fromPeer 1) 1 paced = true ∧
        (paced.pu.entries.any fun e => e.origin == (fromPeer 1).source.toNat) = false ∧ 32 ≤ paced.pu.entries.length ∧
        getPend paced.pu.floorPend paced.dateNow = none ∧
        getPend ({ paced with pu.floorPend := [(100, 4)] } : State).pu.floorPend paced.dateNow = some 4) ∧
      (17 : Byte).toNat > 16 ∧ (0 : Byte).toNat = 0 := by decide +kernel

theorem witness_AbortAndStartWaitForTheirFrame :
    (let s := { playing with tpr.abortPend := none }
     hears (fromPeer 1) 1 s = true ∧ (1 : Byte) ≠ 0 ∧ s.tpr.take = some (1 : Byte).toNat ∧ s.tpr.activity = .playing ∧
       s.tpr.abortPend = none) ∧
      (hears (fromPeer 1) 1 playing = true ∧ playing.tpr.abortPend = some { take := (1 : Byte).toNat, frame := 100 }) ∧
      (hears (control 2) 2 ready = true ∧ ready.isControl (control 2).source.toNat = true) ∧
      (hears (fromPeer 2) 2 ready = true ∧ ready.isControl (fromPeer 2).source.toNat = false) := by decide +kernel

theorem test_startLeads :
    (after (.start (control 2) 1 0) ready).tpr.startPend = some { take := 1, frame := 102 } ∧
      (after (.start (control 2) 1 61) { ready with ft.guard := true }).tpr.startPend = some { take := 1, frame := 161 } := by
  decide +kernel

theorem witness_LiveMessageDrivesItsChannels :
    (hears (control 4) (2 + 2 * maskCount 1) armed = true ∧ armed.addressed (control 4) = true ∧
      armed.isControl (control 4).source.toNat = true ∧ armed.ss.safety = .armed ∧ armed.tpr.activity = .idle ∧
      armed.cfg.nChans ≤ 4 ∧ 0 < armed.cfg.nChans ∧ (1 : ChanSet).getLsbD 0 = true ∧ (1 : ChanSet).getLsbD 3 = false ∧
      armed.tpr.liveSet.getLsbD 0 = false ∧ (armed.dlu.lines.get 0).enable = true) ∧
      (hears (control 4) (2 + 2 * maskCount 1) live = true ∧ live.tpr.activity = .live ∧ live.tpr.activity ≠ .idle ∧
        live.tpr.liveSet.getLsbD 0 = true) ∧
      (hears (fromPeer 4) (2 + 2 * maskCount 1) ready = true ∧ ready.isControl (fromPeer 4).source.toNat = false ∧
        ready.ss.safety ≠ .armed ∧
        hears { control 4 with dest := 9 } (2 + 2 * maskCount 1) armed = true ∧
        armed.addressed { control 4 with dest := 9 } = false) := by decide +kernel

theorem test_liveGoalsArrive :
    (after (.live (control 4) true 1 7 [20000]) armed).tpr.live.get 0 = { age := 0, pend := [(100, 20000)] } ∧
      ((after (.live (control 4) true 1 7 [20000]) armed).chans.get 0).gCur = 20000 ∧
      (after (.live (control 4) true 1 7 [20000]) armed).tpr.markPend = [(100, 7)] := by decide +kernel

/-- A STATE with one channel record. -/
def reporting (flags : Byte) : StateFields := { report with count := 1, chans := [(30000, flags)] }

theorem witness_StateMessageFillsRosterAndSlots :
    (hears (fromPeer 16) (13 + 3 * (reporting 0).count.toNat) ready = true ∧ (reporting 0).count.toNat ≤ 4 ∧
      Published.ofCode (reporting 0).safety.toNat = some (.node .disarmed) ∧
      Activity.ofCode (reporting 0).activity.toNat = some .idle ∧
      (reporting 0).chans.length = (reporting 0).count.toNat) ∧
      (∃ e ∈ ready.ru.roster, e.station = (fromPeer 16).source.toNat) ∧
      (ready.ru.slots[0]? = some WatchSlot.reset ∧ ready.cfg.watch[0]? = some { station := 20, channel := 0 } ∧
        (fromPeer 16).source.toNat = 20 ∧ (reporting 0).chans[0]? = some (30000, 0) ∧ (0 : Byte).getLsbD 3 = false) ∧
      ((reporting 8).chans[0]? = some (30000, 8) ∧ (8 : Byte).getLsbD 3 = true) ∧
      (hears (fromPeer 28) (13 + 3 * ({ report with count := 5 } : StateFields).count.toNat) ready = true ∧
        8 < ({ report with safety := 9 } : StateFields).safety.toNat) := by decide +kernel

theorem test_stateFillsTheSlot :
    (after (.state (fromPeer 16) (reporting 0)) ready).ru.slots.head? =
        some { value := none, age := 0, pend := [(101, 30000)] } ∧
      (after (.state (fromPeer 16) { report with safety := 1 }) ready).ss.claims = [] ∧
      (after (.state (fromPeer 13) { report with safety := 1 }) ready).ss.claims = [own .peer 20] := by decide +kernel

/-- The resident take in LOADING with four records. -/
def half : Take := { resident with state := .loading, length := 4 }

/-- A record of channel 0. -/
def record (v : U16) : Sample := { v0 := v, v1 := 0, v2 := 0, v3 := 0, mark := 0 }

theorem witness_SamplesAreStoredOrRefused :
    let s := holding [half, stream] ready
    (hears (control 18) (6 + (4 : Byte).toNat * (2 * s.cfg.nChans + 1)) s = true ∧ s.addressed (control 18) = true ∧
      s.isControl (control 18).source.toNat = true ∧ (4 : Byte).toNat ≤ 42 / (2 * s.cfg.nChans + 1) ∧
      (List.replicate 4 (record 1)).length = (4 : Byte).toNat) ∧
      s.findTake (9 : Byte).toNat = none ∧
      (let s' := holding [{ half with loader := 11 }] ready
       s'.findTake (1 : Byte).toNat = some { half with loader := 11 } ∧ 11 ≠ (control 18).source.toNat) ∧
      (let s' := holding [resident] ready
       s'.findTake (1 : Byte).toNat = some resident ∧ resident.loader = (control 18).source.toNat ∧
         resident.state ≠ .loading) ∧
      (s.findTake (1 : Byte).toNat = some half ∧ half.loader = (control 18).source.toNat ∧ half.state = .loading ∧
        half.kind = .resident ∧ (3 : U24).toNat ≠ half.length) ∧
      ((4 : U24).toNat = half.length ∧ half.size < (4 : U24).toNat + 5) ∧
      ((4 : U24).toNat + 4 ≤ half.size ∧ 1 ≤ 4 ∧ half.base + half.size ≤ 8192 ∧ s.tpr.take ≠ some (1 : Byte).toNat ∧
        StoreWf s) ∧
      (s.findTake (2 : Byte).toNat = some stream ∧ stream.loader = (control 18).source.toNat ∧ stream.state = .loading ∧
        stream.kind = .stream ∧ stream.endReceived = false ∧ (40 : U24).toNat = stream.fill ∧
        stream.retired ≤ stream.fill ∧ stream.fill + 24 - stream.retired ≤ stream.size ∧ stream.fill + 24 ≤ 16777215 ∧
        stream.base + stream.size ≤ 8192 ∧ s.tpr.take ≠ some (2 : Byte).toNat) := by
  refine ⟨by decide +kernel, by decide +kernel, by decide +kernel, by decide +kernel, by decide +kernel, by decide +kernel,
    ⟨by decide +kernel, by decide +kernel, by decide +kernel, by decide +kernel, rfl⟩, by decide +kernel⟩

theorem test_samplesAreStored :
    let t := after (.samples (control 12) 1 4 true 2 [record 10, record 70]) (holding [half] ready)
    t.ts.store = [(4, record 10), (5, record 70)] ∧ t.findTake 1 = some { half with length := 6, state := .ready } := by
  decide +kernel

theorem test_waterMarkHoldsTheLoader :
    let t := after (.samples (control 12) 2 40 false 2 [record 10, record 20])
      (holding [{ stream with fill := 40, high := 42 }] ready)
    queued t = [.hold 2 42] ∧ t.findTake 2 = some { stream with fill := 42, high := 42, held := true } := by
  decide +kernel

theorem witness_WakeMessageIsTakenWhileParked :
    (parked.ss.safety = .parked ∧ parked.lif.rxWait = false ∧ (control 24).length.toNat = 24 ∧
      1 ≤ (control 24).source.toNat ∧ (control 24).source.toNat ≤ 62 ∧ parked.isControl (control 24).source.toNat = true ∧
      (32 : BitVec 64).getLsbD parked.cfg.station = true ∧ 7 = parked.cfg.crane ∧ parked.ru.wake = none) ∧
      ((fromPeer 24).length.toNat = 24 ∧ (fromPeer 24).source.toNat ≤ 62 ∧
        parked.isControl (fromPeer 24).source.toNat = false) ∧
      (control 48).length.toNat ≤ 48 ∧ receives (control 24) ready = true := by decide +kernel

theorem test_wakeWakes :
    (after (.wake (control 24) 32 7 7 7 7) parked).ru.wake = some 101 ∧
      (after .wakeFrameTick { parked with ru.wake := some 100 }).ss.safety = .disarmed := by decide +kernel

/-! ### Commands -/

/-- A FAULTED node that has read its identity and no control-station list. -/
def failed : State := { ready with ss.safety := .faulted, cl.spineId := true, cfg.controlsKnown := false, cfg.controls := [] }

theorem witness_CommandTestsInTheirOrder :
    (receives (control 2) ready = true ∧ ready.addressed { control 2 with dest := 9 } = false ∧
      receives { control 2 with dest := 9 } ready = true ∧ receives (control 1) ready = true ∧ (control 1).length.toNat < 2) ∧
      (receives (fromPeer 2) ready = true ∧ ready.addressed (fromPeer 2) = true ∧ 2 ≤ (fromPeer 2).length.toNat ∧
        ready.isControl (fromPeer 2).source.toNat = false ∧ ready.ss.safety ≠ .faulted) ∧
      (receives (fromPeer 2) failed = true ∧ failed.ss.safety = .faulted ∧ failed.cfg.controlsKnown = false) ∧
      (ready.isControl (control 2).source.toNat = true ∧ argOctets 16 = none ∧ argOctets 13 ≠ none ∧ argOctets 15 ≠ none ∧
        ready.ss.safety.isOpen = true ∧ ({ ready with ru.parkPending := true } : State).ru.parkPending = true ∧
        ready.ru.parkPending = false ∧ ready.cl.restartPending = false ∧ argOctets 8 ≠ some ((control 4).length.toNat - 2) ∧
        argOctets 8 = some ((control 5).length.toNat - 2)) ∧
      (unknownCommand 16 [] = true ∧ unknownCommand 0 [] = true ∧ unknownCommand 14 [6, 0, 0] = true) := by decide +kernel

theorem test_unknownCommandAnswered :
    queued (after (.commandNotInCatalogue (control 2) 7 16 []) ready) = [.reply 7 16 .badArg .none] := by decide +kernel

theorem witness_ArmIsTestedAndAccepted :
    (obeys (control 2) 0 ready = true ∧ ready.ss.safety = .disarmed ∧ (claiming [own .zone 0] ready).ss.claims ≠ [] ∧
      obeys (control 2) 0 (claiming [own .zone 0] ready) = true) ∧
      (ready.ss.claims = [] ∧ ready.ss.overflow = false ∧ ready.ru.learning = 0 ∧
        ({ ready with ru.learning := 1 } : State).ru.learning ≠ 0 ∧ (heard (control 2) losing).peersReady = false ∧
        (heard (control 2) ready).peersReady = true ∧
        ({ ready with spl.readings := Quad.fill Reading.reset } : State).readingsReady = false ∧
        ready.readingsReady = true ∧ ready.cfg.nChans ≤ 4 ∧ 0 < ready.cfg.nChans ∧
        (ready.dlu.lines.get 0).faultOff = false) ∧
      (let s := { ready with dlu.lines := Quad.fill { DriveLine.reset with faultOff := true } }
       obeys (control 2) 0 s = true ∧ (s.dlu.lines.get 0).faultOff = true) ∧
      (let s := { ready with ss.safety := .arming, ss.armPending := some sender }
       obeys (control 2) 0 s = true ∧ s.ss.safety = .arming ∧ s.ss.armPending ≠ none) ∧
      (obeys (control 2) 0 armed = true ∧ armed.ss.safety = .armed) := by decide +kernel

theorem test_armSeedsTheChannel :
    (after (.arm (control 2) 7) ready).ss.safety = .arming ∧
      ((after (.arm (control 2) 7) ready).chans.get 0).x = 1000 ∧
      ((after (.arm (control 2) 7) ready).chans.get 0).mode = .hold ∧
      queued (after (.arm (control 2) 7) ready) = [.reply 7 1 .accepted .none] := by decide +kernel

theorem witness_DisarmIsTestedAndAccepted :
    (obeys (control 2) 0 armed = true ∧ armed.ss.safety = .armed ∧ armed.tpr.activity = .idle ∧ armed.allAtRest = true ∧
      armed.cfg.nChans ≤ 4 ∧ 0 < armed.cfg.nChans ∧ (armed.dlu.lines.get 0).enable = true ∧
      (armed.chans.get 0).mode ≠ .off) ∧
      (obeys (control 2) 0 live = true ∧ live.tpr.activity ≠ .idle) ∧
      (let s := { armed with ss.safety := .securing, ss.disarmPending := some sender }
       obeys (control 2) 0 s = true ∧ s.ss.disarmPending ≠ none) ∧
      (obeys (control 2) 0 ready = true ∧ ready.ss.safety = .disarmed) := by decide +kernel

theorem witness_ReleaseRemovesWhatIsReleasable :
    (let s := claiming [own .limit 0, own .encoder 0] ready
     obeys (control 2) 0 s = true ∧ s.ss.claims.length ≤ 32 ∧
       (s.ss.claims.Pairwise fun a b => Claim.before a b = true) ∧ findClaim s.ss.claims s.cfg.station .limit ≠ none ∧
       findClaim s.ss.claims s.cfg.station .zone = none) ∧
      Cause.limit = .limit := by decide +kernel

theorem test_releaseLeavesWhatStands :
    (after (.release (control 2) 7)
      (claiming [own .limit 0, own .duplicate 5, own .operator 0] { ready with lif.dupQuiet := 31 })).ss.claims =
        [own .duplicate 5, own .operator 0] ∧
      queued (after (.release (control 2) 7) (claiming [own .limit 0] ready)) =
        [.clear .limit, .reply 7 3 .done (.causes [])] := by decide +kernel

theorem witness_ParkAndRestartWaitWithTheirFlag :
    (obeys (control 2) 0 ready = true ∧ ready.ss.safety = .disarmed) ∧
      (obeys (control 2) 0 armed = true ∧ armed.ss.safety ≠ .disarmed) ∧
      (receives (control 2) failed = true ∧ failed.addressed (control 2) = true ∧ (control 2).length.toNat = 2 ∧
        failed.ss.safety = .faulted ∧ failed.cfg.controlsKnown = false ∧ failed.ru.parkPending = false ∧
        failed.cl.restartPending = false) := by decide +kernel

/-- The arguments of a TAKE-OPEN. -/
def opening (id kind : Byte) (size : U16) : TakeOpenArgs :=
  { id := id, kind := kind, chanSet := 1, editSet := 1, size := size, high := 40, low := 8 }

/-- A directory without a free entry. -/
def crammed : State :=
  { ready with ts.dir := (List.range 8).map fun n => some { resident with id := n + 1, base := 8 * n } }

theorem witness_TakeOpenAllocatesFirstFit :
    (obeys (control 12) 10 ready = true ∧ (opening 1 2 8).kind ≠ 0 ∧ (opening 1 2 8).kind ≠ 1) ∧
      (TakeKind.ofCode (opening 0 0 8).kind = some .resident ∧ openArgsGood (opening 0 0 8) .resident 1 = false) ∧
      (TakeKind.ofCode (opening 2 1 64).kind = some .stream ∧ openArgsGood (opening 2 1 64) .stream 1 = true ∧
        openArgsGood (opening 2 1 63) .stream 1 = false) ∧
      (obeys (control 12) 10 (holding [resident] ready) = true ∧ openArgsGood (opening 1 0 8192) .resident 1 = true ∧
        (holding [resident] ready).findTake (opening 1 0 8192).id.toNat ≠ none) ∧
      (obeys (control 12) 10 crammed = true ∧ crammed.findTake (opening 9 0 8).id.toNat = none ∧
        ∀ e ∈ crammed.ts.dir, e ≠ none) ∧
      ((holding [resident] ready).findTake (opening 9 0 8185).id.toNat = none ∧
        (∃ e ∈ (holding [resident] ready).ts.dir, e = none) ∧
        (∀ p, runFree (holding [resident] ready).extents (opening 9 0 8185).size.toNat p = false)) ∧
      runFree (holding [resident] ready).extents (opening 9 0 8184).size.toNat 8 = true := by
  refine ⟨by decide +kernel, by decide +kernel, by decide +kernel, by decide +kernel, by decide +kernel,
    ⟨by decide +kernel, by decide +kernel, ?_⟩, by decide +kernel⟩
  intro p
  have e : (holding [resident] ready).extents = [(0, 8)] := by decide +kernel
  have e' : (opening 9 0 8185).size.toNat = 8185 := by decide
  rw [e, e']
  simp [runFree, Config.storeSize]
  omega

theorem test_takeOpened :
    queued (after (.takeOpen (control 12) 7 (opening 2 1 64)) (holding [resident] ready)) =
        [.reply 7 5 .done (.opened 1 8)] ∧
      ((after (.takeOpen (control 12) 7 (opening 2 1 64)) (holding [resident] ready)).findTake 2).map (·.base) = some 8 := by
  decide +kernel

theorem witness_TakeDeleteFreesTheEntry :
    (obeys (control 3) 1 ready = true ∧ ready.findTake (1 : Byte).toNat = none) ∧
      (obeys (control 3) 1 cued = true ∧ cued.findTake (1 : Byte).toNat ≠ none ∧ cued.tpr.take = some (1 : Byte).toNat ∧
        cued.tpr.activity ≠ .idle ∧ cued.tpr.activity ≠ .live) ∧
      (cued.findTake (2 : Byte).toNat ≠ none ∧ cued.tpr.take ≠ some (2 : Byte).toNat) := by decide +kernel

theorem witness_TakeRewindEmptiesTheRing :
    (obeys (control 3) 1 cued = true ∧ cued.findTake (9 : Byte).toNat = none) ∧
      (cued.findTake (1 : Byte).toNat = some resident ∧ resident.kind = .resident) ∧
      (cued.findTake (2 : Byte).toNat = some stream ∧ stream.kind = .stream ∧ cued.tpr.take ≠ some (2 : Byte).toNat) ∧
      (let s := { cued with tpr.take := some 2 }
       obeys (control 3) 1 s = true ∧ s.tpr.take = some (2 : Byte).toNat ∧ s.tpr.activity ≠ .idle ∧
         s.tpr.activity ≠ .live) := by decide +kernel

/-- The ARMED node with both takes. -/
def loaded : State := holding [resident, stream] armed

theorem witness_CueIsTestedAndAccepted :
    (let s := { loaded with tpr.activity := .cueing }
     obeys (control 5) 3 s = true ∧ s.tpr.activity = .cueing) ∧
      (obeys (control 5) 3 cued = true ∧ cued.tpr.activity ≠ .cueing ∧ cued.tpr.activity ≠ .idle) ∧
      (obeys (control 5) 3 loaded = true ∧ loaded.ss.safety = .armed ∧ loaded.tpr.activity = .idle ∧
        16 < (17 : Byte).toNat ∧ (∃ c < 4, (chanSetOf 2).getLsbD c = true ∧ loaded.cfg.nChans ≤ c) ∧
        1 ≤ (16 : Byte).toNat ∧ (∀ c < 4, (chanSetOf 1).getLsbD c = true → c < loaded.cfg.nChans) ∧
        loaded.findTake (9 : Byte).toNat = none) ∧
      (let s := holding [half] armed
       obeys (control 5) 3 s = true ∧ s.findTake (1 : Byte).toNat = some half ∧ half.canCue = false) ∧
      (loaded.findTake (1 : Byte).toNat = some resident ∧ resident.canCue = true ∧
        resident.chanSet &&& ~~~(chanSetOf 1) = 0 ∧ resident.chanSet &&& ~~~(chanSetOf 0) ≠ 0) ∧
      (let s := { loaded with iu.ranges := Quad.fill (-999, 5000) }
       obeys (control 5) 3 s = true ∧
         ∃ c < 4, (resident.chanSet &&& ~~~(chanSetOf 0)).getLsbD c = true ∧
           (cal (s.cfg.chan.get c).table ((s.ts.store.read resident.base).value c).toNat < (s.iu.ranges.get c).1 ∨
             (s.iu.ranges.get c).2 < cal (s.cfg.chan.get c).table ((s.ts.store.read resident.base).value c).toNat)) ∧
      (let s := { loaded with iu.ranges := Quad.fill (-1000, 5000) }
       obeys (control 5) 3 s = true ∧ (s.dlu.lines.get 0).enable = true ∧
         ∀ c < 4, (resident.chanSet &&& ~~~(chanSetOf 0)).getLsbD c = true →
           (s.iu.ranges.get c).1 ≤ cal (s.cfg.chan.get c).table ((s.ts.store.read resident.base).value c).toNat ∧
             cal (s.cfg.chan.get c).table ((s.ts.store.read resident.base).value c).toNat ≤ (s.iu.ranges.get c).2) := by
  decide +kernel

theorem test_cueBegins :
    let t := after (.cue (control 5) 7 2 8 0) { loaded with iu.ranges := Quad.fill (-1000, 5000) }
    t.tpr.activity = .cueing ∧ t.tpr.take = some 2 ∧ (t.chans.get 0).mode = .cue ∧
      queued t = [.reply 7 8 .accepted .none] := by decide +kernel

theorem witness_CueCancelEndsTheCue :
    (let s := { driving .cue 30 cued with tpr.activity := .cueing, tpr.cueCompletion := some sender }
     obeys (control 2) 0 s = true ∧ s.tpr.activity = .cueing ∧ s.tpr.cueCompletion = some sender ∧ s.ss.safety = .armed ∧
       s.cfg.nChans ≤ 4 ∧ 0 < s.cfg.nChans ∧ (s.dlu.lines.get 0).enable = true ∧ (s.chans.get 0).mode ≠ .hold) ∧
      (obeys (control 2) 0 cued = true ∧ cued.tpr.activity = .cued ∧ cued.tpr.cueCompletion = none) ∧
      (obeys (control 2) 0 armed = true ∧ armed.tpr.activity ≠ .cueing ∧ armed.tpr.activity ≠ .cued) := by decide +kernel

/-- A take in RECORDING with three samples. -/
def recording : State :=
  holding [{ resident with state := .recording, length := 3 }] { live with tpr.activity := .recording, tpr.take := some 1 }

theorem witness_RecordingBeginsAndEnds :
    (obeys (control 3) 1 ready = true ∧ ready.ss.safety ≠ .armed) ∧
      (obeys (control 3) 1 loaded = true ∧ loaded.ss.safety = .armed ∧ loaded.tpr.activity = .idle ∧
        loaded.findTake (9 : Byte).toNat = none ∧ loaded.findTake (1 : Byte).toNat = some resident ∧
        resident.state ≠ .loading) ∧
      (let k := { resident with state := .loading, length := 0 }
       let s := holding [k] armed
       obeys (control 3) 1 s = true ∧ s.findTake (1 : Byte).toNat = some k ∧ k.kind = .resident ∧ k.length = 0) ∧
      (obeys (control 2) 0 recording = true ∧ recording.tpr.activity = .recording ∧ recording.tpr.take = some 1 ∧
        recording.findTake 1 = some { resident with state := .recording, length := 3 }) ∧
      (obeys (control 2) 0 armed = true ∧ armed.tpr.activity ≠ .recording) := by decide +kernel

theorem test_recordingWrites :
    (recordingWrite { recording with chans.c0.u := 700 }).ts.store = [(3, record 700)] ∧
      ((recordingWrite recording).findTake 1).map (·.length) = some 4 := by decide +kernel

theorem witness_PunchSetsItsMask :
    (obeys (control 4) 2 armed = true ∧ armed.tpr.activity ≠ .cued) ∧
      (obeys (control 4) 2 cued = true ∧ cued.tpr.activity = .cued ∧ cued.tpr.take = some (1 : Byte).toNat ∧
        cued.findTake (1 : Byte).toNat = some resident ∧ resident.kind = .resident ∧ cued.tpr.rate = some 8 ∧
        chanSetOf 0 = 0 ∧ (∃ c < 4, (chanSetOf 2).getLsbD c = true ∧ resident.editSet.getLsbD c = false) ∧
        chanSetOf 1 ≠ 0 ∧ ∀ c < 4, (chanSetOf 1).getLsbD c = true →
          resident.editSet.getLsbD c = true ∧ cued.tpr.override.getLsbD c = false) ∧
      (let s := { cued with tpr.take := some 2 }
       obeys (control 4) 2 s = true ∧ s.findTake (2 : Byte).toNat = some stream ∧ stream.kind = .stream ∧
         s.tpr.take = some (2 : Byte).toNat) ∧
      (let s := { cued with tpr.rate := some 9 }
       obeys (control 4) 2 s = true ∧ s.tpr.rate ≠ some 8) := by decide +kernel

/-- An explicit read that holds the line, with a round deferred. -/
def asking : State :=
  { ready with spl := { ready.spl with
      read := some { slot := sender, channel := 0, item := 3 }, readActive := true, deferred := true } }

theorem witness_ExplicitReadBeginsAndEnds :
    (obeys (control 4) 2 asking = true ∧ asking.spl.read ≠ none) ∧
      (obeys (control 4) 2 ready = true ∧ ready.spl.read = none ∧ ready.cfg.nChans ≤ (1 : Byte).toNat ∧
        15 < (16 : Byte).toNat ∧ (0 : Byte).toNat < ready.cfg.nChans ∧ (15 : Byte).toNat ≤ 15 ∧
        ready.spl.readActive = false) ∧
      (let s := { asking with spl.readActive := false }
       s.spl.read ≠ none ∧ s.spl.readActive = false ∧ s.spl.round = none) ∧
      (asking.spl.readActive = true ∧ asking.spl.read = some { slot := sender, channel := 0, item := 3 } ∧
        (0 : Byte).toNat = 0 ∧ asking.spl.deferred = true) ∧
      ({ asking with spl.deferred := false } : State).spl.deferred = false ∧
      ((1 : Byte) ≠ 0 ∧ (1 : Byte) ≠ 2 ∧ ready.spl.readActive = false) := by decide +kernel

theorem test_readCompletes :
    queued (after (.readResponse .good 0 0 99) asking) = [.reply 77 13 .done (.value 99)] ∧
      (after (.readResponse .good 0 0 99) asking).spl.round = some { channel := 0, late := true } ∧
      queued (after .sensorTimeout asking) = [.reply 77 13 .timeout (.value 0)] := by decide +kernel

theorem witness_StatusQueryShowsEachItem :
    (obeys (control 5) 3 loaded = true ∧ (0 : Byte).getLsbD 0 = false ∧ (1 : Byte).getLsbD 0 = true) ∧
      (8 ≤ (8 : Byte).toNat ∧ (7 : Byte).toNat < 8 ∧ loaded.ts.dir[(7 : Byte).toNat]? = some none ∧
        loaded.ts.dir[(0 : Byte).toNat]? = some (some resident)) ∧
      (loaded.findTake (9 : Byte).toNat = none ∧ loaded.findTake (1 : Byte).toNat = some resident) := by decide +kernel

theorem test_queriesAnswer :
    queued (after (.attention (control 5) 7 0 1) { ready with attention := 5 }) =
        [.reply 7 14 .done (.attention 5 0 0)] ∧
      (after (.attention (control 5) 7 0 1) { ready with ru.roster := crowded.ru.roster, attention := 5 }).attention = 0 ∧
      queued (after (.latch (control 5) 7 1 1) loaded) = [.reply 7 14 .done (.latch none)] := by decide +kernel

/-! ### The sensor line -/

/-- A round in progress, waiting for channel 0. -/
def polling (s : State) : State := { s with spl.round := some { channel := 0, late := false } }

theorem witness_PollResponseIsTaken :
    (let s := polling armed
     s.spl.readActive = false ∧ s.spl.round = some { channel := 0, late := false } ∧ (0 : Byte).toNat = 0 ∧
       s.ss.safety.driven = true ∧ s.cfg.nChans ≤ 0 + 1 ∧ s.ss.safety.isOpen = true ∧ s.ss.safety.canStop = true ∧
       findClaim s.ss.claims s.cfg.station .encoder = none ∧ s.ss.claims.length < 32) ∧
      (polling ready).ss.safety.driven = false ∧
      (let s := polling { ready with cfg.nChans := 2 }
       s.spl.round = some { channel := 0, late := false } ∧ 0 + 1 < s.cfg.nChans) ∧
      (asking.spl.readActive = true ∧ ready.spl.round = none ∧ 2 < (3 : Byte).toNat ∧
        (polling ready).spl.round = some { channel := 0, late := false } ∧ (1 : Byte).toNat ≠ 0) := by decide +kernel

theorem test_pollResponses :
    ((after (.pollResponse .good 0 1 0xFFFFFE) (polling ready)).spl.readings.get 0).position = -2 ∧
      (after (.pollResponse .good 0 2 0) (polling armed)).ss.claims = [own .encoder 0] ∧
      (after (.pollResponse .good 0 2 0) (polling armed)).ss.safety = .stopping := by decide +kernel

/-! ### Arithmetic and modes -/

theorem witness_BrakeSpeedIsTheLargestThatStops :
    1 ≤ 1 ∧ 0 < 1 ∧ 6 ≤ 6 ∧ 7 = 52 / 7 ∧ stopDistance 6 22 ≤ (-52 : Int).natAbs ∧ (22 : Nat) ≤ 65535 := by decide

theorem witness_LimiterStopsOnTheTarget :
    (((52 : Int).sign * (min 200 (brakeSpeed 6 52) : Nat) - 16).natAbs ≤ 6) ∧
      (1 ≤ 6 ∧ stopDistance 6 (28 - 6) ≤ 52) ∧ (-6 : Int).natAbs ≤ 6 ∧ ((6 : Nat) : Int) ≤ 6 ∧
      (-6 : Int) ≤ -((6 : Nat) : Int) ∧ ({ Chan.reset with mode := .stop } : Chan).mode = .stop ∧
      (let c := { Chan.reset with mode := .halt, v := -1 }
       c.mode = .halt ∧ c.v ≠ 0) := by decide +kernel

/-- The input of a computation on the test channel. -/
def input : TickInput :=
  { cfg := channel, arming := false, pace := 16, range := (-500, 3000), tick := 2, ticks := 4, takeValue := 60000,
    position := 1000, valid := true }

theorem witness_ModesWithAndWithoutATarget :
    Chan.reset.mode = .off ∧ input.valid = true ∧ ({ input with valid := false } : TickInput).valid = false ∧
      ({ Chan.reset with mode := .play } : Chan).mode = .play ∧ input.range.1 ≤ input.range.2 ∧
      ({ input with range := (5, 5) } : TickInput).range.1 ≤ 5 ∧
      (-500 ≤ cal channel.table 5000 ∧ cal channel.table 5000 ≤ 3000) ∧
      ({ input with range := (1, 0) } : TickInput).range.2 < ({ input with range := (1, 0) } : TickInput).range.1 ∧
      (({ Chan.reset with mode := .hold } : Chan).mode = .hold ∧ ({ input with arming := true } : TickInput).arming = true ∧
        ({ Chan.reset with mode := .hold } : Chan).v = 0) ∧
      ({ Chan.reset with mode := .live } : Chan).mode = .live := by decide +kernel

theorem test_playIsClamped :
    let c := Chan.compute input { Chan.reset with mode := .play, x := 2990 }
    c.tRaw = some 5000 ∧ c.t = some 3000 ∧ c.clamped = true ∧ c.v = 6 ∧ c.x = 2996 ∧ c.dev = 1 := by decide +kernel

theorem test_haltSettles :
    let c := Chan.compute input { Chan.reset with mode := .halt, x := 700, v := 5, halt := true }
    let d := Chan.compute input c
    c.mode = .halt ∧ c.x = 700 ∧ c.v = 0 ∧ c.rested = true ∧ d.mode = .hold ∧ d.held = 700 ∧ d.halt = true ∧
      d.x = 700 ∧ d.rested = false := by decide +kernel

/-- A channel given HALT at rest beyond its effective range stays for the computation in HALT, and the clamp moves it in the
HOLD that follows. -/
theorem test_haltEnteredAtRest :
    let c := Chan.compute input (Chan.enter channel.table .halt { Chan.reset with mode := .live, x := 3500 })
    let d := Chan.compute input c
    c.mode = .halt ∧ c.x = 3500 ∧ c.v = 0 ∧ d.mode = .hold ∧ d.held = 3500 ∧ d.v = -6 := by decide +kernel

/-- A stream take playing at the end of its ring. -/
def streaming : State :=
  holding [resident, stream] { playing with tpr.take := some 2, tpr.base := 39 * 4096 }

theorem witness_CursorAndRecordingMoveInTheTake :
    (playing.tpr.activity.plays = true ∧ playing.tpr.take = some 1 ∧ playing.findTake 1 = some resident ∧
      playing.tpr.rate = some 8 ∧ resident.kind = .resident) ∧
      (streaming.tpr.activity.plays = true ∧ streaming.tpr.take = some 2 ∧ streaming.findTake 2 = some stream ∧
        stream.kind = .stream ∧ stream.readsHeld (streaming.cursorAt stream 0) = true ∧
        stream.readsHeld (streaming.cursorAt stream 1) = false) ∧
      (let k := { resident with state := .recording, length := 7 }
       let s := holding [k] recording
       s.tpr.activity = .recording ∧ s.tpr.take = some 1 ∧ s.findTake 1 = some k ∧ k.state = .recording ∧
         k.length < k.size ∧ k.base + k.size ≤ 8192 ∧ Memory.wf s.ts.store = true ∧ k.length + 1 = k.size) ∧
      (recording.findTake 1 = some { resident with state := .recording, length := 3 } ∧ 3 + 1 < resident.size) := by
  decide +kernel

theorem test_cursorOfTheWorkedRate :
    (formCursor 3 playing).tpr.cursor = 3072 ∧ (advanceBase playing).tpr.base = 4096 ∧
      formCursor 1 streaming = streaming ∧ (raiseUnderrun 1 streaming).ss.claims = [own .underrun 2] ∧
      (raiseUnderrun 1 streaming).ss.safety = .stopping ∧ raiseUnderrun 0 streaming = streaming := by decide +kernel

theorem witness_EffectiveRangesOfTheFrame :
    (ready.ft.running = true ∧ ready.ss.safety.isOpen = true ∧ ready.cl.restartPending = false ∧
      ready.ru.parkPending = false ∧ ready.cfg.nChans ≤ 4 ∧ 0 < ready.cfg.nChans) ∧
      (let s := { ready with iu.ranges := Quad.fill (1, 0) }
       s.ss.safety.canStop = false ∧ 0 < s.cfg.nChans ∧ (s.iu.ranges.get 0).2 < (s.iu.ranges.get 0).1 ∧
         findClaim s.ss.claims s.cfg.station .cross = none) := by decide +kernel

theorem test_rangesOfTheFrame :
    (formRanges ready).iu.ranges.c0 = (-500, 3000) ∧
      (formRanges { ready with
        ru.slots := { WatchSlot.reset with value := some 30001 } :: List.replicate 7 WatchSlot.reset }).iu.ranges.c0 =
          (-1000, 5000) := by decide +kernel

/-! ### The further clauses of the statements, met -/

theorem witness_StoreAfterTheRead :
    (reading1 none).ts.width = none ∧ 0 < image.nChans ∧ image.config.cross.length = 1 ∧
      (∃ c, (imageWith 26 10).verdict = some c ∧ 8 ≤ c.code) ∧ (reading1 (some 1)).ts.width = some (imageWith 26 10).nChans ∧
      (reading1 (some 2)).ts.width = some 2 ∧ 2 ≠ (imageWith 26 10).nChans :=
  ⟨rfl, by decide +kernel, by decide +kernel, ⟨_, test_imageFailures.2.2.2.2, by decide⟩, by decide +kernel, rfl,
    by decide +kernel⟩

/-- An image with the header of a valid one and other records. -/
def broken : Image := image.set 10 (image.getD 10 0 + 1)

theorem witness_HeaderOfAnImage :
    (5 ≤ List.length image ∧ image.version = 1 ∧ 30 ≤ image.length ∧ image.length ≤ 8192 ∧
      image.length ≤ List.length image ∧ image.endAt = image.length ∧ 1 ≤ image.station ∧ image.station ≤ 62 ∧
      image.bitRate = 2) ∧
      (5 ≤ List.length broken ∧ broken.version = 1 ∧ 30 ≤ broken.length ∧ broken.length ≤ List.length broken) ∧
      (imageWith 21 5).endAt ≠ (imageWith 21 5).length ∧ 62 < (imageWith 0 63).station ∧
      (imageWith 13 0).timingGood = false ∧ ¬ 5 ≤ List.length ([] : Image) := by decide +kernel

theorem witness_PaceAtAFrameTick :
    (let s := { ready with pu.floorPend := [(100, 4)] }
     s.ss.safety.isOpen = true ∧ s.cl.restartPending = false ∧ s.ru.parkPending = false ∧ s.cfg.nChans ≤ 4 ∧
       getPend s.pu.floorPend s.ft.frame = some 4) ∧
      (let s := { ready with pu.floor := 15, pu.floorQuiet := 30 }
       getPend s.pu.floorPend s.ft.frame = none ∧ s.pu.floor < 16 ∧
         (after (.flywheelTick quietLines []) s).pu.floor = 15 ∧
         (after (.flywheelTick quietLines []) { s with pu.floorQuiet := 31 }).pu.floor = 16 ∧
         (after (.flywheelTick quietLines []) { s with pu.floorQuiet := 31 }).pu.floorQuiet = 32) ∧
      (getPend ready.pu.floorPend ready.ft.frame = none ∧ 16 ≤ ready.pu.floor ∧ ready.tpr.abortPend = none ∧
        ready.tpr.activity ≠ .easing ∧ (after (.flywheelTick quietLines []) ready).pu.ease = false) ∧
      (let s := { playing with tpr.activity := .easing, tpr.abortPend := none }
       s.tpr.activity = .easing ∧ (after (.flywheelTick quietLines []) s).pu.ease = true ∧
         (after (.flywheelTick quietLines []) s).pu.target = 0) := by decide +kernel

/-- The node in STOPPING with a velocity. -/
def stopping (v : Int) : State := driving .stop v { ready with ss.safety := .stopping }

theorem witness_WorkOfAServoTick :
    (ready.ss.safety ≠ .loading ∧ ready.ss.safety ≠ .faulted ∧ (stopping 30).ss.safety = .stopping ∧
      (stopping 30).ss.safety ≠ .loading ∧ (stopping 30).ss.safety ≠ .faulted ∧ ready.ss.safety ≠ .stopping ∧
      ready.cfg.nChans ≤ 4 ∧ 0 < ready.cfg.nChans ∧ ready.ss.safety.isOpen = true) ∧
      servoWork.reverse.Perm servoWork ∧
      (frameWorkOf frameWork.reverse = frameWork ∧ frameWork.reverse.Perm (frameWorkOf frameWork.reverse)) ∧
      (TickWork.report ∈ frameWork ++ [TickWork.report] ∧
        (frameWork ++ [TickWork.report]).Perm (frameWorkOf (frameWork ++ [TickWork.report]))) :=
  ⟨by decide +kernel, List.reverse_perm _, by decide, by decide, by decide⟩

theorem witness_OwnCauseAtAFullList :
    (let s := claiming (full.take 31 ++ [own .link 5]) armed
     s.ss.safety.isOpen = true ∧ findClaim s.ss.claims s.cfg.station .zone = none ∧
       findClaim s.ss.claims s.cfg.station .estop = none ∧ s.ss.claims.length = 32 ∧ s.ss.safety.canStop = true ∧
       s.ss.safety.driven = true ∧ 0 < s.cfg.nChans ∧
       ∃ k, s.ss.claims = full.take 30 ++ k :: [own .link 5] ∧ k.origin ≠ s.cfg.station ∧
         ∀ x ∈ [own .link 5], x.origin = s.cfg.station) ∧
      (let s := claiming full ready
       s.ss.safety.canStop = false ∧ s.ss.claims.length = 32 ∧
         ∃ k, s.ss.claims = full.take 31 ++ k :: [] ∧ k.origin ≠ s.cfg.station) ∧
      (let s := claiming [own .limit 3] armed
       findClaim s.ss.claims s.cfg.station .limit = some (own .limit 3) ∧ 2 < (own .limit 3).detail ∧
         (own .limit 3).detail ≤ 3 ∧ findClaim s.ss.claims s.cfg.station .encoder = none) ∧
      (let s := { armed with chans.c0 := { Chan.reset with mode := .play, dev := 2 } }
       0 < s.cfg.nChans ∧ (s.chans.get 0).mode = .play ∧ (s.chans.get 0).dev = 2) ∧
      (driving .play 0 armed).chans.c0.dev ≠ 2 :=
  ⟨⟨by decide +kernel, by decide +kernel, by decide +kernel, by decide +kernel, by decide +kernel, by decide +kernel,
      by decide +kernel, { origin := 51, cause := .zone, detail := 0, latched := false }, by decide +kernel,
      by decide +kernel, by decide +kernel⟩,
    ⟨by decide +kernel, by decide +kernel, { origin := 52, cause := .zone, detail := 0, latched := false },
      by decide +kernel, by decide +kernel⟩, by decide +kernel, by decide +kernel, by decide +kernel⟩

/-- The limit lines of channel 0: the filters and what has been so since LOADING. -/
def lined (low high : LimitLine) (held : Bool) (s : State) : State :=
  { s with dlu.lines.c0 := { s.dlu.lines.c0 with low := low, high := high, lowHeld := held, highHeld := held } }

/-- A limit line in one of its states. -/
def limit (active : Bool) (run : Nat) : LimitLine := { active := active, run := run }

theorem witness_DriveAndLimitLines :
    (armed.ss.safety ≠ .loading ∧ armed.ss.safety ≠ .faulted ∧ (armed.dlu.lines.get 0).enable = true ∧
      (ready.dlu.lines.get 0).enable = false ∧ ({ quietLines with fault := 1 } : LineLevels).fault.getLsbD 0 = true ∧
      quietLines.fault.getLsbD 0 = false ∧ armed.ss.safety.canStop = true ∧
      findClaim armed.ss.claims armed.cfg.station .drive = none ∧ parked.ss.safety.isOpen = false) ∧
      ((armed.cfg.chan.get 1).lowLimit = false ∧ (armed.cfg.chan.get 1).highLimit = false ∧
        (armed.cfg.chan.get 0).lowLimit = true ∧ (armed.cfg.chan.get 0).highLimit = true ∧
        ((lined (limit false 1) (limit false 1) false armed).dlu.lines.get 0).low.active = false ∧
        ((limit false 1).sample true).active = true ∧ ((limit false 0).sample true).active = false) ∧
      (let s := lined (limit true 0) (limit false 0) false (driving .live (-30) armed)
       s.ss.safety.isOpen = true ∧ (s.dlu.lines.get 0).low.active = true ∧ (s.chans.get 0).v < 0 ∧
         findClaim s.ss.claims s.cfg.station .limit = none ∧ s.ss.claims.length < 32) ∧
      (let s := lined (limit false 0) (limit true 0) false (driving .live 30 armed)
       (s.dlu.lines.get 0).high.active = true ∧ 0 < (s.chans.get 0).v) ∧
      (let s := lined (limit true 0) (limit true 0) false (driving .hold 0 armed)
       0 ≤ (s.chans.get 0).v ∧ (s.chans.get 0).v ≤ 0) := by decide +kernel

theorem test_linePressedBeforeStartUp :
    (sampleLow true 0 (lined (limit false 1) (limit false 0) true armed)).ss.claims = [] ∧
      (sampleLow true 0 (lined (limit false 1) (limit false 0) false armed)).ss.claims = [own .limit 0] ∧
      (sampleHigh true 0 (lined (limit false 0) (limit false 1) false armed)).ss.claims = [own .limit 1] ∧
      (fresh.dlu.lines.get 0).lowHeld = true := by decide +kernel

theorem test_bothDriveRecords :
    (sendRecords { armed with dlu.lines.c0 := { armed.dlu.lines.c0 with offDue := true } }).dlu.port =
      [{ channel := 0, x := 1000, v := 0, enable := false }, { channel := 0, x := 1000, v := 0, enable := true }] := by
  decide +kernel

theorem witness_EndOfLiveControl :
    (let s := { armed with tpr.activity := .live }
     s.tpr.activity = .live ∧ s.tpr.liveSet = 0 ∧ (s.chans.get 0).mode = .hold ∧ s.cfg.nChans = 1) ∧
      live.tpr.liveSet ≠ 0 ∧ armed.tpr.activity ≠ .live ∧ (live.chans.get 0).mode ≠ .hold := by decide +kernel

theorem witness_BrakeTimerAtATick :
    (let s := { armed with ss.safety := .securing, ss.timer := some { phase := .set, frames := 2 } }
     s.ss.safety.isOpen = true ∧ s.ss.timer = some { phase := .set, frames := 2 } ∧
       s.tickStart.phase = some .set ∧ armed.tickStart.phase ≠ some .set) ∧
      (let s := { armed with ss.safety := .arming, ss.timer := some { phase := .enable, frames := 1 } }
       s.ss.timer = some { phase := .enable, frames := 1 } ∧ s.tickStart.phase = some .enable) ∧
      armed.ss.timer = none ∧
      ((stopping 0).ss.safety = .stopping ∧ (stopping 0).cfg.nChans = 1 ∧ ((stopping 0).chans.get 0).atRest = true) ∧
      (let s := { stopping 30 with chans.c0.atRest := false }
       0 < s.cfg.nChans ∧ (s.chans.get 0).atRest = false ∧ (s.chans.get 0).mode ≠ .off) := by decide +kernel

theorem test_phaseBegunInTheTickIsNotCounted :
    (after (.flywheelTick quietLines [.compute, .brake]) (stopping 0)).ss.timer = some { phase := .set, frames := 2 } ∧
      (after (.flywheelTick quietLines []) (after (.flywheelTick quietLines [.compute]) (stopping 0))).ss.timer =
        some { phase := .set, frames := 1 } := by decide +kernel

theorem witness_StartAtANodeNotQualified :
    (let s := { cued with ss.claims := [own .zone 0] }
     s.ss.safety.isOpen = true ∧ s.tpr.startPend = some { take := 1, frame := s.ft.frame } ∧ s.ss.claims ≠ [] ∧
       (s.findTake 1).isSome = true ∧ s.tpr.activity ≠ .cueing ∧ s.tpr.activity ≠ .playing ∧ s.tpr.activity ≠ .easing) ∧
      (let s := { cued with tpr.take := some 2 }
       s.tpr.activity = .cued ∧ s.tpr.take ≠ some 1 ∧ (s.findTake 1).isSome = true) ∧
      (let s := { cued with tpr.activity := .idle, tpr.take := none }
       s.ss.safety = .armed ∧ s.tpr.activity = .idle ∧ s.tpr.activity ≠ .cued) ∧
      (let s := { holding [resident] live with tpr.startPend := some { take := 1, frame := 100 } }
       s.tpr.activity = .live ∧ (s.findTake 1).isSome = true) ∧
      (let s := { cued with tpr.activity := .recording, tpr.startPend := some { take := 9, frame := 100 } }
       s.tpr.activity = .recording ∧ s.findTake 9 = none) ∧
      (let s := { cued with tpr.startPend := some { take := 1, frame := 101 } }
       s.ss.safety.isOpen = true ∧ ∀ a, s.tpr.startPend = some a → a.frame ≠ s.ft.frame) := by
  refine ⟨by decide +kernel, by decide +kernel, by decide +kernel, by decide +kernel, by decide +kernel,
    by decide +kernel, ?_⟩
  intro a h
  cases h
  decide

/-- The take in use at its cap, its channel settled. -/
def ending (k : Take) (a : Activity) (cursor applied : Nat) : State :=
  holding [k] { driving .play 0 armed with
    chans.c0.settled := true, tpr.activity := a, tpr.take := some k.id, tpr.rate := some 8, tpr.cueSet := 1,
    tpr.cursor := cursor, pu.applied := applied }

/-- The stream take received whole. -/
def whole : Take := { stream with endReceived := true }

theorem witness_EndOfTheTake :
    (let s := ending resident .playing 28672 16
     s.tpr.take = some 1 ∧ s.findTake 1 = some resident ∧ s.tpr.activity = .playing ∧
       resident.cap = some s.tpr.cursor ∧ s.tpr.cueSet = 1 ∧ (s.chans.get 0).settled = true ∧ s.ss.safety = .armed ∧
       (s.dlu.lines.get 0).enable = true ∧ (s.chans.get 0).mode ≠ .hold ∧ s.pu.ease = false ∧
       s.tpr.cueCompletion = none ∧ resident.kind = .resident) ∧
      (let s := { ending whole .easing 4096 0 with pu.ease := true }
       s.findTake 2 = some whole ∧ s.tpr.activity = .easing ∧ s.pu.applied = 0 ∧ s.pu.ease = true ∧
         whole.kind = .stream ∧ whole.endReceived = true ∧ whole.cap = some 159744) ∧
      (let s := { ending resident .playing 28672 16 with chans.c0.settled := false }
       s.tpr.cueSet.getLsbD 0 = true ∧ (s.chans.get 0).settled = false) ∧
      (let s := ending resident .playing 28671 16
       resident.cap ≠ some s.tpr.cursor ∧ s.tpr.activity = .playing) ∧
      (let s := ending stream .easing 4096 1
       stream.cap ≠ some s.tpr.cursor ∧ s.pu.applied ≠ 0) := by decide +kernel

theorem witness_LengthsThatDoNotAgree :
    receives (control 3) ready = true ∧
      (payloadLength 1 (.stop (control 3) 0 0) = some (control 3, some 2) ∧ 2 ≠ (control 3).length.toNat) ∧
      (payloadLength 1 (.roll (control 44) true 21 16 []) = some (control 44, none)) ∧
      (payloadLength 1 (.samples (control 48) 1 0 false 15 []) = some (control 48, none)) ∧
      (payloadLength 1 (.samples (control 3) 1 0 false 14 []) = some (control 3, some 48)) ∧
      (payloadLength 1 (.live (control 3) true 1 0 [5]) = some (control 3, some 4)) ∧
      (parked.ss.safety = .parked ∧ (control 23).length.toNat ≠ 24) := by decide +kernel

theorem witness_PairsOfARoll :
    (hears (fromPeer 4) (2 + 2 * (1 : BitVec 5).toNat) ready = true ∧ Cause.ofCode (2 : Byte).toNat = some .zone ∧
      findClaim ready.ss.claims (fromPeer 4).source.toNat .zone = none ∧ ready.ss.claims.length + 1 ≤ 32) ∧
      (let s := claiming [{ own .zone 3 with origin := 20 }] armed
       hears (fromPeer 4) (2 + 2 * (1 : BitVec 5).toNat) s = true ∧
         findClaim s.ss.claims (fromPeer 4).source.toNat .zone ≠ none ∧ s.ss.safety.canStop = true) ∧
      (let s := claiming full armed
       hears (control 4) (2 + 2 * (1 : BitVec 5).toNat) s = true ∧ s.isControl (control 4).source.toNat = true ∧
         findClaim s.ss.claims (control 4).source.toNat .operator = none ∧ 32 ≤ s.ss.claims.length) ∧
      ready.isControl (fromPeer 4).source.toNat = false ∧
      (receives (fromPeer 44) ready = true ∧ 20 < (21 : BitVec 5).toNat ∧
        receives (fromPeer 4) failed = true ∧ failed.ss.safety.isOpen = false) := by decide +kernel

theorem test_rollStopsAMovingNode :
    (after (.roll (fromPeer 4) true 1 16 [(2, 7)]) live).ss.safety = .stopping ∧
      (after (.roll (fromPeer 6) true 2 16 [(2, 7), (2, 9)]) live).ss.claims =
        [{ origin := 20, cause := .zone, detail := 9, latched := false }] := by decide +kernel

theorem witness_OwnRoll :
    (let s := { claiming [own .limit 3] ready with ft.frame := 101 }
     s.ft.frame.toNat % 16 = s.cfg.station % 16) ∧ ready.ft.frame.toNat % 16 ≠ ready.cfg.station % 16 ∧
      (∃ e ∈ (queueing [] [entry (.roll 16 [])] ready).lif.ordinary, ∃ f ps, e.msg.body = .roll f ps) ∧
      ready.lif.ordinary = [] ∧ (ready.ft.frame + 1).toNat % 16 = ready.cfg.station % 16 ∧ ready.lif.ordinary.length ≤ 14 ∧
      ready.ft.running = true :=
  ⟨by decide +kernel, by decide +kernel, ⟨entry (.roll 16 []), by decide +kernel, 16, [], rfl⟩, by decide +kernel,
    by decide +kernel, by decide +kernel, by decide +kernel⟩

theorem witness_LiveWithATake :
    (let s := { driving .live 0 cued with tpr.override := 1, tpr.liveSet := 1 }
     hears (control 4) (2 + 2 * maskCount 1) s = true ∧ s.addressed (control 4) = true ∧
       s.isControl (control 4).source.toNat = true ∧ s.ss.safety = .armed ∧ s.tpr.activity.hasTake = true ∧
       (1 : ChanSet).getLsbD 0 = true ∧ s.tpr.override.getLsbD 0 = true ∧ s.tpr.liveSet.getLsbD 0 = true ∧
       (s.dlu.lines.get 0).enable = true) ∧
      (let s := { playing with tpr.punch := true, tpr.punchMask := 1 }
       s.tpr.activity = .playing ∧ s.tpr.punch = true ∧ s.tpr.punchMask.getLsbD 0 = true ∧
         s.tpr.liveSet.getLsbD 0 = false) ∧
      (playing.tpr.activity.hasTake = true ∧ playing.tpr.override.getLsbD 0 = false ∧ playing.tpr.punch = false ∧
        Activity.hasTake .easing = true ∧ Activity.hasTake .cueing = true ∧ playing.cfg.nChans ≤ 1) := by decide +kernel

theorem witness_OwnState :
    (hears (fromPeer 13) (13 + 3 * ({ report with safety := 1 } : StateFields).count.toNat) ready = true ∧
      Published.ofCode ({ report with safety := 1 } : StateFields).safety.toNat = some (.node .faulted) ∧
      (∃ e ∈ ready.ru.roster, e.station = (fromPeer 13).source.toNat ∧ e.pinned = true) ∧
      findClaim ready.ss.claims ready.cfg.station .peer = none ∧ ready.ss.claims.length < 32) ∧
      (ready.ss.safety.isOpen = true ∧ playing.tpr.take = some 1 ∧ playing.tpr.activity = .playing ∧
        recording.tpr.activity = .recording ∧ recording.tpr.take = some 1 ∧
        recording.findTake 1 = some { resident with state := .recording, length := 3 } ∧
        attentionHas ({ ready with attention := 5 } : State).attention .claimOverflow = true ∧ ready.attention = 0 ∧
        failed.ss.safety = .faulted ∧ parked.ss.safety = .parked ∧ ready.lif.ordinary = []) := by decide +kernel

/-- The node with a reading that no response has refreshed in the round in progress. -/
def unanswered (stale : Nat) (s : State) : State :=
  polling { s with spl.readings := { s.spl.readings with c0 := { reading with received := false, stale := stale } } }

theorem test_ownStateShowsTheLastServoTick :
    let s := after (.servoTick quietLines []) (unanswered 0 ready)
    (s.chans.get 0).shown.uRep = 20000 ∧ (s.chans.get 0).shown.stale = true ∧
      (composeState s (after (.pollResponse .good 0 0 5) s)).lif.ordinary.map (·.msg.body) =
        [.state (s.report [(s.chans.get 0).shown])] ∧
      ((after (.pollResponse .good 0 0 5) s).chans.get 0).shown = (s.chans.get 0).shown := by decide +kernel

/-- The ring with a fill and the hold of its loader. -/
def ring (fill : Nat) (held : Bool) : Take := { stream with fill := fill, held := held }

theorem witness_SamplesOfTheFurtherCases :
    (let s := { holding [half] armed with tpr.take := some 1, tpr.activity := .cueing }
     s.tpr.take = some (1 : Byte).toNat ∧ s.findTake (1 : Byte).toNat = some half ∧ half.loader = 10 ∧
       half.state = .loading ∧ 1 ≤ half.length ∧ half.length ≤ half.size) ∧
      (hears (control 6) (6 + (0 : Byte).toNat * (2 * ready.cfg.nChans + 1)) (holding [half] ready) = true ∧
        ({ half with length := 0 } : Take).length = 0) ∧
      (whole.endReceived = true ∧ whole.loader = 10 ∧ whole.state = .loading ∧ stream.endReceived = false ∧
        (41 : U24).toNat ≠ stream.fill ∧ (40 : U24).toNat = stream.fill ∧ stream.size < stream.fill + 25 - stream.retired ∧
        (ring 0 false).fill = 0 ∧ stream.fill - stream.retired ≤ stream.size ∧ 1 ≤ stream.fill ∧
        (ring 40 true).held = decide ((ring 40 true).high ≤ (ring 40 true).fill - (ring 40 true).retired) ∧
        (ring 31 false).held = decide ((ring 31 false).high ≤ (ring 31 false).fill - (ring 31 false).retired) ∧
        (ring 40 true).low < (ring 40 true).fill - (ring 40 true).retired ∧ (ring 31 false).held = false) ∧
      ((holding [ring 32 false] ready).findTake 2 = some (ring 32 false) ∧ (ring 32 false).high ≤ 32 ∧
        (ring 31 false).fill < (ring 31 false).high ∧ (ring 8 true).fill ≤ (ring 8 true).low ∧
        (ring 9 true).low < (ring 9 true).fill) := by decide +kernel

theorem test_samplesOfAStreamAnswered :
    queued (after (.samples (control 6) 2 40 false 0 []) (holding [resident, whole] ready)) =
        [.reply 0 codeLoading .refused (.loading 2 40 0)] ∧
      queued (after (.samples (control 6) 2 41 false 0 []) (holding [resident, stream] ready)) =
        [.reply 0 codeLoading .gap (.loading 2 41 40)] := by decide +kernel

theorem witness_MessagesOfAParkedNode :
    parked.ss.safety = .parked ∧ messageHeader (.clear (control 1) 0) = some (control 1) ∧
      messageHeader (.restart (control 2) 0) = some (control 2) ∧
      messageHeader (.state (control 13) report) = some (control 13) ∧ (control 13).length.toNat ≤ 48 := by decide +kernel

/-- A cue of a take, the channel settled or not and its target clamped or not. -/
def cueing (k : Take) (settled clamped : Bool) : State :=
  holding [k] { driving .cue 0 armed with
    chans.c0.settled := settled, chans.c0.clamped := clamped, tpr.activity := .cueing, tpr.take := some k.id,
    tpr.rate := some 8, tpr.cueSet := 1, tpr.cueCompletion := some sender }

theorem witness_TestOfTheCue :
    (let s := cueing resident true true
     s.tpr.activity = .cueing ∧ s.tpr.take = some 1 ∧ s.findTake 1 = some resident ∧ s.tpr.cueSet.getLsbD 0 = true ∧
       (s.chans.get 0).settled = true ∧ (s.chans.get 0).clamped = true) ∧
      (let s := cueing resident true false
       s.tpr.cueSet = 1 ∧ (s.chans.get 0).settled = true ∧ (s.chans.get 0).clamped = false ∧
         resident.kind = .resident ∧ (s.chans.get 0).mode = .cue ∧ (s.chans.get 0).v = 0 ∧
         (s.dlu.lines.get 0).enable = true ∧ s.tpr.cueCompletion = some sender) ∧
      ((cueing resident false true).chans.get 0).settled = false ∧
      ((ring 31 false).fill - (ring 31 false).retired < (ring 31 false).high ∧ (ring 31 false).endReceived = false ∧
        (ring 32 false).high ≤ (ring 32 false).fill - (ring 32 false).retired) ∧
      armed.tpr.activity ≠ .cueing := by decide +kernel

theorem test_cueEnds :
    (cueTest (cueing resident true true)).tpr.activity = .idle ∧
      queued (cueTest (cueing resident true true)) = [.reply 77 8 .unreachable .none] ∧
      (cueTest (cueing resident true false)).tpr.activity = .cued ∧
      cueTest (cueing resident false true) = cueing resident false true := by decide +kernel

/-- The playing node on a punch-in pass, at an index. -/
def punching (n : Nat) (last : Option Nat) : State :=
  { playing with tpr.punch := true, tpr.punchMask := 1, tpr.punchIdx := last, tpr.cursor := n * 4096 + 5, chans.c0.u := 700 }

theorem witness_PunchWrites :
    (let s := punching 7 none
     s.tpr.activity = .playing ∧ s.tpr.punch = true ∧ s.tpr.take = some 1 ∧ s.findTake 1 = some resident ∧
       resident.kind = .resident ∧ s.tpr.cursor / 4096 = 7 ∧ 7 < resident.length ∧
       resident.base + resident.length ≤ 8192 ∧ StoreWf s) ∧
      ((punching 3 (some 2)).tpr.punchIdx = some 2 ∧ (punching 3 (some 3)).tpr.punchIdx = some 3) ∧
      playing.tpr.punch = false :=
  ⟨⟨by decide +kernel, by decide +kernel, by decide +kernel, by decide +kernel, by decide +kernel, by decide +kernel,
    by decide +kernel, by decide +kernel, rfl⟩, by decide +kernel, by decide +kernel⟩

theorem test_punchWritesOnce :
    (punchWrite (punching 3 (some 2))).ts.store = [(3, record 700)] ∧
      punchWrite (punching 3 (some 3)) = punching 3 (some 3) := by decide +kernel

theorem witness_AttentionOfAFaultedNode :
    receives (control 5) failed = true ∧ failed.addressed (control 5) = true ∧ (control 5).length.toNat = 5 ∧
      failed.ss.safety = .faulted ∧ failed.cfg.controlsKnown = false ∧ (1 : Byte).getLsbD 0 = true := by decide +kernel

theorem witness_RoundsAtATick :
    (let s := unanswered 2 armed
     s.ss.safety ≠ .loading ∧ s.ss.safety ≠ .faulted ∧ s.spl.round.isSome = true ∧
       (s.spl.readings.get 0).received = false ∧ (s.spl.readings.get 0).valid = true ∧ s.ss.safety.isOpen = true ∧
       2 ≤ (s.spl.readings.get 0).stale ∧ s.spl.read = none ∧
       findClaim s.ss.claims s.cfg.station .encoder = none ∧ s.ss.claims.length < 32 ∧ s.ss.safety.canStop = true ∧
       s.ss.safety ≠ .parked) ∧
      (asking.spl.deferred = true ∧ asking.spl.read ≠ none) ∧
      (ready.spl.deferred = false ∧ ready.spl.round = none ∧ (ready.spl.readings.get 0).received = true) ∧
      (unanswered 1 parked).ss.safety = .parked := by decide +kernel

theorem test_thirdStaleTick :
    (pollTick (unanswered 2 armed)).ss.claims = [own .encoder 0] ∧ (pollTick (unanswered 1 armed)).ss.claims = [] ∧
      (pollTick (unanswered 1 armed)).attention = 4 ∧ (pollTick (unanswered 1 parked)).attention = 0 := by decide +kernel

theorem witness_ModesOfTheComputation :
    (({ Chan.reset with mode := .hold } : Chan).mode = .hold ∧ input.arming = false) ∧
      ({ Chan.reset with mode := .cue } : Chan).mode = .cue ∧ ({ Chan.reset with mode := .stop } : Chan).mode = .stop ∧
      (({ Chan.reset with mode := .halt } : Chan).mode = .halt ∧ ({ Chan.reset with mode := .halt } : Chan).rested = false ∧
        ({ Chan.reset with mode := .halt, rested := true } : Chan).rested = true ∧ Chan.reset.v = 0) ∧
      (let c := { Chan.reset with mode := .play, x := 2990, v := 6 }
       (input.cfg.devTol : Int) < |cal input.cfg.table input.takeValue - (c.compute input).x|) ∧
      (let c := { Chan.reset with mode := .play, x := 4990, v := 6 }
       |cal channel.table 60000 - (c.compute { input with range := (-1000, 5000) }).x| ≤ (input.cfg.devTol : Int)) ∧
      (channel.table = [] ++ (0, -1000) :: (60000, 5000) :: [] ∧
        (channel.table.Pairwise fun a b => a.1 < b.1) ∧ (channel.table.Pairwise fun a b => a.2 < b.2) ∧
        (iris.Pairwise fun a b => b.2 < a.2) ∧ iris.getLast? = some (60000, -1000)) := by decide +kernel

theorem witness_IndicesOfTheStream :
    (armed.tpr.activity.plays = false ∧ streaming.cursorAt stream 0 % 4096 = 0 ∧
      stream.readsHeld (39 * 4096 + 1) = false ∧ stream.readsHeld (38 * 4096 + 1) = true) ∧
      (let s := { playing with tpr.cursor := 4097 }
       s.tpr.activity.plays = true ∧ s.tpr.take = some 1 ∧ s.findTake 1 = some resident ∧ s.tpr.cursor % 4096 ≠ 0) ∧
      (playing.tpr.cursor % 4096 = 0 ∧ cued.tpr.activity.plays = false ∧ cued.findTake 1 = some resident) := by
  decide +kernel

/-- The entry of the test node, and an ARMED node for which it has just become active. -/
def crossing (x v : Int) : State :=
  let s := driving .play v armed
  { s with chans.c0.x := x, iu.active := [true] }

theorem witness_CrossOfTheFrame :
    (let e : CrossCfg := { channel := 0, slot := 0, srcLow := 0, srcHigh := 30000, limLow := -500, limHigh := 3000 }
     let s := crossing 2999 30
     s.ss.safety.canStop = true ∧ s.cfg.cross[0]? = some e ∧ s.iu.active[0]? = some true ∧ [false][0]? ≠ some true ∧
       0 < (s.chans.get 0).v ∧ e.limHigh - (s.chans.get 0).x < stopDistance 6 (s.chans.get 0).v.natAbs ∧
       (crossing 3001 0).chans.c0.x > e.limHigh ∧ (crossing (-501) 0).chans.c0.x < e.limLow) ∧
      (let e : CrossCfg := { channel := 0, slot := 0, srcLow := 0, srcHigh := 30000, limLow := -500, limHigh := 3000 }
       let c := (crossing 3000 0).chans.get 0
       e.limLow ≤ c.x ∧ c.x ≤ e.limHigh ∧ c.v = 0) ∧
      (0 < ready.cfg.nChans ∧ (ready.iu.ranges.get 0).1 ≤ (ready.iu.ranges.get 0).2) := by decide +kernel

theorem test_crossRaised :
    (raiseCross [false] (crossing 2999 30)).ss.claims = [own .cross 0] ∧ raiseCross [true] (crossing 2999 30) =
      crossing 2999 30 ∧ raiseCross [false] (crossing 3000 0) = crossing 3000 0 ∧
      (raiseConflict { ready with iu.ranges := Quad.fill (1, 0) }).ss.claims = [own .cross 16] := by decide +kernel

/-- Two bits of the KIND octet are no part of it (section 13.2). -/
theorem test_kindBitsIgnored :
    let p : Packet := { cls := 0, source := 20, kind := 1, dest := 0, payload := [2, 1] }
    receivedOctets 1 20 ([0x41, 0, 2, 2, 1] ++ octetsOf 2 p.check.toNat) = .stop (fromPeer 2) 2 1 ∧
      receivedOctets 1 20 ([0xC1, 0, 49] ++ octetsOf 2 p.check.toNat) = .badMessage .length := by decide +kernel

theorem test_restartEmptiesTheCrossTable :
    (after .restartTimeout { ready with cl.restartPending := true, cl.restartTicks := 2 }).cfg = { cfg with cross := [] } := by
  decide +kernel

/-- The node with a pending goal for channel 0 and a LIVE AGE. -/
def goal (age : Nat) (pend : List (FrameNo × Nat)) : State :=
  { live with tpr.live := { live.tpr.live with c0 := { age := age, pend := pend } } }

theorem witness_TurnsOfAFrame :
    (live.tpr.abortPend = none ∧ live.cfg.nChans ≤ 4 ∧ 0 < live.cfg.nChans ∧ live.zoneCondition = none ∧
      live.estopCondition = none ∧ live.ss.safety = .armed ∧ (live.dlu.lines.get 0).enable = true ∧
      live.tpr.liveSet.getLsbD 0 = true ∧ 0 < live.cfg.liveTimeout ∧ (live.chans.get 0).mode = .live) ∧
      getPend ((goal 0 [(100, 500)]).tpr.live.get 0).pend (goal 0 [(100, 500)]).ft.frame = some 500 ∧
      (let s := goal 1 []
       getPend (s.tpr.live.get 0).pend s.ft.frame = none ∧ min 50 ((s.tpr.live.get 0).age + 1) < s.cfg.liveTimeout) ∧
      (let s := goal 2 []
       getPend (s.tpr.live.get 0).pend s.ft.frame = none ∧ s.cfg.liveTimeout ≤ min 50 ((s.tpr.live.get 0).age + 1)) ∧
      armed.tpr.liveSet.getLsbD 0 = false ∧ (armed.chans.get 0).mode ≠ .live ∧
      ({ live with tpr.liveSet := 0 } : State).tpr.liveSet.getLsbD 0 = false := by decide +kernel

theorem test_goalsAndMarksTurn :
    (let t := after (.flywheelTick quietLines []) { goal 1 [(100, 500)] with tpr.markCur := 4, tpr.markPend := [(100, 9)] }
     (t.tpr.live.get 0).age = 0 ∧ (t.tpr.live.get 0).pend = [] ∧ (t.chans.get 0).gCur = 500 ∧ t.tpr.markPrev = 4 ∧
       t.tpr.markCur = 9 ∧ t.tpr.markPend = []) ∧
      (after (.flywheelTick quietLines []) (goal 2 [])).tpr.liveSet = 0 := by decide +kernel

/-- The node with zone line 0 of class STOP and line 1 of class SLOW in their states, and the E-stop pair. -/
def zoned (stop slow : LineFilter) (pair : List LineFilter) (s : State) : State :=
  { s with zu.lines := stop :: slow :: List.replicate 6 LineFilter.reset, zu.estop := pair }

/-- A line filter that is active, and one whose last sample was active. -/
def active : LineFilter := { LineFilter.reset with active := true }

/-- A line filter whose last sample was its first active one. -/
def rising : LineFilter := { LineFilter.reset with run := 1 }

theorem witness_ZoneConditionChanges :
    (armed.ss.safety.isOpen = true ∧ armed.ss.safety.canStop = true ∧ armed.ss.safety.driven = true ∧
      armed.ss.claims.length < 32 ∧ findClaim armed.ss.claims armed.cfg.station .zone = none ∧
      findClaim armed.ss.claims armed.cfg.station .estop = none ∧ armed.zoneCondition = none ∧
      armed.estopCondition = none) ∧
      (zoned active rising [rising, active] armed).zoneCondition = some 0 ∧
      (zoned rising active [rising, active] armed).zoneCondition = none ∧
      (zoned active rising [rising, active] armed).estopCondition = some 1 ∧
      (zoned active rising [active, active] armed).estopCondition = some 0 ∧
      (zoned rising active [] armed).slowFactor = 6 ∧ (zoned rising active [] armed).zu.ownFactor = 16 ∧
      (zoned rising rising [] armed).slowFactor = 16 := by decide +kernel

theorem test_zoneLinesAtTheirSamples :
    (let t := sampleZones { quietLines with zone := 3 } (zoned rising rising [] armed)
     t.ss.claims = [own .zone 0] ∧ t.ss.safety = .stopping ∧ t.zu.ownFactor = 6 ∧
       queued t = [.stop .zone 0, .pace 6]) ∧
      (sampleZones { quietLines with zone := 1 } (zoned LineFilter.reset rising [] armed)).ss.claims = [] ∧
      (let t := sampleEstop { quietLines with estop := 3 } (zoned rising rising [rising, active] (claiming [own .estop 1] armed))
       t.ss.claims = [own .estop 0]) ∧
      (sampleEstop { quietLines with estop := 2 } (zoned rising rising [rising, rising] armed)).ss.safety = .disarmed := by
  decide +kernel

/-- The node of the tests with a calibration table that ends at 20,000. -/
def narrow (s : State) : State := { s with cfg.chan.c0.table := [(100, -1000), (20000, 5000)] }

theorem witness_RangeOfARecord :
    RangeFails (narrow ready).cfg (narrow ready).allChans stream.chanSet (record 20001) ∧
      RangeFails (narrow ready).cfg (narrow ready).allChans stream.chanSet (record 99) ∧
      ¬ RangeFails (narrow ready).cfg (narrow ready).allChans stream.chanSet (record 20000) ∧
      ¬ RangeFails (narrow ready).cfg (narrow ready).allChans stream.chanSet (record 100) ∧
      (holding [stream] ready).findTake 2 = some stream ∧ stream.latch = none ∧
      ({ stream with latch := some 3 } : Take).latch ≠ none := by
  unfold RangeFails
  decide +kernel

theorem test_rangeLatch :
    (let t := after (.samples (control 12) 2 40 false 2 [record 20000, record 20001]) (narrow (holding [stream] ready))
     (t.findTake 2).map Take.latch = some (some 41) ∧ attentionHas t.attention .sampleRange = true) ∧
      (let t := after (.samples (control 12) 2 40 false 2 [record 20000, record 100]) (narrow (holding [stream] ready))
       (t.findTake 2).map Take.latch = some none ∧ t.attention = 0) := by decide +kernel

theorem witness_RewindOfAResidentTake :
    (obeys (control 3) 1 recording = true ∧
      recording.findTake (1 : Byte).toNat = some { resident with state := .recording, length := 3 } ∧
      recording.tpr.take = some (1 : Byte).toNat ∧ recording.tpr.activity = .recording) ∧
      (obeys (control 3) 1 loaded = true ∧ loaded.findTake (1 : Byte).toNat = some resident ∧
        loaded.tpr.take ≠ some (1 : Byte).toNat ∧ resident.kind = .resident) := by decide +kernel

theorem test_rewindOfAResidentTake :
    queued (after (.takeRewind (control 3) 0 1) recording) = [.reply 0 7 .inUse .none] ∧
      queued (after (.takeRewind (control 3) 0 1) cued) = [.reply 0 7 .inUse .none] ∧
      queued (after (.takeRewind (control 3) 0 1) loaded) = [.reply 0 7 .badArg .none] := by decide +kernel

/-- The ARMED node with the history of channel 0 and its FERR COUNT. -/
def followed (x : Int) (m : Mode) (ferr : Nat) : State :=
  { armed with
    spl.readings := { armed.spl.readings with
      c0 := { reading with ferr := ferr, hist := [{ x := 1000, mode := .hold }, { x := x, mode := m }] } } }

theorem witness_FollowingError :
    armed.ss.safety.driven = true ∧ (armed.spl.readings.get 0).hist.length < 2 ∧ ready.ss.safety.driven = false ∧
      (followed 1101 .hold 2).ss.safety.driven = true ∧ (Mode.hold ≠ Mode.off) ∧
      (|(1101 : Int) - ((followed 1101 .hold 2).spl.readings.get 0).position| = 101) ∧
      (|(1100 : Int) - ((followed 1100 .hold 2).spl.readings.get 0).position| ≤ 100) ∧
      ((followed 1101 .hold 2).cfg.chan.get 0).ferrMax = 100 ∧ min 3 (2 + 1) = ((followed 1101 .hold 2).cfg.chan.get 0).ferrTicks ∧
      min 3 (1 + 1) ≠ ((followed 1101 .hold 1).cfg.chan.get 0).ferrTicks ∧
      findClaim (followed 1101 .hold 2).ss.claims 5 .follow = none := by decide +kernel

theorem test_followRaised :
    (let t := after (.pollResponse .good 0 0 1000) (polling (followed 1101 .hold 2))
     t.ss.claims = [own .follow 0] ∧ t.ss.safety = .stopping ∧ (t.spl.readings.get 0).ferr = 3) ∧
      ((after (.pollResponse .good 0 0 1000) (polling (followed 1101 .hold 1))).spl.readings.get 0).ferr = 2 ∧
      ((after (.pollResponse .good 0 0 1000) (polling (followed 1100 .hold 2))).spl.readings.get 0).ferr = 0 ∧
      ((after (.pollResponse .good 0 0 1000) (polling (followed 1101 .off 2))).spl.readings.get 0).ferr = 0 := by
  decide +kernel

theorem test_deviationInTheTickOfAnUnderrun :
    let s := { streaming with tpr.cueSet := 1, chans.c0.dev := 1, cfg.chan.c0.devTol := 1, chans.c0.x := 4000 }
    (after (.servoTick quietLines [.poll, .faults, .limits, .zones, .compute, .underrun])
      { s with ft.tick := 0, spl.round := none }).ss.claims.map (·.cause) = [.underrun, .deviation] := by decide +kernel

theorem test_wakeReportsTheLastServoTick :
    let s := { after (.servoTick quietLines []) (unanswered 0 parked) with ru.wake := some 100 }
    (s.chans.get 0).shown.stale = true ∧
      queued (after .wakeFrameTick (after (.pollResponse .good 0 0 5) s)) =
        [.state ((after .wakeFrameTick (after (.pollResponse .good 0 0 5) s)).report [(s.chans.get 0).shown])] := by
  decide +kernel

/-- The ATTENTION fields of the STATE messages in the ordinary queue. -/
def statesAttention (s : State) : List Nat :=
  s.lif.ordinary.filterMap fun e => match e.msg.body with
    | .state r => some r.attention
    | _ => none

theorem witness_PlaceOfTheState :
    (live.ft.running = true ∧ live.ss.safety.isOpen = true ∧ live.cl.restartPending = false ∧
      live.ru.parkPending = false ∧ live.lif.ordinary = [] ∧ TickWork.report ∉ ([] : List TickWork)) ∧
      (workOrder [.poll, .report] (frameWorkOf [.poll, .report]) =
          [.poll] ++ .report :: [.peers, .cross, .conflict, .brake, .start, .faults, .limits, .zones, .underrun, .compute] ∧
        TickWork.report ∈ [TickWork.poll, .report]) ∧
      ({ ready with ft.watch := 64000 } : State).cfg.timing.refUse = true ∧ 2 * 64000 < 3 * ready.cfg.timing.n := by
  decide +kernel

/-- A raising of the frame tick is in its STATE when it is taken before the STATE is composed, and not otherwise. -/
theorem test_attentionOfTheState :
    (let s := { ready with ft.tick := 3 }
     statesAttention (after (.flywheelTick quietLines []) ready) = [5] ∧
       statesAttention (after (.flywheelTick quietLines []) s) = [0] ∧
       statesAttention (after (.flywheelTick quietLines []) { s with ft.watch := 64000 }) = [2]) ∧
      (let s := { goal 2 [] with ft.tick := 3 }
       statesAttention (after (.flywheelTick quietLines []) s) = [0] ∧
         statesAttention (after (.flywheelTick quietLines [.report]) s) = [4]) ∧
      (let s := { unanswered 0 ready with ft.tick := 3 }
       statesAttention (after (.flywheelTick quietLines [.poll, .report]) s) = [3] ∧
         statesAttention (after (.flywheelTick quietLines [.report, .poll]) s) = [0]) := by decide +kernel

theorem witness_StopOfAnOwnCause :
    (armed.ss.safety.isOpen = true ∧ findClaim armed.ss.claims armed.cfg.station .limit = none ∧
      findClaim armed.ss.claims armed.cfg.station .estop = none ∧ armed.ss.claims.length < 32 ∧
      armed.lif.urgent.length < 16) ∧
      ready.ss.safety.canStop = false ∧ ready.ss.safety.driven = false := by decide +kernel

theorem test_stopQueuedWhereTheNodeMoves :
    queued (raiseOwn .limit 3 live) = [.stop .limit 3] ∧ queued (raiseOwn .estop 1 live) = [.stop .estop 1] ∧
      queued (raiseOwn .limit 3 (claiming full live)) = [.stop .limit 3] := by decide +kernel

theorem witness_FiltersOfTheLines :
    (LineFilter.reset.active = false ∧ LineFilter.reset.run = 0 ∧ rising.active = false ∧ 1 ≤ rising.run) ∧
      (active.active = true ∧ active.seen = false ∧ ({ active with seen := true } : LineFilter).seen = true) ∧
      clearing.ss.safety.isOpen = true := by decide +kernel

theorem test_frameTickClearsTheLines :
    (let t := zoneFrameTick { clearing with
       zu.lines := [{ active with clear := 1 }, { active with seen := true, clear := 1 }, active], zu.estop := [active] }
     t.zu.lines = [LineFilter.expire 2 { active with clear := 2 }, active, { active with clear := 1 }] ∧
       t.zu.estop = [{ active with clear := 1 }]) := by decide +kernel

theorem test_sixteenthFailure :
    let s := { attempting (.pace 9) armed with lif := { (attempting (.pace 9) armed).lif with failRun := 15 } }
    (after .transmitFailure s).lif.txFailures = s.lif.txFailures + 1 ∧
      (after .transmitFailure s).lif.urgent.map (·.msg.body) = [.pace 9, .stop .link 5] := by decide +kernel

theorem test_sentPaceLeavesTheQueue :
    (after .attemptSuccess (attempting (.pace 9) armed)).lif.urgent = [] := by decide +kernel

theorem test_releaseQueuesItsClears :
    queued (after (.release (control 2) 0) (claiming [own .limit 3, own .follow 0] ready)) =
      [.clear .limit, .clear .follow, .reply 0 codeRelease .done (.causes [])] := by decide +kernel

theorem test_ringKeepsTheOtherRecords :
    let s := { holding [{ stream with base := 0, size := 3, fill := 2, retired := 1, high := 3 }] ready with
      ts.store := [(1, record 5), (3, record 6)] }
    (after (.samples (control 9) 2 2 false 1 [record 7]) s).ts.store = [(1, record 5), (2, record 7), (3, record 6)] := by
  decide +kernel

/-- The node on a punch-in pass whose channel is live. -/
def punched : State :=
  { driving .live 30 playing with tpr.punch := true, tpr.punchMask := 1, tpr.punchIdx := some 3, tpr.liveSet := 1 }

theorem witness_AbortOfAPunch :
    (punched.ss.safety.isOpen = true ∧ punched.tpr.abortPend = some { take := 1, frame := punched.ft.frame } ∧
      punched.tpr.take = some 1 ∧ punched.tpr.activity = .playing ∧ punched.tpr.punch = true ∧
      punched.tpr.punchMask.getLsbD 0 = true ∧ punched.tpr.punchMask.getLsbD 1 = false ∧ punched.ss.safety = .armed ∧
      (punched.dlu.lines.get 0).enable = true) ∧ playing.tpr.punch = false := by decide +kernel

theorem test_abortEndsThePunch :
    let t := after .abortAction punched
    t.tpr.activity = .easing ∧ t.tpr.punchMask = 0 ∧ t.tpr.punchIdx = none ∧ t.tpr.liveSet = 0 ∧
      (t.chans.get 0).mode = .halt := by decide +kernel

/-- A pending PARK, with the frame ticks since its acceptance. -/
def parking (n : Nat) : State := { ready with ru.parkPending := true, ru.parkTicks := n }

/-- A pending RESTART, with the frame ticks since its acceptance. -/
def restarting (n : Nat) (s : State) : State := { s with cl.restartPending := true, cl.restartTicks := n }

theorem witness_CountsOfPendingPassages :
    ((parking 0).ft.running = true ∧ (parking 0).ss.safety = .disarmed ∧ (parking 0).ru.parkPending = true ∧
      (parking 0).cl.restartPending = false ∧ (parking 0).ru.parkTicks = 0 ∧ 1 ≤ (parking 1).ru.parkTicks) ∧
      ((restarting 0 ready).ss.safety = .disarmed ∧ (restarting 1 failed).ss.safety = .faulted ∧
        (restarting 0 failed).ft.running = true ∧ (restarting 0 failed).ru.parkPending = false ∧
        (restarting 0 failed).cl.restartTicks = 0 ∧ 1 ≤ (restarting 1 failed).cl.restartTicks) := by decide +kernel

theorem test_pendingPassagesCount :
    (after (.flywheelTick quietLines []) (parking 0)).ru.parkTicks = 1 ∧
      (after (.flywheelTick quietLines [.report]) (parking 1)).ss.safety = .parked ∧
      (after (.flywheelTick quietLines []) (restarting 0 failed)).cl.restartTicks = 1 ∧
      (after (.flywheelTick quietLines []) (restarting 1 failed)).ss.safety = .loading := by decide +kernel

/-- In LIVE the MARK of a LIVE that names no channel below C is taken, and nothing else changes (log entry 48). -/
theorem test_markWithoutAChannel :
    let t := after (.live (control 4) true 8 9 [5]) live
    t.tpr.markPend = [(100, 9)] ∧ t.tpr.liveSet = live.tpr.liveSet ∧ t.chans = live.chans ∧
      (after (.live (control 4) true 8 9 [5]) armed).tpr = armed.tpr := by decide +kernel

/-! ### All that a stop does -/

/-- The stream take playing, the ease flag due for the frame that follows. -/
def streamed : State :=
  { ending { stream with held := true } .playing 4096 16 with
    tpr.liveSet := 1, tpr.markPend := [(100, 3)], tpr.punch := true, tpr.punchMask := 1, pu.easePend := [(101, true)] }

theorem witness_ForcingToIdle :
    (armed.ss.safety.canStop = true ∧ armed.ss.safety.driven = true ∧ armed.cfg.nChans ≤ 4 ∧ 0 < armed.cfg.nChans ∧
      armed.tpr.activity = .idle) ∧
      (live.ss.safety.canStop = true ∧ live.tpr.activity = .live) ∧
      (recording.ss.safety.canStop = true ∧ recording.tpr.activity = .recording) ∧
      (let s := cueing resident true false
       s.ss.safety.canStop = true ∧ s.tpr.activity.hasTake = true ∧ s.tpr.activity.plays = false ∧
         s.tpr.cueCompletion = some sender) ∧
      (streamed.ss.safety.canStop = true ∧ streamed.tpr.activity.hasTake = true ∧ streamed.tpr.activity.plays = true ∧
        findClaim streamed.ss.claims streamed.cfg.station .zone = none ∧
        findClaim streamed.ss.claims streamed.cfg.station .estop = none ∧ streamed.ss.claims.length < 32) ∧
      (let s := { timed .set .securing armed with ss.disarmPending := some sender }
       s.ss.safety = .securing ∧ s.ss.disarmPending = some sender ∧ s.ss.armPending = none ∧ s.tpr.activity = .idle) ∧
      ((armed.chans.get 0).mode ≠ .off ∧ ({ armed with chans.c0 := Chan.reset } : State).chans.c0.mode = .off) := by
  decide +kernel

theorem test_stopForcesIdle :
    (let t := raiseOwn .limit 0 streamed
     t.tpr = Tpr.reset ∧ t.findTake 2 = some { stream with held := false, state := .spent } ∧
       getPend t.pu.easePend 101 = some false) ∧
      (let t := raiseOwn .limit 0 recording
       t.tpr = Tpr.reset ∧ (t.findTake 1).map (·.state) = some .ready) := by decide +kernel

theorem test_stopCompletesWhatIsPending :
    queued (raiseOwn .limit 0 (cueing resident true false)) = [.stop .limit 0, .reply 77 8 .stopped .none] ∧
      queued (raiseOwn .limit 0 { timed .enable .arming armed with ss.armPending := some sender }) =
        [.stop .limit 0, .reply 77 1 .stopped .none] ∧
      (let s := { timed .set .securing armed with ss.disarmPending := some sender }
       queued (raiseOwn .estop 0 s) = [.stop .estop 0, .reply 77 2 .done .none] ∧
         queued (after .brakeSetEnd s) = [.reply 77 2 .done .none]) := by decide +kernel

/-- Requests: with the drive off, for the mode the channel is in, and for each mode of the second table of R54. -/
theorem witness_EntryToAMode :
    (ready.dlu.lines.get 0).enable = false ∧ (armed.chans.get 0).mode = .hold ∧ (armed.chans.get 0).v = 0 ∧
      (armed.dlu.lines.get 0).enable = true ∧ (live.chans.get 0).mode = .live ∧ (live.chans.get 0).v ≠ 0 ∧
      (live.dlu.lines.get 0).enable = true ∧
      (let s := driving .halt 0 armed
       (s.chans.get 0).mode = .halt ∧ (s.chans.get 0).v = 0 ∧ (s.dlu.lines.get 0).enable = true) ∧
      (let s := driving .halt 9 armed
       (s.chans.get 0).mode = .halt ∧ (s.chans.get 0).v ≠ 0) ∧
      (stopping 30).ss.safety = .stopping ∧ armed.ss.safety ≠ .stopping ∧ armed.ss.safety ≠ .securing ∧
      (timed .set .securing armed).ss.safety = .securing := by decide +kernel

theorem test_modesEntered :
    (let c := (requestMode .live 0 { armed with chans.c0.halt := true, chans.c0.dev := 1 }).chans.get 0
     c.gPrev = 20000 ∧ c.gCur = 20000 ∧ c.halt = false ∧ c.dev = 0 ∧ c.mode = .live) ∧
      (let c := (requestMode .hold 0 { live with chans.c0.gPend := some 5 }).chans.get 0
       c.mode = .halt ∧ c.halt = true ∧ c.gPend = none ∧ c.v = 30) ∧
      (let c := (requestMode .hold 0 { driving .halt 0 armed with chans.c0.halt := true }).chans.get 0
       c.mode = .hold ∧ c.halt = true ∧ c.held = 1000) := by decide +kernel

/-! ### Waking, edges and reports -/

/-- A parked node that wakes at frame 101, with a line, a fault-off flag and a cross-limit entry to set afresh. -/
def dozing : State :=
  { parked with
    ru.wake := some 101, zu.lines := active :: List.replicate 7 LineFilter.reset, dlu.lines.c0.faultOff := true
    iu.active := [false] }

theorem witness_WakeOfEveryBlock :
    DrivesGated dozing ∧ BrakesSafe dozing ∧ OffWithoutDrive dozing ∧
      (dozing.ft.running = true ∧ dozing.ss.safety = .parked ∧ dozing.cl.restartPending = false ∧
        dozing.ru.parkPending = false ∧ dozing.ru.wake = some (dozing.ft.frame + 1) ∧
        dozing.ru.wake ≠ some dozing.ft.frame ∧ parked.ru.wake ≠ some (parked.ft.frame + 1) ∧
        ready.ss.safety ≠ .parked) := by
  refine ⟨⟨?_, by decide +kernel⟩, ?_, ?_, by decide +kernel⟩
  · unfold PassagesSafe
    decide +kernel
  · unfold BrakesSafe
    decide +kernel
  · unfold OffWithoutDrive
    decide +kernel

theorem test_frameTickWakes :
    let t := after (.flywheelTick quietLines []) dozing
    t.ss.safety = .disarmed ∧ t.zu.lines = Zu.reset.lines ∧ t.iu.active = [true] ∧ t.iu.ranges.get 0 = (-500, 3000) ∧
      (t.dlu.lines.get 0).faultOff = false ∧
      (after (.flywheelTick quietLines []) { dozing with ru.wake := some 102 }).ss.safety = .parked := by decide +kernel

theorem witness_WorkOfAnEdge :
    (ready.ft.running = true ∧ ready.cfg.timing.refUse = true ∧ 1 ≤ ready.ft.tick ∧ ready.ss.safety.isOpen = true ∧
      ready.cl.restartPending = false ∧ ready.ru.parkPending = false ∧ ready.lif.ordinary = []) ∧
      ({ ready with ft.refPresent := true } : State).ft.refPresent = true ∧
      (parked.ft.running = true ∧ parked.ss.safety.isOpen = false ∧ 1 ≤ parked.ft.tick) := by decide +kernel

/-- The returning edge is the generator's tick but for the REF-PRESENT of its STATE (log entry 49). -/
theorem test_edgeIsATick :
    let s := { ready with ft.refPresent := true }
    let due := { s with ft.acc := 64000 }
    after (.referenceEdge quietLines []) s = after (.flywheelTick quietLines []) due ∧
      after (.referenceEdge quietLines []) ready ≠ after (.flywheelTick quietLines []) due ∧
      { after (.referenceEdge quietLines []) ready with lif := (after (.flywheelTick quietLines []) due).lif } =
        after (.flywheelTick quietLines []) due := by decide +kernel

theorem witness_SamplesOnlyReported :
    (receives (fromPeer 9) armed = true ∧ armed.isControl (fromPeer 9).source.toNat = false) ∧
      (receives { control 9 with dest := 9 } armed = true ∧ armed.addressed { control 9 with dest := 9 } = false) := by
  decide +kernel

/-- A message of a wrong CLASS from SOURCE 0 is bad (log entry 51), and set values are sent as 1 (log entry 53). -/
theorem test_choicesOfTheLayouts :
    (let p : Packet := { cls := 3, source := 0, kind := 1, dest := 0, payload := [1, 0] }
     received 1 p p.check = .badMessage .kindClass ∧ received 1 { p with cls := 0 } ({ p with cls := 0 } : Packet).check =
       .stop { source := 0, dest := 0, length := 2 } 1 0) ∧
      (ReplyData.claims 1 true [own .limit 3]).octets = [1, 1, 5, 3, 3, 1] ∧ (ReplyData.latch none).octets = [0, 0, 0, 0] := by
  decide +kernel

/-- A response of channel 0 taken after the tick that gave up its request is discarded, one taken before it is not, and neither
is the answer to the POLL of the new round (R78); the READ has the same (log entry 52). -/
theorem test_lateResponsesAreDiscarded :
    let s := after (.servoTick quietLines []) (polling armed)
    s.spl.round = some { channel := 0, late := false } ∧ after (.pollResponse .givenUp 0 0 1234) s = s ∧
      ((after (.pollResponse .good 0 0 1234) s).spl.readings.get 0).position = 1234 ∧
      ((after (.pollResponse .good 0 0 1234) (polling armed)).spl.readings.get 0).position = 1234 ∧
      after (.readResponse .givenUp 0 0 99) asking = asking := by decide +kernel

/-! ### The invariants are met, and by states that do something -/

/-- The playing node with a claim, a queued message and a command waiting. -/
def busy : State :=
  queueing [entry (.stop .zone 0)] [entry (.mark 1 0 1)]
    (slowed { claiming [own .zone 0] playing with pending := [.attempt], ts.store := [(2, record 5)] })

/-- A step of the busy node. -/
theorem busy_steps : step busy = .next (after .attempt { busy with pending := [] }) := rfl

theorem witness_ClaimsStayOrdered : ClaimsOrdered busy ∧ step busy = .next (after .attempt { busy with pending := [] }) :=
  ⟨⟨by decide +kernel, by decide +kernel⟩, busy_steps⟩

theorem witness_QueuesStaySound : QueuesSound busy ∧ step busy = .next (after .attempt { busy with pending := [] }) := by
  have hu : busy.lif.urgent = [entry (.stop .zone 0)] := rfl
  have ho : busy.lif.ordinary = [entry (.mark 1 0 1)] := rfl
  refine ⟨⟨?_, ?_, ?_, ?_⟩, busy_steps⟩
  · rw [hu]
    exact ⟨by decide, by decide, by simp [entry]⟩
  · rw [ho]
    exact ⟨by decide, by decide, by simp [entry]⟩
  · rw [hu]
    decide
  · rw [ho]
    decide

theorem witness_DrivesAndBrakesStaySafe :
    BrakesSafe busy ∧ OffWithoutDrive busy ∧ DrivesGated busy ∧
      step busy = .next (after .attempt { busy with pending := [] }) := by
  refine ⟨?_, ?_, ⟨?_, ?_⟩, busy_steps⟩
  · unfold BrakesSafe
    decide +kernel
  · unfold OffWithoutDrive
    decide +kernel
  · unfold PassagesSafe
    decide +kernel
  · decide +kernel

theorem witness_ActivityStaysGated : ActivityGated busy ∧ step busy = .next (after .attempt { busy with pending := [] }) := by
  refine ⟨⟨?_, ?_⟩, busy_steps⟩
  · unfold PassagesSafe
    decide +kernel
  · decide +kernel

theorem witness_TakeStoreStaysSound :
    StoreWf busy ∧ DirectorySound busy ∧ step busy = .next (after .attempt { busy with pending := [] }) := by
  have e : takesOf busy = [resident] := by decide +kernel
  refine ⟨by unfold StoreWf; decide +kernel, ⟨by decide +kernel, ?_, ?_⟩, busy_steps⟩
  · rw [e]
    simp [takeSound, resident, Config.storeSize]
  · rw [e]
    simp

theorem witness_PaceStaysSound : PaceSound busy ∧ step busy = .next (after .attempt { busy with pending := [] }) := by
  have e : busy.pu.entries = [{ origin := 20, factor := some 9, pend := [] }] := rfl
  refine ⟨⟨by decide +kernel, by rw [e]; simp, ?_, by decide +kernel, by decide +kernel, by decide +kernel,
    by decide +kernel⟩, busy_steps⟩
  rw [e]
  simp

theorem witness_RosterStaysSound : RosterSound busy ∧ step busy = .next (after .attempt { busy with pending := [] }) := by
  refine ⟨⟨?_, by decide +kernel, by decide +kernel, by decide +kernel⟩, busy_steps⟩
  unfold PeersValid
  decide +kernel

end Sys2Proof.Tests
end

section
/-! The arithmetic of the Setpoint Pipeline (R66): the discrete stopping distance as a sum of steps to rest, its growth, and
the bitwise search for the brake speed. -/

namespace Sys2Proof.Machine

open Sys2Proof

/-! ### The stopping distance -/

/-- The difference that `stopDistance` writes is never cut off at 0. -/
theorem stopDistance_add_triangle (a w : Nat) :
    stopDistance a w + a * (w / a * (w / a + 1) / 2) = (w / a + 1) * w := by
  have taken : a * (w / a * (w / a + 1) / 2) ≤ (w / a + 1) * w :=
    calc a * (w / a * (w / a + 1) / 2) ≤ a * (w / a * (w / a + 1)) := Nat.mul_le_mul_left a (Nat.div_le_self _ 2)
      _ = (w / a + 1) * (a * (w / a)) := by ring
      _ ≤ (w / a + 1) * w := Nat.mul_le_mul_left _ (Nat.mul_div_le w a)
  exact Nat.sub_add_cancel taken

theorem stopDistance_of_lt {a w : Nat} (slow : w < a) : stopDistance a w = w := by
  simp [stopDistance, Nat.div_eq_of_lt slow]

theorem triangle_succ (n : Nat) : (n + 1) * (n + 1 + 1) / 2 = n * (n + 1) / 2 + (n + 1) := by
  simpa [Nat.mul_comm] using Nat.triangle_succ (n + 1)

/-- One tick of braking: the speed itself is travelled, and `a` comes off it. -/
theorem stopDistance_of_le {a w : Nat} (ha : 1 ≤ a) (fast : a ≤ w) : stopDistance a w = w + stopDistance a (w - a) := by
  obtain ⟨u, rfl⟩ := Nat.exists_eq_add_of_le' fast
  have whole := stopDistance_add_triangle a (u + a)
  have rest := stopDistance_add_triangle a u
  rw [Nat.add_div_right u ha, triangle_succ] at whole
  rw [Nat.add_sub_cancel]
  linarith

/-- Induction along the ticks of braking from `w` to rest. -/
theorem braking_induction {a : Nat} {P : Nat → Prop} (ha : 1 ≤ a) (slow : ∀ w, w < a → P w)
    (tick : ∀ w, a ≤ w → P (w - a) → P w) (w : Nat) : P w := by
  induction w using Nat.strong_induction_on with
  | _ w ih =>
    rcases Nat.lt_or_ge w a with below | above
    · exact slow w below
    · exact tick w above (ih (w - a) (by omega))

theorem le_stopDistance {a : Nat} (ha : 1 ≤ a) (w : Nat) : w ≤ stopDistance a w := by
  rcases Nat.lt_or_ge w a with slow | fast
  · exact (stopDistance_of_lt slow).ge
  · exact stopDistance_of_le ha fast ▸ Nat.le_add_right w _

theorem stopDistance_mono {a v w : Nat} (ha : 1 ≤ a) (hvw : v ≤ w) : stopDistance a v ≤ stopDistance a w := by
  induction w using braking_induction ha generalizing v with
  | slow w below =>
    rwa [stopDistance_of_lt below, stopDistance_of_lt (hvw.trans_lt below)]
  | tick w above ih =>
    rcases Nat.lt_or_ge v a with slow | fast
    · rw [stopDistance_of_lt slow]
      exact hvw.trans (le_stopDistance ha w)
    · rw [stopDistance_of_le ha fast, stopDistance_of_le ha above]
      exact Nat.add_le_add hvw (ih (Nat.sub_le_sub_right hvw a))

theorem stopDistance_antitone {a b : Nat} (ha : 1 ≤ a) (hab : a ≤ b) (w : Nat) :
    stopDistance b w ≤ stopDistance a w := by
  induction w using braking_induction (ha.trans hab) with
  | slow w below =>
    rw [stopDistance_of_lt below]
    exact le_stopDistance ha w
  | tick w above ih =>
    calc stopDistance b w = w + stopDistance b (w - b) := stopDistance_of_le (ha.trans hab) above
      _ ≤ w + stopDistance a (w - b) := Nat.add_le_add_left ih w
      _ ≤ w + stopDistance a (w - a) :=
        Nat.add_le_add_left (stopDistance_mono ha (Nat.sub_le_sub_left hab w)) w
      _ = stopDistance a w := (stopDistance_of_le ha (hab.trans above)).symm

/-- The longest stop is the one from the greatest speed at deceleration 1. -/
theorem stopDistance_fits {a w : Nat} (ha : 1 ≤ a) (hw : w ≤ 65535) : stopDistance a w < 2 ^ 32 :=
  calc stopDistance a w ≤ stopDistance 1 w := stopDistance_antitone le_rfl ha w
    _ ≤ stopDistance 1 65535 := stopDistance_mono le_rfl hw
    _ < 2 ^ 32 := by decide

/-! ### The brake speed -/

theorem stopDistance_brakeSearch_le {a d : Nat} (k : Nat) {w : Nat} (stops : stopDistance a w ≤ d) :
    stopDistance a (brakeSearch a d k w) ≤ d := by
  induction k generalizing w with
  | zero => exact stops
  | succ k ih =>
    rw [brakeSearch]
    split
    next further => exact ih further
    next => exact ih stops

/-- A bit that is refused bounds every speed that stops, as the distance grows with the speed. -/
theorem le_brakeSearch {a d v : Nat} (ha : 1 ≤ a) (stops : stopDistance a v ≤ d) (k : Nat) {w : Nat}
    (below : v < w + 2 ^ k) : v ≤ brakeSearch a d k w := by
  induction k generalizing w with
  | zero => exact Nat.le_of_lt_succ below
  | succ k ih =>
    rw [brakeSearch]
    split
    next => exact ih (by omega)
    next tooFast =>
      have slower : v < w + 2 ^ k := by
        by_contra reached
        exact tooFast ((stopDistance_mono ha (not_lt.mp reached)).trans stops)
      exact ih slower

theorem stopDistance_brakeSpeed_le {a : Nat} (ha : 1 ≤ a) (d : Int) : stopDistance a (brakeSpeed a d) ≤ d.natAbs := by
  have atRest : stopDistance a 0 ≤ d.natAbs := by
    rw [stopDistance_of_lt ha]
    exact Nat.zero_le _
  exact stopDistance_brakeSearch_le _ atRest

theorem le_brakeSpeed {a w : Nat} {d : Int} (ha : 1 ≤ a) (stops : stopDistance a w ≤ d.natAbs) : w ≤ brakeSpeed a d := by
  have inRange : w < 0 + 2 ^ (d.natAbs.log2 + 1) :=
    calc w ≤ d.natAbs := (le_stopDistance ha w).trans stops
      _ < 2 ^ (d.natAbs.log2 + 1) := Nat.lt_log2_self
      _ = 0 + 2 ^ (d.natAbs.log2 + 1) := (Nat.zero_add _).symm
  exact le_brakeSearch ha stops _ inRange

theorem brakeSpeed_le_natAbs {a : Nat} (ha : 1 ≤ a) (d : Int) : brakeSpeed a d ≤ d.natAbs :=
  (le_stopDistance ha _).trans (stopDistance_brakeSpeed_le ha d)

theorem brakeSpeed_zero {a : Nat} (ha : 1 ≤ a) : brakeSpeed a 0 = 0 :=
  Nat.le_zero.mp (brakeSpeed_le_natAbs ha 0)

/-- Settles O48: the sum by its first step, the two monotonies by induction along the ticks of braking, the brake speed by
induction on the bits of the search. -/
theorem brakeSpeedIsTheLargestThatStops : Obligations.BrakeSpeedIsTheLargestThatStops := by
  unfold Obligations.BrakeSpeedIsTheLargestThatStops
  refine ⟨?restBelow, ?firstStep, ?closedForm, ?stops, ?largest, ?withinDistance, ?noDistance, ?grows, ?falls, ?fits⟩
  case restBelow => exact fun a w _ slow => stopDistance_of_lt slow
  case firstStep => exact fun a w ha fast => stopDistance_of_le ha fast
  case closedForm =>
    rintro a w n - rfl
    exact stopDistance_add_triangle a w
  case stops => exact fun a d ha => stopDistance_brakeSpeed_le ha d
  case largest => exact fun a w d ha stops => le_brakeSpeed ha stops
  case withinDistance => exact fun a d ha => brakeSpeed_le_natAbs ha d
  case noDistance => exact fun a ha => brakeSpeed_zero ha
  case grows => exact fun a v w ha hvw => stopDistance_mono ha hvw
  case falls => exact fun a b w ha hab => stopDistance_antitone ha hab w
  case fits => exact fun a w ha hw => stopDistance_fits ha hw

end Sys2Proof.Machine
end

section
/-! The claims of other stations (R97, R98, R102, R108): what a STOP and a CLEAR that the node hears do to the claims list,
and what a stop keeps of the attention set and of the other blocks. -/

namespace Sys2Proof

open Machine

/-! ### Blocks left alone -/

theorem OnlyChanges.mono {bs cs : List Block} {s t : State} (h : OnlyChanges bs s t) (sub : bs ⊆ cs) :
    OnlyChanges cs s t :=
  fun b outside => h b fun inside => outside (sub inside)

theorem SameBlock.trans {s t u : State} {b : Block} (first : SameBlock s t b) (second : SameBlock t u b) :
    SameBlock s u b := by
  cases b <;> exact Eq.trans second first

theorem OnlyChanges.trans {bs : List Block} {s t u : State} (first : OnlyChanges bs s t) (second : OnlyChanges bs t u) :
    OnlyChanges bs s u :=
  fun b outside => (first b outside).trans (second b outside)

theorem heard_ss (h : Header) (s : State) : (heard h s).ss = s.ss := by simp

theorem heard_onlyChanges (h : Header) (s : State) : OnlyChanges [.lif, .ru, .attention] s (heard h s) := by
  intro b outside
  cases b <;> simp_all [SameBlock]

/-! ### Messages that find no owner -/

theorem broadcastKind_of_closed {h : Header} {s : State} (r : receives h s = true) (closed : s.ss.safety.isOpen = false)
    (n : Nat) (f : State → State) : broadcastKind h n f s = .next (heard h s) := by
  simp [broadcastKind, arrive_of_receives h _ _ s r, deliverOpen, closed]

theorem exec_stop_of_hears {h : Header} {s : State} (r : hears h 2 s = true) (cause detail : Byte) :
    exec (.stop h cause detail) s = .next (takeClaim h.source.toNat cause.toNat detail.toNat (heard h s)) :=
  broadcastKind_of_hears h 2 _ s r

theorem exec_clear_of_hears {h : Header} {s : State} (r : hears h 1 s = true) (cause : Byte) :
    exec (.clear h cause) s = .next (takeClear h.source.toNat cause.toNat (heard h s)) :=
  broadcastKind_of_hears h 1 _ s r

end Sys2Proof

namespace Sys2Proof.Machine

open Sys2Proof

/-! ### The attention set -/

@[simp] theorem attentionHas_attentionRaise_self (set : BitVec 16) (a : Attention) :
    attentionHas (attentionRaise set a) a = true := by
  cases a <;> simp [attentionHas, attentionRaise, Attention.code]

theorem attentionHas_attentionRaise {set : BitVec 16} {a : Attention} (present : attentionHas set a = true)
    (b : Attention) : attentionHas (attentionRaise set b) a = true := by
  unfold attentionHas at present ⊢
  simp [attentionRaise, present]

/-- A message placed takes no condition out of the attention set: a full queue adds TX-DROP and nothing else touches it. -/
theorem attentionHas_place {s : State} {a : Attention} (present : attentionHas s.attention a = true) (m : Msg) :
    attentionHas (place m s).attention a = true := by
  have dropped : attentionHas (txDrop s).attention a = true := attentionHas_attentionRaise present .txDrop
  by_cases taken : mayQueue m.body s = true
  · obtain ⟨urgent, ordinary⟩ := place_of_taken m s taken
    rcases Nat.lt_or_ge m.body.cls 2 with low | high
    · rw [urgent (by omega)]
      cases enqueue s.lif.urgent m with
      | none => exact dropped
      | some q => exact present
    · rw [ordinary high]
      cases enqueue s.lif.ordinary m with
      | none => exact dropped
      | some q => exact present
  · rw [place_of_not_taken m s (by simpa using taken)]
    exact present

theorem attentionHas_answered {s : State} {a : Attention} (present : attentionHas s.attention a = true)
    (p : Option Slot) (code : Nat) (st : Status) : attentionHas (answered p code st s).attention a = true := by
  cases p with
  | none => exact present
  | some w => exact attentionHas_place present _

/-! ### The entry to STOPPING -/

theorem forceIdle_activity (s : State) : (forceIdle s).tpr.activity = .idle := by
  obtain ⟨atIdle, atLive, atRecording, withTake⟩ := forceIdle_forced s
  cases activity : s.tpr.activity with
  | idle => rw [(atIdle activity).1, activity]
  | live => rw [(atLive activity).1]; rfl
  | recording => rw [(atRecording activity).1]; rfl
  | cueing | cued | playing | easing => rw [(withTake (by rw [activity]; rfl)).1]; rfl

theorem enterStopping_ss (s : State) :
    (enterStopping s).ss = { s.ss with safety := .stopping, timer := none, armPending := none } := by
  simp [enterStopping, completeArm_answered]

theorem enterStopping_activity (s : State) : (enterStopping s).tpr.activity = .idle := by
  simp [enterStopping, forceIdle_activity]

theorem attentionHas_completeArm {s : State} {a : Attention} (present : attentionHas s.attention a = true) (st : Status) :
    attentionHas (completeArm st s).attention a = true := by
  rw [completeArm_answered]
  exact attentionHas_answered present s.ss.armPending codeArm st

theorem attentionHas_forceIdle {s : State} {a : Attention} (opened : s.ss.safety.isOpen = true)
    (present : attentionHas s.attention a = true) : attentionHas (forceIdle s).attention a = true := by
  rw [(forceIdle_sends s opened).2]
  exact attentionHas_answered present (pendingCue s) codeCue .stopped

theorem enterStopping_attention (s : State) :
    (enterStopping s).attention =
      (forceIdle (completeArm .stopped { s with ss.safety := .stopping, ss.timer := none })).attention := by
  simp [enterStopping]

theorem attentionHas_enterStopping {s : State} {a : Attention} (present : attentionHas s.attention a = true) :
    attentionHas (enterStopping s).attention a = true := by
  rw [enterStopping_attention]
  refine attentionHas_forceIdle ?opened (attentionHas_completeArm ?kept .stopped)
  case opened => simp [completeArm_answered, Safety.isOpen]
  case kept => exact present

theorem enterStopping_onlyChanges (s : State) :
    OnlyChanges [.lif, .chans, .ss, .pu, .ts, .tpr, .attention] s (enterStopping s) := by
  intro b outside
  cases b <;> simp_all [SameBlock]

/-! ### What follows a new claim or a refusal -/

theorem stopIfMoving_of_canStop {s : State} (moving : s.ss.safety.canStop = true) : stopIfMoving s = enterStopping s :=
  if_pos moving

theorem stopIfMoving_of_not_canStop {s : State} (still : s.ss.safety.canStop = false) : stopIfMoving s = s :=
  if_neg (by simp [still])

theorem stopIfMoving_onlyChanges (s : State) :
    OnlyChanges [.lif, .chans, .ss, .pu, .ts, .tpr, .attention] s (stopIfMoving s) := by
  cases moves : s.ss.safety.canStop with
  | true =>
    rw [stopIfMoving_of_canStop moves]
    exact enterStopping_onlyChanges s
  | false =>
    rw [stopIfMoving_of_not_canStop moves]
    intro b _
    cases b <;> rfl

/-- The refused state before the stop that may follow: the overflow condition stands with its count at 0 (R102). -/
def overflowed (s : State) : State := raise .claimOverflow { s with ss.overflow := true, ss.overflowQuiet := 0 }

theorem refuseClaim_eq (s : State) : refuseClaim s = stopIfMoving (overflowed s) := rfl

theorem overflowed_onlyChanges (s : State) : OnlyChanges [.ss, .attention] s (overflowed s) := by
  intro b outside
  cases b <;> simp_all [SameBlock, overflowed]

theorem refuseClaim_onlyChanges (s : State) :
    OnlyChanges [.lif, .chans, .ss, .pu, .ts, .tpr, .attention] s (refuseClaim s) :=
  ((overflowed_onlyChanges s).mono (by simp)).trans (stopIfMoving_onlyChanges (overflowed s))

theorem refuseClaim_safety {s : State} (moving : s.ss.safety.canStop = true) : (refuseClaim s).ss.safety = .stopping := by
  rw [refuseClaim_eq, stopIfMoving_of_canStop (s := overflowed s) moving, enterStopping_ss]

theorem refuseClaim_overflow (s : State) :
    (refuseClaim s).ss.overflow = true ∧ (refuseClaim s).ss.overflowQuiet = 0 ∧
      attentionHas (refuseClaim s).attention .claimOverflow = true := by
  have raised : attentionHas (overflowed s).attention .claimOverflow = true := attentionHas_attentionRaise_self _ _
  rw [refuseClaim_eq]
  cases moves : (overflowed s).ss.safety.canStop with
  | true =>
    rw [stopIfMoving_of_canStop moves, enterStopping_ss]
    exact ⟨rfl, rfl, attentionHas_enterStopping raised⟩
  | false =>
    rw [stopIfMoving_of_not_canStop moves]
    exact ⟨rfl, rfl, raised⟩

/-! ### The entries of a key -/

theorem Claim.hasKey_iff (e : Claim) (o : Nat) (c : Cause) : e.hasKey o c = true ↔ e.origin = o ∧ e.cause = c := by
  simp [Claim.hasKey]

theorem setDetail_eq_map (l : List Claim) (o : Nat) (c : Cause) (d : Nat) :
    setDetail l o c d = l.map fun k => if k.origin = o ∧ k.cause = c then { k with detail := d } else k := by
  simp only [setDetail, Claim.hasKey_iff]

theorem removeClaim_of_absent {l : List Claim} {o : Nat} {c : Cause} (absent : findClaim l o c = none) :
    removeClaim l o c = l :=
  List.filter_eq_self.mpr fun e he => by simp [(findClaim_none l o c).mp absent e he]

/-! ### A claim of another station -/

theorem withClaims_onlyChanges (l : List Claim) (s : State) : OnlyChanges [.ss] s { s with ss.claims := l } := by
  intro b outside
  cases b <;> simp_all [SameBlock]

theorem remoteClaim_of_standing {o : Nat} {c : Cause} {s : State} {e : Claim}
    (stands : findClaim s.ss.claims o c = some e) (d : Nat) :
    remoteClaim o c d s = { s with ss.claims := setDetail s.ss.claims o c d } := by
  simp only [remoteClaim, stands]

theorem remoteClaim_of_room {o : Nat} {c : Cause} {s : State} (absent : findClaim s.ss.claims o c = none)
    (room : s.ss.claims.length < 32) (d : Nat) :
    remoteClaim o c d s = stopIfMoving { s with
      ss.claims := insertClaim { origin := o, cause := c, detail := d, latched := false } s.ss.claims } := by
  simp only [remoteClaim, absent]
  exact if_pos room

theorem remoteClaim_of_full {o : Nat} {c : Cause} {s : State} (absent : findClaim s.ss.claims o c = none)
    (full : 32 ≤ s.ss.claims.length) (d : Nat) : remoteClaim o c d s = refuseClaim s := by
  simp only [remoteClaim, absent]
  exact if_neg (not_lt.mpr full)

theorem remoteClaim_of_room_claims {o : Nat} {c : Cause} {s : State} (absent : findClaim s.ss.claims o c = none)
    (room : s.ss.claims.length < 32) (d : Nat) :
    (remoteClaim o c d s).ss.claims =
      insertClaim { origin := o, cause := c, detail := d, latched := false } s.ss.claims := by
  rw [remoteClaim_of_room absent room, stopIfMoving_claims]

theorem remoteClaim_of_room_stops {o : Nat} {c : Cause} {s : State} (absent : findClaim s.ss.claims o c = none)
    (room : s.ss.claims.length < 32) (moving : s.ss.safety.canStop = true) (d : Nat) :
    (remoteClaim o c d s).ss.safety = .stopping ∧ (remoteClaim o c d s).tpr.activity = .idle := by
  rw [remoteClaim_of_room absent room, stopIfMoving_of_canStop (by exact moving), enterStopping_ss]
  exact ⟨rfl, enterStopping_activity _⟩

theorem remoteClaim_of_room_of_not_canStop {o : Nat} {c : Cause} {s : State} (absent : findClaim s.ss.claims o c = none)
    (room : s.ss.claims.length < 32) (still : s.ss.safety.canStop = false) (d : Nat) :
    remoteClaim o c d s = { s with
      ss.claims := insertClaim { origin := o, cause := c, detail := d, latched := false } s.ss.claims } := by
  rw [remoteClaim_of_room absent room]
  exact stopIfMoving_of_not_canStop still

/-- A claim of another station touches the list, and the rest through a stop and through the refusal alone. -/
theorem remoteClaim_onlyChanges (o : Nat) (c : Cause) (d : Nat) (s : State) :
    OnlyChanges [.lif, .chans, .ss, .pu, .ts, .tpr, .attention] s (remoteClaim o c d s) := by
  cases stands : findClaim s.ss.claims o c with
  | some e =>
    rw [remoteClaim_of_standing stands]
    exact (withClaims_onlyChanges _ s).mono (by simp)
  | none =>
    rcases Nat.lt_or_ge s.ss.claims.length 32 with room | full
    · rw [remoteClaim_of_room stands room]
      exact ((withClaims_onlyChanges _ s).mono (by simp)).trans (stopIfMoving_onlyChanges _)
    · rw [remoteClaim_of_full stands full]
      exact refuseClaim_onlyChanges s

/-! ### The causes that a station may state -/

theorem takeClaim_of_admitted {o cause : Nat} {c : Cause} {s : State} (code : Cause.ofCode cause = some c)
    (may : c = .operator → s.isControl o = true) (d : Nat) : takeClaim o cause d s = remoteClaim o c d s := by
  have admitted : s.admittedCause o cause = some c := by
    simp only [State.admittedCause, code, Option.bind_some]
    exact if_neg fun ⟨operator, other⟩ => by simp [may operator] at other
  simp [takeClaim, admitted]

theorem takeClaim_of_unknown {cause : Nat} (code : Cause.ofCode cause = none) (o d : Nat) (s : State) :
    takeClaim o cause d s = s := by
  simp [takeClaim, State.admittedCause, code]

theorem takeClaim_of_foreign_operator {o cause : Nat} {s : State} (code : Cause.ofCode cause = some .operator)
    (other : s.isControl o = false) (d : Nat) : takeClaim o cause d s = s := by
  simp [takeClaim, State.admittedCause, code, other]

theorem takeClear_of_code {cause : Nat} {c : Cause} (code : Cause.ofCode cause = some c) (o : Nat) (s : State) :
    takeClear o cause s = { s with ss.claims := removeClaim s.ss.claims o c } := by
  simp [takeClear, code]

theorem takeClear_of_unknown {cause : Nat} (code : Cause.ofCode cause = none) (o : Nat) (s : State) :
    takeClear o cause s = s := by
  simp [takeClear, code]

theorem ofCode_eq_none_iff (n : Nat) : Cause.ofCode n = none ↔ n = 0 ∨ 13 < n := by
  constructor
  · intro unknown
    by_contra inTable
    have low : 1 ≤ n := by omega
    have high : n ≤ 13 := by omega
    interval_cases n <;> cases unknown
  · rintro (rfl | high)
    · rfl
    · unfold Cause.ofCode
      split <;> simp_all

/-! ### STOP and CLEAR as a hearing node takes them -/

theorem exec_stop_of_admitted {h : Header} {s : State} {cause : Byte} {c : Cause} (r : hears h 2 s = true)
    (code : Cause.ofCode cause.toNat = some c) (may : c = .operator → s.isControl h.source.toNat = true) (detail : Byte) :
    exec (.stop h cause detail) s = .next (remoteClaim h.source.toNat c detail.toNat (heard h s)) := by
  rw [exec_stop_of_hears r, takeClaim_of_admitted code (by simpa using may)]

theorem heard_remoteClaim_onlyChanges (h : Header) (o : Nat) (c : Cause) (d : Nat) (s : State) :
    OnlyChanges [.lif, .ru, .chans, .ss, .pu, .ts, .tpr, .attention] s (remoteClaim o c d (heard h s)) :=
  ((heard_onlyChanges h s).mono (by simp)).trans ((remoteClaim_onlyChanges o c d (heard h s)).mono (by simp))

/-- Settles O24, by what `remoteClaim` does to the heard state: the key stands, is new with room, or is new at a full list. -/
theorem stopMessageEntersAClaim : Obligations.StopMessageEntersAClaim := by
  unfold Obligations.StopMessageEntersAClaim
  refine ⟨fun h cause detail s r => ⟨fun c code may => ?admitted, fun unknown => ?unknown, fun operator other => ?foreign⟩,
    fun h cause detail s r closed => broadcastKind_of_closed r closed _ _⟩
  case admitted =>
    rw [exec_stop_of_admitted r code may]
    have changes := heard_remoteClaim_onlyChanges h h.source.toNat c detail.toNat s
    refine ⟨fun e stands => ?standing, fun absent room => ?added, fun absent full => ?refused⟩
    case standing =>
      rw [← heard_ss h s] at stands
      rw [remoteClaim_of_standing stands, setDetail_eq_map, ← heard_ss h s]
    case added =>
      rw [← heard_ss h s] at absent room
      have claims := remoteClaim_of_room_claims absent room detail.toNat
      refine ⟨_, rfl, by rw [claims, heard_ss], fun moving => ?stops, changes, fun still => ?stays⟩
      case stops => exact remoteClaim_of_room_stops absent room (by rwa [heard_ss]) _
      case stays =>
        rw [claims]
        exact remoteClaim_of_room_of_not_canStop absent room (by rwa [heard_ss]) _
    case refused =>
      rw [← heard_ss h s] at absent full
      rw [remoteClaim_of_full absent full] at changes ⊢
      obtain ⟨overflow, quiet, raised⟩ := refuseClaim_overflow (heard h s)
      refine ⟨_, rfl, ?kept, overflow, quiet, raised, fun moving => ?stops, changes⟩
      case kept => rw [refuseClaim_claims, heard_ss]
      case stops => exact refuseClaim_safety (by rwa [heard_ss])
  case unknown => rw [exec_stop_of_hears r, takeClaim_of_unknown unknown]
  case foreign => rw [exec_stop_of_hears r, takeClaim_of_foreign_operator operator (by simpa using other)]

/-- Settles O25: with a cause of the table the list is filtered by the key, and without one nothing is taken. -/
theorem clearMessageRemovesItsEntry : Obligations.ClearMessageRemovesItsEntry := by
  unfold Obligations.ClearMessageRemovesItsEntry
  refine ⟨fun h cause s r => ⟨fun c code => ?removed, fun c code absent => ?absent, fun unknown => ?unknown,
    ofCode_eq_none_iff _⟩, fun h cause s r closed => broadcastKind_of_closed r closed _ _⟩
  case removed =>
    rw [exec_clear_of_hears r, takeClear_of_code code, ← heard_ss h s]
    rfl
  case absent =>
    rw [← heard_ss h s] at absent
    rw [exec_clear_of_hears r, takeClear_of_code code, removeClaim_of_absent absent]
  case unknown => rw [exec_clear_of_hears r, takeClear_of_unknown unknown]

end Sys2Proof.Machine

end

section
/-! What every step keeps: the relation of two states in which each invariant of the node goes over from the one to the
other, and the operations that stand in it. A step is then a chain of such operations, and each invariant reads off its own
part. -/

namespace Sys2Proof.Machine

open Sys2Proof

/-! ### The relation -/

/-- The invariants of the records go over from `s` to `t`: those that read neither the safety state nor the activity. -/
structure KeepsRecords (s t : State) : Prop where
  claims : ClaimsOrdered s → ClaimsOrdered t
  queues : QueuesSound s → QueuesSound t
  brakes : BrakesSafe s → BrakesSafe t
  offs : OffWithoutDrive s → OffWithoutDrive t
  directory : DirectorySound s → DirectorySound t
  store : StoreWf s → StoreWf t
  pace : PaceSound s → PaceSound t
  roster : RosterSound s → RosterSound t

/-- Every invariant of the node goes over from `s` to `t`. -/
structure Keeps (s t : State) : Prop extends KeepsRecords s t where
  drives : DrivesGated s → DrivesGated t
  activity : ActivityGated s → ActivityGated t

theorem KeepsRecords.trans {s t u : State} (first : KeepsRecords s t) (second : KeepsRecords t u) : KeepsRecords s u where
  claims := second.claims ∘ first.claims
  queues := second.queues ∘ first.queues
  brakes := second.brakes ∘ first.brakes
  offs := second.offs ∘ first.offs
  directory := second.directory ∘ first.directory
  store := second.store ∘ first.store
  pace := second.pace ∘ first.pace
  roster := second.roster ∘ first.roster

theorem Keeps.refl (s : State) : Keeps s s := ⟨⟨id, id, id, id, id, id, id, id⟩, id, id⟩

theorem Keeps.trans {s t u : State} (first : Keeps s t) (second : Keeps t u) : Keeps s u where
  toKeepsRecords := first.toKeepsRecords.trans second.toKeepsRecords
  drives := second.drives ∘ first.drives
  activity := second.activity ∘ first.activity

theorem Keeps.ite {s t u : State} {p : Prop} [Decidable p] (yes : p → Keeps s t) (no : ¬ p → Keeps s u) :
    Keeps s (if p then t else u) := by
  split
  next holds => exact yes holds
  next fails => exact no fails

/-- An operation done where a condition holds. -/
theorem Keeps.when {s t : State} {p : Prop} [Decidable p] (yes : p → Keeps s t) : Keeps s (if p then t else s) :=
  .ite yes fun _ => .refl s

/-- A loop whose rounds keep the invariants while a side condition stands, which every round keeps too. -/
theorem Keeps.foldl_of {α : Type} {f : State → α → State} (side : State → Prop) {l : List α}
    (round : ∀ u, ∀ a ∈ l, side u → Keeps u (f u a) ∧ side (f u a)) {s : State} (start : side s) :
    Keeps s (l.foldl f s) := by
  induction l generalizing s with
  | nil => exact .refl s
  | cons a l ih =>
    obtain ⟨kept, still⟩ := round s a (by simp) start
    exact kept.trans (ih (fun u b hb => round u b (List.mem_cons_of_mem a hb)) still)

theorem Keeps.foldl {α : Type} {f : State → α → State} (round : ∀ u a, Keeps u (f u a)) (l : List α) (s : State) :
    Keeps s (l.foldl f s) :=
  .foldl_of (fun _ => True) (fun u a _ _ => ⟨round u a, trivial⟩) trivial

/-! ### What each invariant reads -/

theorem claimsOrdered_of_eq {s t : State} (eq : t.ss.claims = s.ss.claims) : ClaimsOrdered s → ClaimsOrdered t := by
  unfold ClaimsOrdered
  rw [eq]
  exact id

theorem queuesSound_of_eq {s t : State} (urgent : t.lif.urgent = s.lif.urgent) (ordinary : t.lif.ordinary = s.lif.ordinary) :
    QueuesSound s → QueuesSound t := by
  unfold QueuesSound
  rw [urgent, ordinary]
  exact id

theorem brakesSafe_of_same {s t : State}
    (enables : ∀ i < 4, (t.dlu.lines.get i).enable = (s.dlu.lines.get i).enable)
    (releases : ∀ i < 4, (t.dlu.lines.get i).released = (s.dlu.lines.get i).released) : BrakesSafe s → BrakesSafe t := by
  intro safe i hi
  rw [enables i hi, releases i hi]
  exact safe i hi

theorem offWithoutDrive_of_same {s t : State}
    (enables : ∀ i < 4, (t.dlu.lines.get i).enable = (s.dlu.lines.get i).enable)
    (modes : ∀ i < 4, (t.chans.get i).mode = (s.chans.get i).mode) : OffWithoutDrive s → OffWithoutDrive t := by
  intro off i hi
  rw [enables i hi, modes i hi]
  exact off i hi

theorem passagesSafe_of_eq {s t : State} (park : t.ru.parkPending = s.ru.parkPending)
    (restart : t.cl.restartPending = s.cl.restartPending) (safety : t.ss.safety = s.ss.safety) :
    PassagesSafe s → PassagesSafe t := by
  unfold PassagesSafe
  rw [park, restart, safety]
  exact id

theorem drivesGated_of_same {s t : State} (park : t.ru.parkPending = s.ru.parkPending)
    (restart : t.cl.restartPending = s.cl.restartPending) (safety : t.ss.safety = s.ss.safety)
    (chans : t.cfg.nChans = s.cfg.nChans)
    (on : ∀ i < 4, (t.dlu.lines.get i).enable = true → (s.dlu.lines.get i).enable = true) :
    DrivesGated s → DrivesGated t := by
  rintro ⟨passages, gated⟩
  refine ⟨passagesSafe_of_eq park restart safety passages, fun i hi ti => ?_⟩
  rw [safety, chans]
  exact gated i hi (on i hi ti)

theorem activityGated_of_eq {s t : State} (park : t.ru.parkPending = s.ru.parkPending)
    (restart : t.cl.restartPending = s.cl.restartPending) (safety : t.ss.safety = s.ss.safety)
    (activity : t.tpr.activity = s.tpr.activity) : ActivityGated s → ActivityGated t := by
  rintro ⟨passages, gated⟩
  refine ⟨passagesSafe_of_eq park restart safety passages, ?_⟩
  rw [activity, safety]
  exact gated

theorem directorySound_of_eq {s t : State} (dir : t.ts.dir = s.ts.dir) : DirectorySound s → DirectorySound t := by
  unfold DirectorySound takesOf
  rw [dir]
  exact id

theorem storeWf_of_eq {s t : State} (store : t.ts.store = s.ts.store) : StoreWf s → StoreWf t := by
  unfold StoreWf
  rw [store]
  exact id

/-- The values of the Pace Unit that its invariant reads are alike. -/
structure SamePace (p q : Pu) : Prop where
  entries : q.entries = p.entries
  floor : q.floor = p.floor
  floorPend : q.floorPend = p.floorPend
  target : q.target = p.target
  applied : q.applied = p.applied

theorem SamePace.of_eq {p q : Pu} (eq : q = p) : SamePace p q := by
  subst eq
  exact ⟨rfl, rfl, rfl, rfl, rfl⟩

theorem paceSound_of_same {s t : State} (same : SamePace s.pu t.pu) : PaceSound s → PaceSound t := by
  obtain ⟨entries, floor, floorPend, target, applied⟩ := same
  unfold PaceSound
  rw [entries, floor, floorPend, target, applied]
  exact id

theorem rosterSound_of_eq {s t : State} (cfg : t.cfg = s.cfg) (roster : t.ru.roster = s.ru.roster) :
    RosterSound s → RosterSound t := by
  unfold RosterSound
  rw [cfg, roster]
  exact id

/-! ### Operations by what they touch -/

/-- An invariant goes over from `s` to `t`; `simp` takes a proof of it as it stands. -/
def Goes (invariant : State → Prop) (s t : State) : Prop := invariant s → invariant t

/-- What each invariant of the records reads is alike in `s` and `t`, or the invariant is shown to go over. -/
def PassesRecords (s t : State) : Prop :=
  (Goes ClaimsOrdered s t ∨ t.ss.claims = s.ss.claims) ∧
  (Goes QueuesSound s t ∨ t.lif.urgent = s.lif.urgent ∧ t.lif.ordinary = s.lif.ordinary) ∧
  (Goes BrakesSafe s t ∨ (∀ i < 4, (t.dlu.lines.get i).enable = (s.dlu.lines.get i).enable) ∧
    ∀ i < 4, (t.dlu.lines.get i).released = (s.dlu.lines.get i).released) ∧
  (Goes OffWithoutDrive s t ∨ (∀ i < 4, (t.dlu.lines.get i).enable = (s.dlu.lines.get i).enable) ∧
    ∀ i < 4, (t.chans.get i).mode = (s.chans.get i).mode) ∧
  (Goes DirectorySound s t ∨ t.ts.dir = s.ts.dir) ∧ (Goes StoreWf s t ∨ t.ts.store = s.ts.store) ∧
  (Goes PaceSound s t ∨ t.pu = s.pu) ∧ (Goes RosterSound s t ∨ t.cfg = s.cfg ∧ t.ru.roster = s.ru.roster)

/-- The same for all the invariants. -/
def Passes (s t : State) : Prop :=
  PassesRecords s t ∧
  (Goes DrivesGated s t ∨ t.ru.parkPending = s.ru.parkPending ∧ t.cl.restartPending = s.cl.restartPending ∧
    t.ss.safety = s.ss.safety ∧ t.cfg.nChans = s.cfg.nChans ∧
    ∀ i < 4, (t.dlu.lines.get i).enable = true → (s.dlu.lines.get i).enable = true) ∧
  (Goes ActivityGated s t ∨ t.ru.parkPending = s.ru.parkPending ∧ t.cl.restartPending = s.cl.restartPending ∧
    t.ss.safety = s.ss.safety ∧ t.tpr.activity = s.tpr.activity)

theorem KeepsRecords.of {s t : State} (passes : PassesRecords s t) : KeepsRecords s t := by
  obtain ⟨claims, queues, brakes, offs, directory, store, pace, roster⟩ := passes
  exact
    { claims := claims.elim id claimsOrdered_of_eq
      queues := queues.elim id fun ⟨urgent, ordinary⟩ => queuesSound_of_eq urgent ordinary
      brakes := brakes.elim id fun ⟨enables, releases⟩ => brakesSafe_of_same enables releases
      offs := offs.elim id fun ⟨enables, modes⟩ => offWithoutDrive_of_same enables modes
      directory := directory.elim id directorySound_of_eq
      store := store.elim id storeWf_of_eq
      pace := pace.elim id fun eq => paceSound_of_same (.of_eq eq)
      roster := roster.elim id fun ⟨cfg, eq⟩ => rosterSound_of_eq cfg eq }

theorem Keeps.of {s t : State} (passes : Passes s t) : Keeps s t := by
  obtain ⟨records, drives, activity⟩ := passes
  exact
    { toKeepsRecords := .of records
      drives := drives.elim id fun ⟨park, restart, safety, chans, on⟩ => drivesGated_of_same park restart safety chans on
      activity := activity.elim id fun ⟨park, restart, safety, eq⟩ => activityGated_of_eq park restart safety eq }

/-- An operation that leaves the records alone and keeps what the safety state gates. -/
theorem Keeps.of_gates {s t : State} (drives : DrivesGated s → DrivesGated t) (activity : ActivityGated s → ActivityGated t)
    (passes : PassesRecords s t) : Keeps s t := ⟨.of passes, drives, activity⟩

/-- An operation that changes the takes and keeps their directory and the sample store sound. -/
theorem Keeps.of_takes {s t : State} (directory : DirectorySound s → DirectorySound t) (store : StoreWf s → StoreWf t)
    (passes : Goes DirectorySound s t → Goes StoreWf s t → Passes s t) : Keeps s t := .of (passes directory store)

/-! ### The transmit queues -/

theorem raise_keeps (a : Attention) (s : State) : Keeps s (raise a s) := .of (by simp [Passes, PassesRecords])

/-- The key of a message settles its class. -/
theorem cls_eq_of_key_eq {a b : Body} {k : Key} (ha : a.key = some k) (hb : b.key = some k) : a.cls = b.cls := by
  cases a <;> cases b <;> simp_all [Body.key, Body.cls] <;> subst_vars <;> simp_all

/-- What a queue says of each of its entries: a successor has the key and the class of the message it follows. -/
def SuccessorFits (e : QEntry) : Prop :=
  ∀ m, e.succ = some m → m.body.key = e.msg.body.key ∧ m.body.cls = e.msg.body.cls

theorem queueSound_iff (q : List QEntry) :
    QueueSound q ↔ q.length ≤ 16 ∧
      (q.Pairwise fun a b => a.msg.body.key = none ∨ a.msg.body.key ≠ b.msg.body.key) ∧ ∀ e ∈ q, SuccessorFits e := Iff.rfl

/-- A renewed entry keeps its key and its class, and its successor fits. -/
theorem renew_fits {e : QEntry} {m : Msg} {k : Key} (hm : m.body.key = some k) (he : e.hasKey k = true)
    (fits : SuccessorFits e) :
    (e.renew m).msg.body.key = e.msg.body.key ∧ (e.renew m).msg.body.cls = e.msg.body.cls ∧ SuccessorFits (e.renew m) := by
  have key : e.msg.body.key = some k := by simpa [QEntry.hasKey] using he
  have same : m.body.key = e.msg.body.key := hm.trans key.symm
  have cls : m.body.cls = e.msg.body.cls := cls_eq_of_key_eq hm key
  unfold QEntry.renew
  split
  next =>
    refine ⟨rfl, rfl, ?_⟩
    rintro _ ⟨⟩
    exact ⟨same, cls⟩
  next =>
    refine ⟨same, cls, fun n hn => ?_⟩
    obtain ⟨nkey, ncls⟩ := fits n hn
    exact ⟨nkey.trans same.symm, ncls.trans cls.symm⟩

/-- A new entry at the end of a sound queue with room, when no entry has its key. -/
theorem queueSound_append {q : List QEntry} (sound : QueueSound q) (m : Msg) (room : q.length < 16)
    (fresh : m.body.key = none ∨ ∀ e ∈ q, m.body.key ≠ e.msg.body.key) :
    QueueSound (q ++ [{ msg := m, succ := none, active := false }]) := by
  obtain ⟨length, keys, succs⟩ := sound
  refine ⟨?_, List.pairwise_append.mpr ⟨keys, by simp, ?_⟩, ?_⟩
  · simpa [Config.queueSize] using room
  · intro a ha b hb
    obtain rfl := List.mem_singleton.mp hb
    rcases fresh with keyless | other
    · simpa [keyless] using em _
    · exact .inr fun h => other a ha h.symm
  · intro e he
    rcases List.mem_append.mp he with old | new
    · exact succs e old
    · obtain rfl := List.mem_singleton.mp new
      simp

/-- A map that keeps keys and successors keeps a queue sound. -/
theorem queueSound_map {q : List QEntry} (sound : QueueSound q) (f : QEntry → QEntry)
    (same : ∀ e ∈ q, SuccessorFits e → (f e).msg.body.key = e.msg.body.key ∧ SuccessorFits (f e)) : QueueSound (q.map f) := by
  obtain ⟨length, keys, succs⟩ := sound
  refine ⟨by simpa using length, List.pairwise_map.mpr (keys.imp_of_mem fun {a b} ha hb h => ?_), fun e he => ?_⟩
  · rwa [(same a ha (succs a ha)).1, (same b hb (succs b hb)).1]
  · obtain ⟨d, hd, rfl⟩ := List.mem_map.mp he
    exact (same d hd (succs d hd)).2

/-- Leaving out entries keeps a queue sound. -/
theorem queueSound_sublist {p q : List QEntry} (sound : QueueSound q) (sub : p.Sublist q) : QueueSound p :=
  ⟨sub.length_le.trans sound.1, sound.2.1.sublist sub, fun e he => sound.2.2 e (sub.subset he)⟩

/-- A message placed in a sound queue leaves it sound, with entries of the message's class and of those before alone. -/
theorem enqueue_keeps {q u : List QEntry} {m : Msg} (sound : QueueSound q) (placed : enqueue q m = some u) :
    QueueSound u ∧ ∀ e ∈ u, e.msg.body.cls = m.body.cls ∨ ∃ d ∈ q, e.msg.body.cls = d.msg.body.cls := by
  have appended : (q ++ [{ msg := m, succ := none, active := false }] = u) →
      ∀ e ∈ u, e.msg.body.cls = m.body.cls ∨ ∃ d ∈ q, e.msg.body.cls = d.msg.body.cls := by
    rintro rfl e he
    rcases List.mem_append.mp he with old | new
    · exact .inr ⟨e, old, rfl⟩
    · obtain rfl := List.mem_singleton.mp new
      exact .inl rfl
  unfold enqueue at placed
  cases hk : m.body.key with
  | none =>
    simp only [hk, Option.ite_none_right_eq_some, Option.some.injEq] at placed
    obtain ⟨room, eq⟩ := placed
    exact ⟨eq ▸ queueSound_append sound m room (.inl hk), appended eq⟩
  | some k =>
    simp only [hk] at placed
    by_cases present : q.any (·.hasKey k) = true
    · rw [if_pos present] at placed
      obtain rfl := Option.some.inj placed
      refine ⟨queueSound_map sound _ fun e _ fits => ?_, fun e he => ?_⟩
      · split
        next has => exact ⟨(renew_fits hk has fits).1, (renew_fits hk has fits).2.2⟩
        next => exact ⟨rfl, fits⟩
      · obtain ⟨d, hd, rfl⟩ := List.mem_map.mp he
        refine .inr ⟨d, hd, ?_⟩
        split
        next has => exact (renew_fits hk has (sound.2.2 d hd)).2.1
        next => rfl
    · simp only [if_neg present, Option.ite_none_right_eq_some, Option.some.injEq] at placed
      obtain ⟨room, eq⟩ := placed
      refine ⟨eq ▸ queueSound_append sound m room (.inr fun e he same => present ?_), appended eq⟩
      exact List.any_eq_true.mpr ⟨e, he, by simp [QEntry.hasKey, ← same, hk]⟩

theorem place_queuesSound (m : Msg) (s : State) (sound : QueuesSound s) : QueuesSound (place m s) := by
  obtain ⟨urgent, ordinary, low, high⟩ := sound
  have kept : QueuesSound s := ⟨urgent, ordinary, low, high⟩
  by_cases taken : mayQueue m.body s = true
  · obtain ⟨toUrgent, toOrdinary⟩ := place_of_taken m s taken
    rcases Nat.lt_or_ge m.body.cls 2 with h | h
    · rw [toUrgent (by omega)]
      cases placed : enqueue s.lif.urgent m with
      | none => exact kept
      | some q =>
        obtain ⟨sound, classes⟩ := enqueue_keeps urgent placed
        refine ⟨sound, ordinary, fun e he => ?_, high⟩
        rcases classes e he with c | ⟨d, hd, c⟩
        · omega
        · exact c ▸ low d hd
    · rw [toOrdinary h]
      cases placed : enqueue s.lif.ordinary m with
      | none => exact kept
      | some q =>
        obtain ⟨sound, classes⟩ := enqueue_keeps ordinary placed
        refine ⟨urgent, sound, low, fun e he => ?_⟩
        rcases classes e he with c | ⟨d, hd, c⟩
        · exact c ▸ h
        · exact c ▸ high d hd
  · rw [place_of_not_taken m s (by simpa using taken)]
    exact kept

theorem place_keeps (m : Msg) (s : State) : Keeps s (place m s) := by
  have queues : Goes QueuesSound s (place m s) := place_queuesSound m s
  exact .of (by simp [Passes, PassesRecords, queues])

theorem broadcast_keeps (b : Body) (s : State) : Keeps s (broadcast b s) := place_keeps _ s

theorem reply_keeps (who : Slot) (code : Nat) (status : Status) (data : ReplyData) (s : State) :
    Keeps s (reply who code status data s) := place_keeps _ s

theorem recomposeRoll_keeps (s : State) : Keeps s (recomposeRoll s) := .when fun _ => broadcast_keeps _ s

/-! ### Channels and drives -/

/-- Reading a channel after a write; a number above 3 writes none. -/
theorem quad_get_set_of_lt {α : Type} (q : Quad α) (i : Nat) {j : Nat} (a : α) (hj : j < 4) :
    (q.set i a).get j = if j = i then a else q.get j := by
  rcases Nat.lt_or_ge i 4 with hi | hi
  · exact quad_get_set q i j a hi hj
  · have unchanged : q.set i a = q := by rcases i with _ | _ | _ | _ | i <;> first | omega | rfl
    rw [unchanged, if_neg (by omega)]

theorem modChan_mode {f : Chan → Chan} (same : ∀ c, (f c).mode = c.mode) (i : Nat) (s : State) {j : Nat} (hj : j < 4) :
    ((modChan i f s).chans.get j).mode = (s.chans.get j).mode := by
  rw [modChan_chans, quad_get_set_of_lt _ _ _ hj]
  split
  next eq => rw [same, eq]
  next => rfl

theorem modChan_keeps {f : Chan → Chan} (same : ∀ c, (f c).mode = c.mode) (i : Nat) (s : State) :
    Keeps s (modChan i f s) := by
  have modes : ∀ j < 4, ((modChan i f s).chans.get j).mode = (s.chans.get j).mode := fun _ => modChan_mode same i s
  exact .of (by simpa [Passes, PassesRecords] using .inr modes)

theorem modReading_keeps (i : Nat) (f : Reading → Reading) (s : State) : Keeps s (modReading i f s) := .of (by simp [Passes, PassesRecords])

theorem modLine_line (i : Nat) (f : DriveLine → DriveLine) (s : State) {j : Nat} (hj : j < 4) :
    (modLine i f s).dlu.lines.get j = if j = i then f (s.dlu.lines.get j) else s.dlu.lines.get j := by
  rw [modLine_dlu, quad_get_set_of_lt _ _ _ hj]
  split
  next eq => rw [eq]
  next => rfl

/-- An update of a drive line that touches neither the drive nor the brake. -/
theorem modLine_keeps {f : DriveLine → DriveLine} (enable : ∀ l, (f l).enable = l.enable)
    (released : ∀ l, (f l).released = l.released) (i : Nat) (s : State) : Keeps s (modLine i f s) := by
  have enables : ∀ j < 4, ((modLine i f s).dlu.lines.get j).enable = (s.dlu.lines.get j).enable := fun j hj => by
    rw [modLine_line i f s hj]
    split <;> simp [enable]
  have releases : ∀ j < 4, ((modLine i f s).dlu.lines.get j).released = (s.dlu.lines.get j).released := fun j hj => by
    rw [modLine_line i f s hj]
    split <;> simp [released]
  have brakes : Goes BrakesSafe s (modLine i f s) := brakesSafe_of_same enables releases
  have offs : Goes OffWithoutDrive s (modLine i f s) := offWithoutDrive_of_same enables (by simp)
  have drives : Goes DrivesGated s (modLine i f s) :=
    drivesGated_of_same (by simp) (by simp) (by simp) (by simp) fun j hj on => enables j hj ▸ on
  exact .of (by simp [Passes, PassesRecords, brakes, offs, drives])

/-- A brake changed where it is set or its drive is on. -/
theorem modBrake_keeps {f : DriveLine → DriveLine} (enable : ∀ l, (f l).enable = l.enable)
    (released : ∀ l, (f l).released = true → l.released = true ∨ l.enable = true) (i : Nat) (s : State) :
    Keeps s (modLine i f s) := by
  have enables : ∀ j < 4, ((modLine i f s).dlu.lines.get j).enable = (s.dlu.lines.get j).enable := fun j hj => by
    rw [modLine_line i f s hj]
    split <;> simp [enable]
  have offs : Goes OffWithoutDrive s (modLine i f s) := offWithoutDrive_of_same enables (by simp)
  have drives : Goes DrivesGated s (modLine i f s) :=
    drivesGated_of_same (by simp) (by simp) (by simp) (by simp) fun j hj on => enables j hj ▸ on
  suffices brakes : Goes BrakesSafe s (modLine i f s) from .of (by simp [Passes, PassesRecords, brakes, offs, drives])
  intro safe j hj open_
  rw [enables j hj]
  rw [modLine_line i f s hj] at open_
  split at open_
  · exact (released _ open_).elim (safe j hj) id
  · exact safe j hj open_

theorem releaseBrake_keeps (i : Nat) (s : State) : Keeps s (releaseBrake i s) :=
  modBrake_keeps (f := fun l => { l with released := l.released || ((s.cfg.chan.get i).brake && l.enable) }) (fun _ => rfl)
    (fun _ open_ => by simp at open_; tauto) i s

theorem releaseBrakes_keeps (s : State) : Keeps s (releaseBrakes s) := .foldl (fun u i => releaseBrake_keeps i u) _ s

theorem setBrakes_keeps (s : State) : Keeps s (setBrakes s) :=
  .foldl (fun u i => modBrake_keeps (f := fun l => { l with released := false }) (fun _ => rfl)
    (fun _ open_ => by simp at open_) i u) _ s

/-- A request for a mode finds no channel whose drive is off. -/
theorem requestMode_keeps (m : Mode) (i : Nat) (s : State) : Keeps s (requestMode m i s) := by
  suffices offs : Goes OffWithoutDrive s (requestMode m i s) from .of (by simp [Passes, PassesRecords, offs])
  intro off j hj offj
  simp only [requestMode_frame] at offj
  have unchanged : (requestMode m i s).chans.get j = s.chans.get j := by
    unfold requestMode
    split
    next => rfl
    next on =>
      dsimp only
      split
      next => rfl
      next =>
        rw [modChan_chans, quad_get_set_of_lt _ _ _ hj, if_neg]
        rintro rfl
        exact on offj
  rw [unchanged]
  exact off j hj offj

theorem requestByPlayer_keeps (m : Mode) (i : Nat) (s : State) : Keeps s (requestByPlayer m i s) := by
  unfold requestByPlayer
  split
  next => exact .refl s
  next => exact .refl s
  next => exact requestMode_keeps m i s

theorem requestEach_keeps (m : Mode) (is : List Nat) (s : State) : Keeps s (requestEach m is s) :=
  .foldl (fun u i => requestByPlayer_keeps m i u) is s

theorem stopAll_keeps (s : State) : Keeps s (stopAll s) :=
  .foldl (fun u i => .ite (fun _ => .refl u) fun _ => requestMode_keeps .stop i u) _ s

theorem holdAll_keeps (s : State) : Keeps s (holdAll s) :=
  .foldl (fun u i => .ite (fun _ => .refl u) fun _ => requestByPlayer_keeps .hold i u) _ s

theorem enterOff_mode (i : Nat) (s : State) {j : Nat} (hj : j < 4) :
    ((enterOff i s).chans.get j).mode = if j = i then .off else (s.chans.get j).mode := by
  unfold enterOff
  by_cases off : (s.chans.get i).mode = .off
  · rw [if_pos off]
    split
    next eq => rw [eq, off]
    next => rfl
  · rw [if_neg off, (modReading_frame _ _ _).2.2.2.1, modChan_chans, quad_get_set_of_lt _ _ _ hj]
    split <;> rfl

theorem driveOff_line (i : Nat) (s : State) {j : Nat} (hj : j < 4) :
    (driveOff i s).dlu.lines.get j = if j = i then offLine (s.dlu.lines.get j) else s.dlu.lines.get j := by
  unfold driveOff
  rw [(enterOff_frame _ _).2.2.2.1, modLine_line _ _ _ hj]
  rfl

theorem driveOff_enable (i : Nat) (s : State) {j : Nat} (hj : j < 4) :
    ((driveOff i s).dlu.lines.get j).enable = true ↔ j ≠ i ∧ (s.dlu.lines.get j).enable = true := by
  rw [driveOff_line i s hj]
  by_cases eq : j = i <;> simp [eq, offLine]

theorem driveOff_keeps (i : Nat) (s : State) : Keeps s (driveOff i s) := by
  have brakes : Goes BrakesSafe s (driveOff i s) := by
    intro safe j hj open_
    rw [driveOff_line i s hj] at open_ ⊢
    split at open_
    next => cases open_
    next ne => simpa [ne] using safe j hj open_
  have offs : Goes OffWithoutDrive s (driveOff i s) := by
    intro off j hj offj
    unfold driveOff at offj ⊢
    rw [enterOff_mode _ _ hj, (modLine_frame _ _ _).2.2.2.1]
    split
    next => rfl
    next ne =>
      rw [(enterOff_frame _ _).2.2.2.1, modLine_line _ _ _ hj, if_neg ne] at offj
      exact off j hj offj
  have on : ∀ j < 4, ((driveOff i s).dlu.lines.get j).enable = true → (s.dlu.lines.get j).enable = true :=
    fun j hj on => ((driveOff_enable i s hj).mp on).2
  exact .of (by simpa [Passes, PassesRecords, brakes, offs] using .inr on)

theorem allDrivesOff_keeps (s : State) : Keeps s (allDrivesOff s) := .foldl (fun u i => driveOff_keeps i u) _ s

/-- A drive that is still on was on before, and its channel is none of the node's. -/
theorem allDrivesOff_enable (s : State) {j : Nat} (hj : j < 4) (on : ((allDrivesOff s).dlu.lines.get j).enable = true) :
    s.cfg.nChans ≤ j ∧ (s.dlu.lines.get j).enable = true := by
  have loop : ∀ (l : List Nat) (u : State), ((l.foldl (fun u i => driveOff i u) u).dlu.lines.get j).enable = true →
      j ∉ l ∧ (u.dlu.lines.get j).enable = true := by
    intro l
    induction l with
    | nil => exact fun u on => ⟨by simp, on⟩
    | cons i l ih =>
      intro u on
      obtain ⟨notLater, on⟩ := ih _ on
      obtain ⟨ne, on⟩ := (driveOff_enable i u hj).mp on
      exact ⟨by simp [ne, notLater], on⟩
  obtain ⟨foreign, on⟩ := loop _ s on
  exact ⟨by simpa [State.channels] using foreign, on⟩

theorem seed_mode (i : Nat) (s : State) {j : Nat} (ne : j ≠ i) (hj : j < 4) :
    ((seed i s).chans.get j).mode = (s.chans.get j).mode := by
  unfold seed
  rw [(modReading_frame _ _ _).2.2.2.1, modChan_chans, quad_get_set_of_lt _ _ _ hj, if_neg ne]

theorem enableAndSeed_keeps {i : Nat} {s : State} (arming : s.ss.safety = .arming) (hi : i < s.cfg.nChans) :
    Keeps s (enableAndSeed i s) := by
  unfold enableAndSeed
  refine .ite (fun _ => .refl s) fun _ => ?_
  have line : ∀ j < 4, (seed i (modLine i (fun l => { l with enable := true }) s)).dlu.lines.get j =
      if j = i then { s.dlu.lines.get j with enable := true } else s.dlu.lines.get j := fun j hj => by
    rw [(seed_frame _ _).2.2.2.1, modLine_line _ _ _ hj]
  have brakes : Goes BrakesSafe s (seed i (modLine i (fun l => { l with enable := true }) s)) := by
    intro safe j hj open_
    rw [line j hj] at open_ ⊢
    split
    next => rfl
    next ne => exact safe j hj (by simpa [ne] using open_)
  have offs : Goes OffWithoutDrive s (seed i (modLine i (fun l => { l with enable := true }) s)) := by
    intro off j hj offj
    rw [line j hj] at offj
    by_cases eq : j = i
    · simp [eq] at offj
    · rw [seed_mode _ _ eq hj, (modLine_frame _ _ _).2.2.2.1]
      exact off j hj (by simpa [eq] using offj)
  have drives : Goes DrivesGated s (seed i (modLine i (fun l => { l with enable := true }) s)) := by
    rintro ⟨passages, gated⟩
    refine ⟨passagesSafe_of_eq (by simp) (by simp) (by simp) passages, fun j hj on => ?_⟩
    rw [line j hj] at on
    by_cases eq : j = i
    · simpa [arming, Safety.driven, eq] using hi
    · simpa using gated j hj (by simpa [eq] using on)
  exact .of (by simp [Passes, PassesRecords, brakes, offs, drives])

theorem enableAll_keeps {s : State} (arming : s.ss.safety = .arming) : Keeps s (enableAll s) := by
  refine .foldl_of (fun u => u.ss.safety = .arming ∧ u.cfg = s.cfg) (fun u i hi side => ?_) ⟨arming, rfl⟩
  have below : i < u.cfg.nChans := by
    rw [side.2]
    simpa [State.channels] using hi
  exact ⟨enableAndSeed_keeps side.1 below, by simpa using side⟩

/-! ### The takes -/

theorem takesOf_modTake (id : Nat) (f : Take → Take) (s : State) :
    takesOf (modTake id f s) = (takesOf s).map fun t => if t.id = id then f t else t := by
  simp only [takesOf, modTake_ts]
  induction s.ts.dir with
  | nil => rfl
  | cons e l ih => cases e <;> simp_all

theorem mem_takesOf {s : State} {t : Take} : t ∈ takesOf s ↔ some t ∈ s.ts.dir := by simp [takesOf]

/-- The take that an ID finds stands in the directory and has the ID. -/
theorem findTake_some {s : State} {id : Nat} {t : Take} (found : s.findTake id = some t) : t ∈ takesOf s ∧ t.id = id := by
  obtain ⟨e, he, bound⟩ := List.exists_of_findSome?_eq_some found
  obtain ⟨k, rfl, named⟩ := Option.bind_eq_some_iff.mp bound
  split at named
  next same =>
    obtain rfl := Option.some.inj named
    exact ⟨mem_takesOf.mpr he, same⟩
  next => cases named

/-- In a sound directory an ID names one take. -/
theorem takesOf_unique {s : State} (sound : DirectorySound s) {t k : Take} (ht : t ∈ takesOf s) (hk : k ∈ takesOf s)
    (same : t.id = k.id) : t = k := by
  have ids : ((takesOf s).map (·.id)).Nodup := List.pairwise_map.mpr (sound.2.2.imp And.left)
  exact List.inj_on_of_nodup_map ids ht hk same

/-- A change of one take that leaves its ID and its extent, and keeps its counts within it. -/
theorem modTake_directorySound {id : Nat} {f : Take → Take} {s : State}
    (extent : ∀ t, (f t).id = t.id ∧ (f t).base = t.base ∧ (f t).size = t.size)
    (counts : ∀ t ∈ takesOf s, t.id = id → takeSound t → takeSound (f t)) (sound : DirectorySound s) :
    DirectorySound (modTake id f s) := by
  obtain ⟨length, each, apart⟩ := sound
  have same : ∀ t : Take, (if t.id = id then f t else t).id = t.id ∧ (if t.id = id then f t else t).base = t.base ∧
      (if t.id = id then f t else t).size = t.size := fun t => by
    split
    · exact extent t
    · exact ⟨rfl, rfl, rfl⟩
  refine ⟨by simpa using length, ?_, ?_⟩
  · rw [takesOf_modTake]
    intro k hk
    obtain ⟨t, ht, rfl⟩ := List.mem_map.mp hk
    split
    next named => exact counts t ht named (each t ht)
    next => exact each t ht
  · rw [takesOf_modTake]
    refine List.pairwise_map.mpr (apart.imp fun {a b} h => ?_)
    obtain ⟨aid, abase, asize⟩ := same a
    obtain ⟨bid, bbase, bsize⟩ := same b
    rw [aid, abase, asize, bid, bbase, bsize]
    exact h

/-- A change of a take that leaves what the directory's invariant reads. -/
theorem modTake_keeps {f : Take → Take}
    (same : ∀ t, ((f t).id = t.id ∧ (f t).base = t.base ∧ (f t).size = t.size) ∧ (takeSound t → takeSound (f t)))
    (id : Nat) (s : State) : Keeps s (modTake id f s) := by
  have directory : Goes DirectorySound s (modTake id f s) :=
    modTake_directorySound (fun t => (same t).1) fun t _ _ => (same t).2
  exact .of (by simp [Passes, PassesRecords, directory])

theorem latchRange_keeps (id n : Nat) (s : State) : Keeps s (latchRange id n s) := by
  unfold latchRange
  split
  next =>
    exact .when fun _ => (modTake_keeps (f := fun t => { t with latch := some n }) (fun _ => ⟨⟨rfl, rfl, rfl⟩, fun h => h⟩) id s).trans
      (raise_keeps _ _)
  next => exact .refl s

theorem storeWrite_keeps (p : Nat) (r : Sample) (s : State) : Keeps s { s with ts.store := s.ts.store.write p r } := by
  have store : Goes StoreWf s { s with ts.store := s.ts.store.write p r } := fun wf => Memory.wf_write _ p r wf
  exact .of (by simp [Passes, PassesRecords, store])

theorem storeRecord_keeps (t : Take) (n : Nat) (written : ChanSet) (r : Sample) (s : State) :
    Keeps s (storeRecord t n written r s) :=
  (storeWrite_keeps (t.position n) r s).trans (.when fun _ => latchRange_keeps t.id n _)

theorem holdTake_keeps (id : Nat) (b : Bool) (s : State) : Keeps s (modTake id (fun t => { t with held := b }) s) :=
  modTake_keeps (f := fun t => { t with held := b }) (fun _ => ⟨⟨rfl, rfl, rfl⟩, fun h => h⟩) id s

theorem waterMark_keeps (id : Nat) (s : State) : Keeps s (waterMark id s) := by
  unfold waterMark
  split
  next =>
    exact .when fun _ => .ite (fun _ => (holdTake_keeps id true s).trans (place_keeps _ _)) fun _ =>
      .when fun _ => (holdTake_keeps id false s).trans (place_keeps _ _)
  next => exact .refl s

theorem spendStream_keeps (id : Nat) (s : State) : Keeps s (spendStream id s) := by
  refine modTake_keeps (fun t => ?_) id s
  cases h : t.kind <;> simp [takeSound, h]

/-! ### The passages of the Take Player -/

theorem activityGated_of {s t : State} (park : t.ru.parkPending = s.ru.parkPending)
    (restart : t.cl.restartPending = s.cl.restartPending) (safety : t.ss.safety = s.ss.safety)
    (moves : t.tpr.activity ≠ .idle → s.tpr.activity ≠ .idle ∨ s.ss.safety = .armed) : ActivityGated s → ActivityGated t := by
  rintro ⟨passages, gated⟩
  refine ⟨passagesSafe_of_eq park restart safety passages, fun busy => ?_⟩
  rw [safety]
  exact (moves busy).elim gated id

/-- The state of the Take Player replaced; the activity leaves IDLE in ARMED alone. -/
theorem withTpr_keeps {s : State} {p : Tpr} (moves : p.activity ≠ .idle → s.tpr.activity ≠ .idle ∨ s.ss.safety = .armed) :
    Keeps s { s with tpr := p } := by
  have activity : Goes ActivityGated s { s with tpr := p } := activityGated_of rfl rfl rfl moves
  exact .of (by simp [Passes, PassesRecords, activity])

theorem easeFor_keeps (f : FrameNo) (b : Bool) (s : State) : Keeps s (easeFor f b s) := by
  have pace : Goes PaceSound s (easeFor f b s) := paceSound_of_same ⟨rfl, rfl, rfl, rfl, rfl⟩
  exact .of (by simp [Passes, PassesRecords, pace])

theorem clearLive_keeps (s : State) : Keeps s (clearLive s) := withTpr_keeps .inl

theorem clearPlay_keeps (s : State) : Keeps s (clearPlay s) := withTpr_keeps fun busy => absurd rfl busy

theorem completeCue_keeps (status : Status) (s : State) : Keeps s (completeCue status s) := by
  unfold completeCue
  split
  next => exact (reply_keeps _ _ _ _ s).trans (withTpr_keeps .inl)
  next => exact .refl s

theorem spendPlayed_keeps (s : State) : Keeps s (spendPlayed s) := by
  unfold spendPlayed
  split
  next => exact spendStream_keeps _ s
  next => exact spendStream_keeps _ s
  next => exact .refl s

theorem passageToIdle_keeps (status : Status) (s : State) : Keeps s (passageToIdle status s) := by
  have ended : Keeps s (completeCue status (spendPlayed (holdAll s))) :=
    (holdAll_keeps s).trans ((spendPlayed_keeps _).trans (completeCue_keeps status _))
  refine ended.trans (.trans (.when fun _ => easeFor_keeps _ _ _) ((clearPlay_keeps _).trans (clearLive_keeps _)))

theorem endRecording_keeps (s : State) : Keeps s (endRecording s) := by
  unfold endRecording
  split
  next id _ =>
    exact modTake_keeps (f := fun t => { t with state := if t.length = 0 then .loading else .ready })
      (fun _ => ⟨⟨rfl, rfl, rfl⟩, fun h => h⟩) id s
  next => exact .refl s

theorem forceIdle_keeps (s : State) : Keeps s (forceIdle s) := by
  have played : Keeps s (clearLive (clearPlay (easeFor (s.ft.frame + 1) false (completeCue .stopped (spendPlayed s))))) :=
    (spendPlayed_keeps s).trans ((completeCue_keeps _ _).trans
      ((easeFor_keeps _ _ _).trans ((clearPlay_keeps _).trans (clearLive_keeps _))))
  unfold forceIdle
  cases s.tpr.activity with
  | idle => exact .refl s
  | live => exact (withTpr_keeps fun busy => absurd rfl busy).trans (clearLive_keeps _)
  | recording =>
    exact (endRecording_keeps s).trans ((withTpr_keeps fun busy => absurd rfl busy).trans (clearLive_keeps _))
  | cueing | cued | playing | easing => exact played

theorem modLive_keeps (i : Nat) (f : LiveChan → LiveChan) (s : State) : Keeps s (modLive i f s) := withTpr_keeps .inl

theorem enterLive_keeps (i : Nat) (s : State) : Keeps s (enterLive i s) :=
  (withTpr_keeps (p := { s.tpr with liveSet := s.tpr.liveSet ||| (1#4 <<< i) }) .inl).trans
    ((modLive_keeps i _ _).trans (requestByPlayer_keeps .live i _))

theorem leaveLive_keeps (i : Nat) (s : State) : Keeps s (leaveLive i s) :=
  (withTpr_keeps (p := { s.tpr with liveSet := s.tpr.liveSet &&& ~~~(1#4 <<< i) }) .inl).trans
    ((modLive_keeps i _ _).trans (requestByPlayer_keeps .halt i _))

theorem takeMarks_keeps (id : Nat) (t : Take) (n : Nat) (s : State) : Keeps s (takeMarks id t n s) :=
  (Keeps.foldl (fun u _ => .ite (fun _ => .refl u) fun _ => broadcast_keeps _ u) _ s).trans (withTpr_keeps .inl)

/-! ### The claims list -/

theorem withClaims_keeps {s : State} {l : List Claim} (kept : ClaimsOrdered s → ClaimsOrdered { s with ss.claims := l }) :
    Keeps s { s with ss.claims := l } := by
  have claims : Goes ClaimsOrdered s { s with ss.claims := l } := kept
  exact .of (by simp [Passes, PassesRecords, claims])

theorem subClaims_keeps {s : State} {l : List Claim} (sub : l.Sublist s.ss.claims) : Keeps s { s with ss.claims := l } :=
  withClaims_keeps fun ordered => claimsOrdered_of_sublist s _ ordered sub

theorem setDetail_keeps (o : Nat) (c : Cause) (d : Nat) (s : State) :
    Keeps s { s with ss.claims := setDetail s.ss.claims o c d } :=
  withClaims_keeps fun ⟨length, order⟩ => ⟨by simpa [length_setDetail] using length, pairwise_setDetail _ o c d order⟩

/-- An entry of a new key takes its place in a list with room. -/
theorem insertClaim_keeps {s : State} {e : Claim} (absent : findClaim s.ss.claims e.origin e.cause = none)
    (room : s.ss.claims.length < 32) : Keeps s { s with ss.claims := insertClaim e s.ss.claims } := by
  refine withClaims_keeps fun ⟨_, order⟩ => ⟨?_, pairwise_insertClaim e _ order absent⟩
  simpa [length_insertClaim, Config.claimsSize] using room

/-! ### The passages of the safety state -/

theorem completeArm_keeps (status : Status) (s : State) : Keeps s (completeArm status s) := by
  unfold completeArm
  split
  next w _ => exact (reply_keeps w codeArm status .none s).trans (.of (by simp [Passes, PassesRecords]))
  next => exact .refl s

theorem completeDisarm_keeps (s : State) : Keeps s (completeDisarm s) := by
  unfold completeDisarm
  split
  next w _ => exact (reply_keeps w codeDisarm .done .none s).trans (.of (by simp [Passes, PassesRecords]))
  next => exact .refl s

/-- No PARK and no RESTART is pending outside DISARMED and FAULTED. -/
theorem none_pending_of_passagesSafe {s : State} (passages : PassagesSafe s) (disarmed : s.ss.safety ≠ .disarmed)
    (faulted : s.ss.safety ≠ .faulted) : s.ru.parkPending = false ∧ s.cl.restartPending = false := by
  obtain ⟨park, restart⟩ := passages
  refine ⟨Bool.eq_false_iff.mpr fun h => disarmed (park h), Bool.eq_false_iff.mpr fun h => ?_⟩
  exact (restart h).elim disarmed faulted

/-- A state without a pending PARK or RESTART has safe passages. -/
theorem passagesSafe_of_none_pending {t : State} (park : t.ru.parkPending = false) (restart : t.cl.restartPending = false) :
    PassagesSafe t := by
  simp [PassagesSafe, park, restart]

/-- The node moves from a driven state to another one, or arms: no passage is pending then, and no drive comes on. -/
theorem drivesGated_of_driven {s t : State} (passages : PassagesSafe s → PassagesSafe t)
    (driven : t.ss.safety.driven = true) (chans : t.cfg.nChans = s.cfg.nChans)
    (on : ∀ i < 4, (t.dlu.lines.get i).enable = true → (s.dlu.lines.get i).enable = true) :
    DrivesGated s → DrivesGated t := by
  rintro ⟨safe, gated⟩
  exact ⟨passages safe, fun i hi ti => ⟨driven, chans ▸ (gated i hi (on i hi ti)).2⟩⟩

/-- Where no passage can be pending, none is after an operation that leaves both flags. -/
theorem passagesSafe_of_left {s t : State} (park : t.ru.parkPending = s.ru.parkPending)
    (restart : t.cl.restartPending = s.cl.restartPending) (disarmed : s.ss.safety ≠ .disarmed)
    (faulted : s.ss.safety ≠ .faulted) (safe : PassagesSafe s) : PassagesSafe t := by
  obtain ⟨noPark, noRestart⟩ := none_pending_of_passagesSafe safe disarmed faulted
  exact passagesSafe_of_none_pending (park.trans noPark) (restart.trans noRestart)

theorem enterStopping_keeps {s : State} (moving : s.ss.safety.canStop = true) : Keeps s (enterStopping s) := by
  have disarmed : s.ss.safety ≠ .disarmed := fun h => by simp [h, Safety.canStop] at moving
  have faulted : s.ss.safety ≠ .faulted := fun h => by simp [h, Safety.canStop] at moving
  have passages : PassagesSafe s → PassagesSafe (enterStopping s) :=
    passagesSafe_of_left (by simp) (by simp) disarmed faulted
  refine ⟨?records, drivesGated_of_driven passages ?_ (by simp) (by simp), fun gated => ⟨passages gated.1, fun busy => ?_⟩⟩
  case records =>
    have stopped : KeepsRecords s { s with ss.safety := .stopping, ss.timer := none } :=
      .of (by simp [PassesRecords])
    exact stopped.trans
      ((completeArm_keeps _ _).trans ((forceIdle_keeps _).trans (stopAll_keeps _))).toKeepsRecords
  · rw [enterStopping_ss]
    rfl
  · exact absurd (enterStopping_activity s) busy

theorem stopIfMoving_keeps (s : State) : Keeps s (stopIfMoving s) := .when fun moving => enterStopping_keeps moving

theorem enterSecuring_keeps {s : State}
    (still : s.ss.safety = .stopping ∨ s.ss.safety = .armed ∧ s.tpr.activity = .idle) : Keeps s (enterSecuring s) := by
  have disarmed : s.ss.safety ≠ .disarmed := fun h => by simp [h] at still
  have faulted : s.ss.safety ≠ .faulted := fun h => by simp [h] at still
  have entered : Keeps s { s with ss := { s.ss with safety := .securing, timer := some { phase := .set, frames := s.cfg.brakeSet } } } := by
    refine .of_gates (drivesGated_of_driven (passagesSafe_of_left (s := s) rfl rfl disarmed faulted) rfl rfl (by simp))
      (fun gated => ⟨passagesSafe_of_left (s := s) rfl rfl disarmed faulted gated.1, fun busy => ?_⟩)
      (by simp [PassesRecords])
    rcases still with stopping | ⟨_, idle⟩
    · simpa [stopping] using gated.2 busy
    · exact absurd idle busy
  exact entered.trans (setBrakes_keeps _)

theorem clearFaultOff_keeps (s : State) : Keeps s (clearFaultOff s) :=
  .of (by simp [Passes, PassesRecords, clearFaultOff])

theorem enterDisarmed_safety (s : State) : (enterDisarmed s).ss.safety = .disarmed := by simp [enterDisarmed]

theorem enterDisarmed_activity (s : State) : (enterDisarmed s).tpr.activity = .idle := by
  simp [enterDisarmed, forceIdle_activity]

theorem enterDisarmed_enable (s : State) (i : Nat) :
    ((enterDisarmed s).dlu.lines.get i).enable = ((allDrivesOff s).dlu.lines.get i).enable := by
  simp [enterDisarmed, clearFaultOff]

theorem enterDisarmed_keeps (s : State) : Keeps s (enterDisarmed s) := by
  have passages : PassagesSafe (enterDisarmed s) := ⟨fun _ => enterDisarmed_safety s, fun _ => .inl (enterDisarmed_safety s)⟩
  refine ⟨?records, fun gated => ⟨passages, fun i hi on => ?_⟩, fun gated => ⟨passages, fun busy => ?_⟩⟩
  case records =>
    have idled : Keeps s (completeDisarm (completeArm .stopped (forceIdle { allDrivesOff s with ss.timer := none }))) :=
      (allDrivesOff_keeps s).trans
        (.trans (.of (by simp [Passes, PassesRecords])) ((forceIdle_keeps _).trans ((completeArm_keeps _ _).trans (completeDisarm_keeps _))))
    exact idled.toKeepsRecords.trans (.trans (.of (by simp [PassesRecords])) (clearFaultOff_keeps _).toKeepsRecords)
  · rw [enterDisarmed_enable] at on
    obtain ⟨foreign, on⟩ := allDrivesOff_enable s hi on
    exact absurd (gated.2 i hi on).2 (not_lt.mpr foreign)
  · exact absurd (enterDisarmed_activity s) busy

theorem estopCut_keeps (s : State) : Keeps s (estopCut s) := .when fun _ => enterDisarmed_keeps s

theorem refuseClaim_keeps (s : State) : Keeps s (refuseClaim s) :=
  .trans (.of (by simp [Passes, PassesRecords])) ((raise_keeps _ _).trans (stopIfMoving_keeps _))

/-! ### Own and remote claims -/

theorem afterOwnClaim_keeps (c : Cause) (s : State) : Keeps s (afterOwnClaim c s) :=
  .ite (fun _ => estopCut_keeps s) fun _ => stopIfMoving_keeps s

theorem addOwn_keeps {c : Cause} {s : State} (absent : findClaim s.ss.claims s.cfg.station c = none)
    (room : s.ss.claims.length < 32) (d : Nat) : Keeps s (addOwn c d s) :=
  (insertClaim_keeps absent room).trans ((broadcast_keeps _ _).trans (recomposeRoll_keeps _))

theorem findClaim_sublist {l k : List Claim} {o : Nat} {c : Cause} (sub : l.Sublist k) (absent : findClaim k o c = none) :
    findClaim l o c = none := by
  rw [findClaim_none] at absent ⊢
  exact fun e he => absent e (sub.subset he)

theorem raiseOwn_keeps (c : Cause) (d : Nat) (s : State) : Keeps s (raiseOwn c d s) := by
  refine .ite (fun _ => .refl s) fun _ => ?_
  cases stands : findClaim s.ss.claims s.cfg.station c with
  | some e =>
    exact .ite (fun _ => .refl s) fun _ => (setDetail_keeps _ c d s).trans ((broadcast_keeps _ _).trans (recomposeRoll_keeps _))
  | none =>
    refine .ite (fun room => (addOwn_keeps stands room d).trans (afterOwnClaim_keeps c _)) fun _ => ?_
    have sub := sublist_removeLastRemote s.cfg.station s.ss.claims
    refine .when fun room => (subClaims_keeps sub).trans ?_
    exact (addOwn_keeps (s := { s with ss.claims := removeLastRemote s.cfg.station s.ss.claims })
      (findClaim_sublist sub stands) room d).trans
      ((refuseClaim_keeps _).trans (afterOwnClaim_keeps c _))

theorem raiseFiltered_keeps (c : Cause) (d : Nat) (s : State) : Keeps s (raiseFiltered c d s) := by
  unfold raiseFiltered
  split
  next => exact .when fun _ => raiseOwn_keeps c d s
  next => exact raiseOwn_keeps c d s

theorem withdrawOwn_keeps (c : Cause) (s : State) : Keeps s (withdrawOwn c s) := by
  unfold withdrawOwn
  split
  next => exact (subClaims_keeps List.filter_sublist).trans ((broadcast_keeps _ _).trans (recomposeRoll_keeps _))
  next => exact .refl s

theorem remoteClaim_keeps (o : Nat) (c : Cause) (d : Nat) (s : State) : Keeps s (remoteClaim o c d s) := by
  unfold remoteClaim
  cases stands : findClaim s.ss.claims o c with
  | some _ => exact setDetail_keeps o c d s
  | none =>
    exact .ite (fun room => (insertClaim_keeps (e := { origin := o, cause := c, detail := d, latched := false }) stands room).trans
      (stopIfMoving_keeps _)) fun _ => refuseClaim_keeps s

theorem raisePeer_keeps (s : State) : Keeps s (raisePeer s) := by
  unfold raisePeer
  split
  next => exact raiseOwn_keeps _ _ s
  next => exact .refl s

/-! ### The roster -/

theorem mem_insertEntry (e k : RosterEntry) (l : List RosterEntry) : k ∈ insertEntry e l ↔ k = e ∨ k ∈ l := by
  induction l with
  | nil => simp [insertEntry]
  | cons d l ih =>
    rw [insertEntry]
    split
    next => simp
    next => simp only [List.mem_cons, ih]; tauto

theorem length_insertEntry (e : RosterEntry) (l : List RosterEntry) : (insertEntry e l).length = l.length + 1 := by
  induction l with
  | nil => rfl
  | cons d l ih =>
    rw [insertEntry]
    split
    next => rfl
    next => simp [ih]

/-- A station that is not in the roster takes its place in the order. -/
theorem pairwise_insertEntry {e : RosterEntry} {l : List RosterEntry} (order : l.Pairwise fun a b => a.station < b.station)
    (absent : ∀ d ∈ l, d.station ≠ e.station) : (insertEntry e l).Pairwise fun a b => a.station < b.station := by
  induction l with
  | nil => simp [insertEntry]
  | cons d l ih =>
    obtain ⟨first, rest⟩ := List.pairwise_cons.mp order
    rw [insertEntry]
    split
    next below =>
      refine List.pairwise_cons.mpr ⟨fun k hk => ?_, order⟩
      rcases List.mem_cons.mp hk with rfl | later
      · exact below
      · exact below.trans (first k later)
    next above =>
      refine List.pairwise_cons.mpr ⟨fun k hk => ?_, ih rest fun k hk => absent k (List.mem_cons_of_mem d hk)⟩
      rcases (mem_insertEntry e k l).mp hk with rfl | later
      · exact lt_of_le_of_ne (not_lt.mp above) (absent d (by simp))
      · exact first k later

theorem withRoster_keeps {s : State} {l : List RosterEntry} (kept : RosterSound s → RosterSound { s with ru.roster := l }) :
    Keeps s { s with ru.roster := l } := by
  have roster : Goes RosterSound s { s with ru.roster := l } := kept
  exact .of (by simp [Passes, PassesRecords, roster])

theorem mapRoster_keeps {f : RosterEntry → RosterEntry} (same : ∀ e, (f e).station = e.station) (s : State) :
    Keeps s { s with ru.roster := s.ru.roster.map f } := by
  refine withRoster_keeps fun ⟨peers, length, order, own⟩ => ⟨peers, by simpa using length, ?_, fun e he => ?_⟩
  · exact List.pairwise_map.mpr (order.imp fun h => by simpa [same] using h)
  · obtain ⟨d, hd, rfl⟩ := List.mem_map.mp he
    exact same d ▸ own d hd

theorem filterRoster_keeps (p : RosterEntry → Bool) (s : State) :
    Keeps s { s with ru.roster := s.ru.roster.filter p } :=
  withRoster_keeps fun ⟨peers, length, order, own⟩ =>
    ⟨peers, (List.length_filter_le _ _).trans length, order.filter p, fun e he => own e (List.mem_of_mem_filter he)⟩

theorem reportStation_keeps {station : Nat} {s : State} (other : station ≠ s.cfg.station) :
    Keeps s (reportStation station s) := by
  refine .ite (fun _ => .refl s) fun _ => .ite (fun _ => mapRoster_keeps (fun e => ?_) s) fun unknown => ?_
  · split <;> rfl
  · refine .ite (fun room => withRoster_keeps fun ⟨peers, _, order, own⟩ => ⟨peers, ?_, ?_, fun e he => ?_⟩) fun _ =>
      raise_keeps _ s
    · simpa [length_insertEntry] using room
    · exact pairwise_insertEntry order (by simpa using unknown)
    · rcases (mem_insertEntry _ e _).mp he with rfl | old
      · exact other
      · exact own e old

theorem ageRoster_keeps (s : State) : Keeps s (ageRoster s) :=
  mapRoster_keeps (f := fun e => { e with age := satSucc 255 e.age }) (fun _ => rfl) s

theorem removeAged_keeps (s : State) : Keeps s (removeAged s) := filterRoster_keeps _ s

theorem losePeers_keeps (s : State) : Keeps s (losePeers s) := .when fun _ => raisePeer_keeps s

theorem withSlots_keeps (l : List WatchSlot) (s : State) : Keeps s { s with ru.slots := l } := .of (by simp [Passes, PassesRecords])

theorem expireSlots_keeps (s : State) : Keeps s (expireSlots s) := withSlots_keeps _ s

theorem turnSlots_keeps (g : FrameNo) (s : State) : Keeps s (turnSlots g s) :=
  (withSlots_keeps _ s).trans (expireSlots_keeps _)

theorem takeState_keeps (station : Nat) (d : FrameNo) (f : StateFields) (p : Published) (a : Activity) (s : State) :
    Keeps s (takeState station d f p a s) := by
  have entered := mapRoster_keeps (f := fun e => if e.station = station then
    { e with role := if p = .control then .control else .node, last := some { safety := p, activity := a, take := f.take.toNat } }
    else e) (fun e => by split <;> rfl) s
  exact entered.trans (.trans (.of (by simp [Passes, PassesRecords])) (.when fun _ => raisePeer_keeps _))

theorem endLearning_keeps (s : State) : Keeps s (endLearning s) := .when fun _ => .of (by simp [Passes, PassesRecords])

theorem learnTick_keeps (s : State) : Keeps s (learnTick s) := .ite (fun _ => .of (by simp [Passes, PassesRecords])) fun _ => endLearning_keeps s

theorem placeState_keeps (r : StateReport) (s : State) : Keeps s (placeState r s) := broadcast_keeps _ s

theorem composeState_keeps (before s : State) : Keeps s (composeState before s) := by
  unfold composeState
  cases s.ss.safety with
  | loading | parked => exact .refl s
  | faulted => exact broadcast_keeps _ s
  | disarmed | arming | armed | stopping | securing => exact placeState_keeps _ s

/-! ### Parking and waking -/

theorem beginRound_keeps (late : Bool) (s : State) : Keeps s (beginRound late s) := .of (by simp [Passes, PassesRecords])

theorem freeSensorLine_keeps (s : State) : Keeps s (freeSensorLine s) :=
  .trans (.of (by simp [Passes, PassesRecords])) (.when fun _ => .trans (.of (by simp [Passes, PassesRecords])) (beginRound_keeps true _))

theorem queueSound_nil : QueueSound [] := ⟨Nat.zero_le _, .nil, by simp⟩

theorem queuesSound_of_empty {t : State} (urgent : t.lif.urgent = []) (ordinary : t.lif.ordinary = []) : QueuesSound t := by
  unfold QueuesSound
  simp [urgent, ordinary, queueSound_nil]

/-- A node that is not driven has every drive off. -/
theorem drivesGated_of_not_driven {s t : State} (still : s.ss.safety.driven = false) (passages : PassagesSafe t)
    (on : ∀ i < 4, (t.dlu.lines.get i).enable = true → (s.dlu.lines.get i).enable = true) :
    DrivesGated s → DrivesGated t := by
  rintro ⟨_, gated⟩
  exact ⟨passages, fun i hi ti => absurd (gated i hi (on i hi ti)).1 (by simp [still])⟩

theorem activityGated_of_not_armed {s t : State} (still : s.ss.safety ≠ .armed) (passages : PassagesSafe t)
    (activity : t.tpr.activity = s.tpr.activity) : ActivityGated s → ActivityGated t := by
  rintro ⟨_, gated⟩
  exact ⟨passages, fun busy => absurd (gated (activity ▸ busy)) still⟩

theorem enterParked_keeps {s : State} (pending : s.ru.parkPending = true) : Keeps s (enterParked s) := by
  have passages : PassagesSafe (enterParked s) := passagesSafe_of_none_pending rfl rfl
  have claims : (enterParked s).ss.claims = s.ss.claims := by simp [enterParked]
  have modes : ∀ i < 4, ((enterParked s).chans.get i).mode = (s.chans.get i).mode := by simp [enterParked]
  have pace : Goes PaceSound s (enterParked s) := paceSound_of_same (by constructor <;> simp [enterParked])
  have queues : Goes QueuesSound s (enterParked s) := fun _ => queuesSound_of_empty rfl rfl
  have roster : (enterParked s).ru.roster = s.ru.roster := by simp [enterParked]
  refine ⟨.of (by simp +contextual [PassesRecords, claims, queues, modes, pace, roster]), fun gated => ?_, fun gated => ?_⟩
  · have disarmed := gated.1.1 pending
    exact drivesGated_of_not_driven (by rw [disarmed]; rfl) passages (by simp) gated
  · have disarmed := gated.1.1 pending
    refine activityGated_of_not_armed (by rw [disarmed]; decide) passages ?_ gated
    simp only [enterParked]
    split <;> simp

/-- The pinned entries of valid peers are as many, in order, and each of one of them. -/
theorem pinned_foldl (s : State) (peers : List Nat) (l : List RosterEntry) (each : peers.Nodup)
    (order : l.Pairwise fun a b => a.station < b.station) (apart : ∀ e ∈ l, e.station ∉ peers) :
    let r := peers.foldl (fun r p => insertEntry (s.pinnedEntry p) r) l
    r.length = l.length + peers.length ∧ (r.Pairwise fun a b => a.station < b.station) ∧
      ∀ e, e ∈ r ↔ e ∈ l ∨ ∃ p ∈ peers, e = s.pinnedEntry p := by
  induction peers generalizing l with
  | nil => simpa using order
  | cons p peers ih =>
    obtain ⟨notLater, each⟩ := List.nodup_cons.mp each
    have fresh : ∀ d ∈ l, d.station ≠ (s.pinnedEntry p).station := fun d hd same => apart d hd (by simp [same, State.pinnedEntry])
    obtain ⟨length, sorted, members⟩ := ih (insertEntry (s.pinnedEntry p) l) each (pairwise_insertEntry order fresh)
      fun e he => by
        rcases (mem_insertEntry _ e l).mp he with rfl | old
        · exact notLater
        · exact fun later => apart e old (List.mem_cons_of_mem p later)
    refine ⟨?_, sorted, fun e => ?_⟩
    · simp only [List.foldl_cons, List.length_cons]
      rw [length, length_insertEntry]
      omega
    · simp only [List.foldl_cons]
      rw [members, mem_insertEntry]
      simp only [List.mem_cons, exists_eq_or_imp]
      tauto

theorem pinnedRoster_spec {s : State} (each : s.cfg.peers.Nodup) :
    s.pinnedRoster.length = s.cfg.peers.length ∧ (s.pinnedRoster.Pairwise fun a b => a.station < b.station) ∧
      ∀ e, e ∈ s.pinnedRoster ↔ ∃ p ∈ s.cfg.peers, e = s.pinnedEntry p := by
  simpa [State.pinnedRoster] using pinned_foldl s s.cfg.peers [] each .nil (by simp)

theorem rosterSound_of_pinned {s t : State} (valid : PeersValid t.cfg) (peers : t.cfg = s.cfg)
    (roster : t.ru.roster = s.pinnedRoster) : RosterSound t := by
  obtain ⟨few, each, own⟩ := valid
  rw [peers] at few each own
  obtain ⟨length, order, members⟩ := pinnedRoster_spec each
  refine ⟨⟨peers ▸ few, peers ▸ each, peers ▸ own⟩, ?_, ?_, ?_⟩
  · rw [roster, length]
    exact few.trans (by decide)
  · rwa [roster]
  · rw [roster, peers]
    intro e he
    obtain ⟨p, hp, rfl⟩ := (members e).mp he
    rintro rfl
    exact own hp

theorem wakeNode_keeps {s : State} (parked : s.ss.safety = .parked) : Keeps s (wakeNode s) := by
  have passages {u : State} (disarmed : u.ss.safety = .disarmed) : PassagesSafe u := ⟨fun _ => disarmed, fun _ => .inl disarmed⟩
  refine .trans ?columns (broadcast_keeps _ _)
  case columns =>
    exact
      { claims := fun _ => ⟨Nat.zero_le _, .nil⟩
        queues := fun _ => queuesSound_of_empty rfl rfl
        brakes := brakesSafe_of_same (by simp) (by simp)
        offs := offWithoutDrive_of_same (by simp) (by simp)
        directory := directorySound_of_eq rfl
        store := storeWf_of_eq rfl
        pace := fun ⟨_, _, _, _, _, _, applied⟩ => ⟨Nat.zero_le _, .nil, by simp, by simp, by simp, by simp, applied⟩
        roster := fun ⟨peers, _⟩ => rosterSound_of_pinned (s := s) peers rfl rfl
        drives := drivesGated_of_not_driven (by rw [parked]; rfl) (passages rfl) (by simp)
        activity := activityGated_of_not_armed (by rw [parked]; decide) (passages rfl) rfl }

theorem wakeIfDue_keeps (s : State) : Keeps s (wakeIfDue s) :=
  .when fun due => wakeNode_keeps (by simp [State.wakeDue] at due; exact due.1)

/-! ### The Pace Unit -/

theorem withPu_keeps {s : State} {p : Pu} (kept : PaceSound s → PaceSound { s with pu := p }) : Keeps s { s with pu := p } := by
  have pace : Goes PaceSound s { s with pu := p } := kept
  exact .of (by simp [Passes, PassesRecords, pace])

/-- The Pace Unit's values that the invariant does not read. -/
theorem pacedAside_keeps {s : State} {p : Pu} (same : SamePace s.pu p) : Keeps s { s with pu := p } :=
  withPu_keeps (paceSound_of_same same)

theorem mem_setPend {α : Type} {l : List (FrameNo × α)} {d : FrameNo} {v : α} {e : FrameNo × α} (h : e ∈ setPend l d v) :
    e = (d, v) ∨ e ∈ l := by
  unfold setPend at h
  split at h
  · obtain ⟨k, hk, rfl⟩ := List.mem_map.mp h
    split
    · exact .inl rfl
    · exact .inr hk
  · simp only [List.mem_append, List.mem_singleton] at h
    exact h.symm

theorem getPend_mem {α : Type} {l : List (FrameNo × α)} {d : FrameNo} {v : α} (h : getPend l d = some v) : (d, v) ∈ l := by
  obtain ⟨e, he, rfl⟩ := Option.map_eq_some_iff.mp h
  have same : e.1 = d := by simpa using List.find?_some he
  exact same ▸ List.mem_of_find?_eq_some he

theorem mem_dropPend {α : Type} {l : List (FrameNo × α)} {d : FrameNo} {e : FrameNo × α} (h : e ∈ dropPend l d) : e ∈ l :=
  List.mem_of_mem_filter h

theorem refuseFactor_keeps {v : Nat} (low : 1 ≤ v) (high : v ≤ 16) (d : FrameNo) (s : State) :
    Keeps s (refuseFactor v d s) := by
  refine .trans ?placed (raise_keeps _ _)
  refine withPu_keeps fun ⟨length, apart, entries, floor, pend, rest⟩ => ⟨length, apart, entries, floor, fun p hp => ?_, rest⟩
  rcases mem_setPend hp with rfl | old
  · cases h : getPend s.pu.floorPend d with
    | none => exact ⟨low, high⟩
    | some w =>
      obtain ⟨wlow, whigh⟩ := pend _ (getPend_mem h)
      exact ⟨le_min low wlow, (min_le_left _ _).trans high⟩
  · exact pend p old

theorem takeFactor_keeps (o v : Nat) (d : FrameNo) (s : State) : Keeps s (takeFactor o v d s) := by
  refine .ite (fun _ => .refl s) fun valid => ?_
  obtain ⟨low, high⟩ : 1 ≤ v ∧ v ≤ 16 := by
    simp only [not_or, not_lt, Config.fullPace] at valid
    omega
  refine .ite (fun _ => withPu_keeps fun ⟨length, apart, entries, rest⟩ => ⟨by simpa using length, ?_, ?_, rest⟩) fun absent =>
    .ite (fun _ => .refl s) fun _ => .ite
      (fun room => withPu_keeps fun ⟨_, apart, entries, rest⟩ => ⟨by simpa using room, ?_, ?_, rest⟩)
      fun _ => refuseFactor_keeps low high d s
  · refine List.pairwise_map.mpr (apart.imp fun {a b} h => ?_)
    have same (e : PaceEntry) : (if e.origin = o then { e with pend := setPend e.pend d v } else e).origin = e.origin := by
      split <;> rfl
    rwa [same a, same b]
  · intro e he
    obtain ⟨k, hk, rfl⟩ := List.mem_map.mp he
    obtain ⟨factors, pends⟩ := entries k hk
    split
    · refine ⟨factors, fun p hp => ?_⟩
      rcases mem_setPend hp with rfl | old
      · exact ⟨low, high⟩
      · exact pends p old
    · exact ⟨factors, pends⟩
  · refine List.pairwise_append.mpr ⟨apart, by simp, fun a ha b hb => ?_⟩
    obtain rfl := List.mem_singleton.mp hb
    simp only [List.any_eq_true, beq_iff_eq, not_exists, not_and] at absent
    exact absent a ha
  · intro e he
    rcases List.mem_append.mp he with old | new
    · exact entries e old
    · obtain rfl := List.mem_singleton.mp new
      simp [low, high]

theorem returnFloor_keeps (s : State) : Keeps s (returnFloor s) :=
  .when fun _ => withPu_keeps fun ⟨length, apart, entries, _, rest⟩ => ⟨length, apart, entries, by simp [Config.fullPace], rest⟩

theorem turnFloor_keeps (d : FrameNo) (s : State) : Keeps s (turnFloor d s) := by
  unfold turnFloor
  cases due : getPend s.pu.floorPend d with
  | some v =>
    refine withPu_keeps fun ⟨length, apart, entries, floor, pend, rest⟩ => ⟨length, apart, entries, ?_, ?_, rest⟩
    · obtain ⟨low, high⟩ := pend _ (getPend_mem due)
      exact ⟨le_min floor.1 low, (min_le_left _ _).trans floor.2⟩
    · exact fun p hp => pend p (mem_dropPend hp)
  | none =>
    refine .when fun _ => .trans ?counted (returnFloor_keeps _)
    exact pacedAside_keeps ⟨rfl, rfl, rfl, rfl, rfl⟩

theorem turnEase_keeps (g : FrameNo) (s : State) : Keeps s (turnEase g s) := by
  unfold turnEase
  split
  next => exact pacedAside_keeps ⟨rfl, rfl, rfl, rfl, rfl⟩
  next => exact .refl s

theorem foldl_min_le (l : List Nat) (n : Nat) : l.foldl min n ≤ n := by
  induction l generalizing n with
  | nil => exact le_rfl
  | cons a l ih => exact (ih _).trans (min_le_left n a)

theorem targetPace_le (p : Pu) : p.targetPace ≤ 16 := by
  unfold Pu.targetPace
  split
  next => exact Nat.zero_le _
  next => exact (foldl_min_le _ _).trans (min_le_right _ _)

theorem movePace_le {step target applied : Nat} (ht : target ≤ 16) (ha : applied ≤ 16) : movePace step target applied ≤ 16 := by
  unfold movePace
  split
  next => exact (min_le_left _ _).trans ht
  next =>
    split
    next => exact max_le ht ((Nat.sub_le _ _).trans ha)
    next => exact ha

theorem turnEntry_origin (d : FrameNo) (e : PaceEntry) : (e.turn d).origin = e.origin := by
  unfold PaceEntry.turn
  split <;> rfl

theorem factorOf_range {v f : Nat} (low : 1 ≤ v) (h : factorOf v = some f) : 1 ≤ f ∧ f ≤ 15 := by
  unfold factorOf Config.fullPace at h
  split at h
  next below =>
    obtain rfl := Option.some.inj h
    omega
  next => cases h

/-- The pace entries brought to a frame keep their ranges and their origins. -/
theorem turnEntries_keeps (d : FrameNo) (s : State) :
    Keeps s { s with pu.entries := (s.pu.entries.map (PaceEntry.turn d)).filter fun e => e.factor.isSome || !e.pend.isEmpty } := by
  refine withPu_keeps fun ⟨length, apart, entries, rest⟩ => ⟨?_, ?_, fun e he => ?_, rest⟩
  · exact (List.length_filter_le _ _).trans (by simpa using length)
  · refine (List.pairwise_map.mpr (apart.imp fun h => ?_)).filter _
    rwa [turnEntry_origin, turnEntry_origin]
  · obtain ⟨k, hk, rfl⟩ := List.mem_map.mp (List.mem_of_mem_filter he)
    obtain ⟨factors, pends⟩ := entries k hk
    unfold PaceEntry.turn
    cases due : getPend k.pend d with
    | some v => exact ⟨fun f hf => factorOf_range (pends _ (getPend_mem due)).1 hf, fun p hp => pends p (mem_dropPend hp)⟩
    | none => exact ⟨factors, pends⟩

theorem paceTick_keeps (g : FrameNo) (s : State) : Keeps s (paceTick g s) := by
  have moved (u : State) : Keeps u { u with pu := { u.pu with
      target := u.pu.targetPace, applied := movePace u.cfg.paceStep u.pu.targetPace u.pu.applied } } :=
    withPu_keeps fun ⟨length, apart, entries, floor, pend, _, applied⟩ =>
      ⟨length, apart, entries, floor, pend, targetPace_le _, movePace_le (targetPace_le _) applied⟩
  exact (turnEntries_keeps (g - 1) s).trans ((turnFloor_keeps _ _).trans ((turnEase_keeps g _).trans (moved _)))

/-! ### Cross-limits and zones -/

theorem formRanges_keeps (s : State) : Keeps s (formRanges s) := .of (by simp [Passes, PassesRecords])

theorem raiseCross_keeps (before : List Bool) (s : State) : Keeps s (raiseCross before s) := by
  unfold raiseCross
  split
  next => exact raiseFiltered_keeps _ _ s
  next => exact .refl s

theorem raiseConflict_keeps (s : State) : Keeps s (raiseConflict s) := by
  unfold raiseConflict
  split
  next => exact raiseFiltered_keeps _ _ s
  next => exact .refl s

theorem reportCondition_keeps (c : Cause) (before after : Option Nat) (s : State) :
    Keeps s (reportCondition c before after s) := by
  unfold reportCondition
  split
  next => exact .ite (fun _ => .refl s) fun _ => raiseOwn_keeps _ _ s
  next => exact .ite (fun _ => .refl s) fun _ => withdrawOwn_keeps _ s

theorem reportFactor_keeps (s : State) : Keeps s (reportFactor s) :=
  .ite (fun _ => .refl s) fun _ => .trans (.of (by simp [Passes, PassesRecords])) ((broadcast_keeps _ _).trans (recomposeRoll_keeps _))

theorem changeZones_keeps (f : State → List LineFilter) (s : State) : Keeps s (changeZones f s) :=
  .trans (.of (by simp [Passes, PassesRecords])) ((reportCondition_keeps _ _ _ _).trans (reportFactor_keeps _))

theorem changeEstop_keeps (f : State → List LineFilter) (s : State) : Keeps s (changeEstop f s) :=
  .trans (.of (by simp [Passes, PassesRecords])) (reportCondition_keeps _ _ _ _)

theorem sampleEstop_keeps (l : LineLevels) (s : State) : Keeps s (sampleEstop l s) := changeEstop_keeps _ s

theorem sampleZones_keeps (l : LineLevels) (s : State) : Keeps s (sampleZones l s) := changeZones_keeps _ s

theorem clearZones_keeps (s : State) : Keeps s (clearZones s) := changeZones_keeps _ s

theorem clearEstop_keeps (s : State) : Keeps s (clearEstop s) := changeEstop_keeps _ s

theorem zoneFrameTick_keeps (s : State) : Keeps s (zoneFrameTick s) :=
  .trans (.of (by simp [Passes, PassesRecords])) ((clearEstop_keeps _).trans (clearZones_keeps _))

/-! ### The sensor line -/

theorem raiseStale_keeps (s : State) : Keeps s (raiseStale s) := .ite (fun _ => .refl s) fun _ => raise_keeps _ s

theorem staleTick_keeps (i : Nat) (s : State) : Keeps s (staleTick i s) :=
  (modReading_keeps i _ s).trans (.when fun _ => (raiseStale_keeps _).trans (.when fun _ => raiseFiltered_keeps _ _ _))

theorem staleTicks_keeps (is : List Nat) (s : State) : Keeps s (staleTicks is s) := .foldl (fun u i => staleTick_keeps i u) is s

theorem withSpl_keeps (p : Spl) (s : State) : Keeps s { s with spl := p } := .of (by simp [Passes, PassesRecords])

theorem endRound_keeps (s : State) : Keeps s (endRound s) :=
  .ite (fun _ => (withSpl_keeps _ s).trans (staleTicks_keeps _ _)) fun _ =>
    .when fun _ => (withSpl_keeps _ s).trans (staleTicks_keeps _ _)

theorem pollTick_keeps (s : State) : Keeps s (pollTick s) := by
  unfold pollTick
  split
  next => exact .refl s
  next => exact .refl s
  next => exact (endRound_keeps s).trans (.ite (fun _ => withSpl_keeps _ _) fun _ => beginRound_keeps _ _)

theorem readTakesLineNow_keeps (s : State) : Keeps s (readTakesLineNow s) := .when fun _ => withSpl_keeps _ s

theorem pollNext_keeps (c : Nat) (late : Bool) (s : State) : Keeps s (pollNext c late s) :=
  .ite (fun _ => withSpl_keeps _ s) fun _ => (withSpl_keeps _ s).trans (readTakesLineNow_keeps _)

theorem followCheck_keeps (i : Nat) (s : State) : Keeps s (followCheck i s) :=
  .when fun _ => (modReading_keeps i _ s).trans (.when fun _ => raiseFiltered_keeps _ _ _)

theorem takeFresh_keeps (i : Nat) (st : ReadStatus) (p : Int) (late : Bool) (s : State) : Keeps s (takeFresh i st p late s) :=
  (modReading_keeps i _ s).trans (.ite (fun _ => .refl _) fun _ => followCheck_keeps i _)

theorem takeFail_keeps (i : Nat) (s : State) : Keeps s (takeFail i s) :=
  (modReading_keeps i _ s).trans ((raiseStale_keeps _).trans (raiseFiltered_keeps _ _ _))

theorem completeRead_keeps (status : Status) (data : ReplyData) (s : State) : Keeps s (completeRead status data s) := by
  unfold completeRead
  split
  next => exact (reply_keeps _ _ _ _ s).trans (freeSensorLine_keeps _)
  next => exact .refl s

/-! ### The cursor and the computation -/

theorem retire_keeps (id : Nat) (s : State) : Keeps s (retire id s) := by
  unfold retire
  split
  next t found =>
    dsimp only
    refine .when fun ⟨stream, behind⟩ => .trans ?retired (waterMark_keeps id _)
    suffices directory : DirectorySound s → DirectorySound (modTake id _ s) from
      .of (by simpa [Passes, PassesRecords] using .inl directory)
    intro sound
    refine modTake_directorySound (fun _ => ⟨rfl, rfl, rfl⟩) (fun k hk named soundk => ?_) sound
    obtain ⟨ht, tid⟩ := findTake_some found
    obtain rfl := takesOf_unique sound hk ht (named.trans tid.symm)
    simp only [takeSound, stream] at soundk ⊢
    omega
  next => exact .refl s

theorem underrunOf_keeps (short : Option Take) (s : State) : Keeps s (underrunOf short s) := by
  unfold underrunOf
  split
  next => exact raiseOwn_keeps _ _ s
  next => exact .refl s

theorem raiseUnderrun_keeps (j : Nat) (s : State) : Keeps s (raiseUnderrun j s) := underrunOf_keeps _ s

theorem formCursor_keeps (j : Nat) (s : State) : Keeps s (formCursor j s) := by
  unfold formCursor
  split
  next t _ =>
    refine .when fun _ => .trans ?formed ((takeMarks_keeps t.id t _ _).trans (retire_keeps t.id _))
    exact withTpr_keeps .inl
  next => exact .refl s

/-- A loop that sets each channel of a list to a value of its own. -/
theorem quad_get_foldl_set {α : Type} (f : Nat → α) (l : List Nat) (q : Quad α) {j : Nat} (hj : j < 4) :
    (l.foldl (fun q i => q.set i (f i)) q).get j = if j ∈ l then f j else q.get j := by
  induction l generalizing q with
  | nil => simp
  | cons i l ih =>
    rw [List.foldl_cons, ih, quad_get_set_of_lt _ _ _ hj]
    by_cases later : j ∈ l
    · simp [later]
    · by_cases here : j = i <;> simp [later, here]

theorem computeChannels_chan (j : Nat) (s : State) {i : Nat} (hi : i < 4) :
    (computeChannels j s).chans.get i =
      if i < s.cfg.nChans then (s.chans.get i).compute (s.tickInput j i) else s.chans.get i := by
  unfold computeChannels
  rw [quad_get_foldl_set (fun i => (s.chans.get i).compute (s.tickInput j i)) _ _ hi]
  simp [State.channels]

theorem checkDeviation_mode (inp : TickInput) (c : Chan) : (c.checkDeviation inp).mode = c.mode := by
  unfold Chan.checkDeviation
  split <;> rfl

/-- A computation leaves the mode that the passage from HALT to HOLD gives. -/
theorem compute_mode (inp : TickInput) (c : Chan) : (c.compute inp).mode = c.settleHalt.mode := by
  unfold Chan.compute
  rw [checkDeviation_mode]
  cases mode : c.settleHalt.mode <;> exact mode

theorem settleHalt_of_ne {c : Chan} (ne : c.mode ≠ .halt) : c.settleHalt = c := if_neg fun h => ne h.1

theorem computeChannels_keeps (j : Nat) (s : State) : Keeps s (computeChannels j s) := by
  suffices offs : Goes OffWithoutDrive s (computeChannels j s) from .of (by simp [Passes, PassesRecords, offs])
  intro off i hi offi
  have mode := off i hi (by simpa using offi)
  rw [computeChannels_chan j s hi]
  split
  next => rw [compute_mode, settleHalt_of_ne (by simp [mode]), mode]
  next => exact mode

theorem handHistory_keeps (s : State) : Keeps s (handHistory s) := .foldl (fun u i => modReading_keeps i _ u) _ s

theorem sendRecords_keeps (s : State) : Keeps s (sendRecords s) :=
  .of (by simp [Passes, PassesRecords, sendRecords])

/-! ### The writes of a tick -/

/-- A latched range changes the LATCH of takes alone. -/
theorem mem_takesOf_storeRecord {t k : Take} {n : Nat} {w : ChanSet} {r : Sample} {s : State}
    (h : k ∈ takesOf (storeRecord t n w r s)) : ∃ k0 ∈ takesOf s, k = { k0 with latch := k.latch } := by
  have same : takesOf { s with ts.store := s.ts.store.write (t.position n) r } = takesOf s := rfl
  unfold storeRecord latchRange at h
  dsimp only at h
  have untouched (hk : k ∈ takesOf s) : ∃ k0 ∈ takesOf s, k = { k0 with latch := k.latch } := ⟨k, hk, rfl⟩
  split at h
  · split at h
    · split at h
      · obtain ⟨k0, hk0, rfl⟩ := List.mem_map.mp (takesOf_modTake _ _ _ ▸ (show k ∈ takesOf (modTake _ _ _) from h))
        refine ⟨k0, hk0, ?_⟩
        split <;> rfl
      · exact untouched h
    · exact untouched h
  · exact untouched h

/-- One more record of a recording keeps within its extent. -/
theorem countRecord_directorySound {s : State} {t : Take} {n : Nat} {w : ChanSet} {r : Sample} (ht : t ∈ takesOf s)
    (room : t.length < t.size) (sound : DirectorySound s) :
    DirectorySound (modTake t.id (fun t => { t with length := t.length + 1 }) (storeRecord t n w r s)) := by
  refine modTake_directorySound (fun _ => ⟨rfl, rfl, rfl⟩) (fun k hk named soundk => ?_)
    ((storeRecord_keeps t n w r s).directory sound)
  obtain ⟨k0, hk0, eq⟩ := mem_takesOf_storeRecord hk
  have id0 : k0.id = t.id := by rw [eq] at named; exact named
  obtain rfl := takesOf_unique sound hk0 ht id0
  obtain ⟨size, extent, counts⟩ := soundk
  rw [eq] at size extent counts ⊢
  refine ⟨size, extent, ?_⟩
  dsimp only at counts ⊢
  split at counts
  · exact room
  · exact counts

theorem countRecord_keeps {s : State} {t : Take} (ht : t ∈ takesOf s) (room : t.length < t.size) (n : Nat) (w : ChanSet)
    (r : Sample) : Keeps s (modTake t.id (fun t => { t with length := t.length + 1 }) (storeRecord t n w r s)) := by
  refine .of_takes ?_ (storeRecord_wf t n w r s) fun directory store => by simp [Passes, PassesRecords, directory, store]
  exact countRecord_directorySound ht room

theorem recordingWrite_keeps (s : State) : Keeps s (recordingWrite s) := by
  unfold recordingWrite
  split
  next t busy found =>
    obtain ⟨id, _, found⟩ := Option.bind_eq_some_iff.mp found
    refine .when fun ⟨_, room⟩ => .trans (countRecord_keeps (findTake_some found).1 room _ _ _) (.when fun _ => ?full)
    refine (endRecording_keeps _).trans (.trans ?live (raise_keeps _ _))
    exact withTpr_keeps fun _ => .inl (by simp [busy])
  next => exact .refl s

theorem punchWrite_keeps (s : State) : Keeps s (punchWrite s) := by
  have noted (u : State) (n : Nat) : Keeps u { u with tpr.punchIdx := some n } := withTpr_keeps .inl
  unfold punchWrite
  split
  next => exact .when fun _ => .trans (.when fun _ => storeRecord_keeps _ _ _ _ s) (noted _ _)
  next => exact .refl s

theorem raiseDeviation_keeps (s : State) : Keeps s (raiseDeviation s) := by
  unfold raiseDeviation
  split
  next => exact raiseOwn_keeps _ _ s
  next => exact .refl s

theorem raiseLimits_keeps (s : State) : Keeps s (raiseLimits s) :=
  .foldl (fun u _ => .trans (.when fun _ => raiseFiltered_keeps _ _ u) (.when fun _ => raiseFiltered_keeps _ _ _)) _ s

/-! ### The tests made after a computation -/

theorem cueTest_keeps (s : State) : Keeps s (cueTest s) := by
  unfold cueTest
  split
  next busy _ =>
    refine .ite (fun _ => passageToIdle_keeps _ s) fun _ => .when fun _ => ?_
    refine .trans ?cued ((requestEach_keeps _ _ _).trans (completeCue_keeps _ _))
    exact withTpr_keeps fun _ => .inl (by simp [busy])
  next => exact .refl s

theorem endOfTake_keeps (s : State) : Keeps s (endOfTake s) := by
  unfold endOfTake
  split
  next =>
    dsimp only
    split
    next => exact .when fun _ => passageToIdle_keeps _ s
    next => exact .when fun _ => passageToIdle_keeps _ s
    next => exact .refl s
  next => exact .refl s

theorem endOfLive_keeps (s : State) : Keeps s (endOfLive s) :=
  .when fun _ => (withTpr_keeps fun busy => absurd rfl busy).trans (clearLive_keeps _)

theorem playerTests_keeps (s : State) : Keeps s (playerTests s) :=
  (cueTest_keeps s).trans ((endOfTake_keeps _).trans (endOfLive_keeps _))

theorem stoppingTest_keeps (s : State) : Keeps s (stoppingTest s) := .when fun ⟨stopping, _⟩ => enterSecuring_keeps (.inl stopping)

theorem computeTick_keeps (j : Nat) (s : State) : Keeps s (computeTick j s) := by
  have computed (u : State) : Keeps u (sendRecords (handHistory (computeChannels j u))) :=
    (computeChannels_keeps j u).trans ((handHistory_keeps _).trans (sendRecords_keeps _))
  have written (u : State) : Keeps u (punchWrite (if j = 0 then recordingWrite u else u)) :=
    .trans (.when fun _ => recordingWrite_keeps u) (punchWrite_keeps _)
  have raised (short : Option Take) (u : State) : Keeps u (underrunOf short (raiseLimits (raiseDeviation u))) :=
    (raiseDeviation_keeps u).trans ((raiseLimits_keeps _).trans (underrunOf_keeps _ _))
  unfold computeTick
  split
  next => exact .refl s
  next => exact .refl s
  next =>
    exact (formCursor_keeps j s).trans ((computed _).trans ((written _).trans ((raised _ _).trans
      ((playerTests_keeps _).trans (.when fun _ => stoppingTest_keeps _)))))

/-! ### What a frame tick brings to its end -/

theorem linkQuietAtEight_keeps (s : State) : Keeps s (linkQuietAtEight s) := .when fun _ => raise_keeps _ s

/-- The counts of the link that no invariant reads. -/
theorem withLif_keeps {s : State} {l : Lif} (urgent : l.urgent = s.lif.urgent) (ordinary : l.ordinary = s.lif.ordinary) :
    Keeps s { s with lif := l } :=
  .of (by simp [Passes, PassesRecords, urgent, ordinary])

theorem countQuiet_keeps (s : State) : Keeps s (countQuiet s) := by
  unfold countQuiet
  split
  next => exact .refl s
  next => exact .refl s
  next => exact (withLif_keeps (by rfl) (by rfl)).trans (linkQuietAtEight_keeps _)

theorem countDup_keeps (s : State) : Keeps s (countDup s) := withLif_keeps rfl rfl

/-- The values of the Safety Supervisor beside the safety state and the list. -/
theorem withSs_keeps {s : State} {p : Ss} (safety : p.safety = s.ss.safety) (claims : p.claims = s.ss.claims) :
    Keeps s { s with ss := p } :=
  .of (by simp [Passes, PassesRecords, claims, safety])

theorem clearOverflow_keeps (s : State) : Keeps s (clearOverflow s) := .when fun _ => withSs_keeps rfl rfl

theorem countOverflow_keeps (s : State) : Keeps s (countOverflow s) :=
  .when fun _ => (withSs_keeps (by rfl) (by rfl)).trans (clearOverflow_keeps _)

theorem rollCall_keeps (s : State) : Keeps s (rollCall s) := .when fun _ => broadcast_keeps _ s

theorem endEnable_keeps (s : State) : Keeps s (endEnable s) :=
  .when fun _ => (withSs_keeps (by rfl) (by rfl)).trans (releaseBrakes_keeps _)

theorem endRelease_keeps (s : State) : Keeps s (endRelease s) := by
  refine .when fun ⟨arming, _⟩ => .trans ?armed (completeArm_keeps _ _)
  have passages {t : State} (park : t.ru.parkPending = s.ru.parkPending) (restart : t.cl.restartPending = s.cl.restartPending) :
      PassagesSafe s → PassagesSafe t :=
    passagesSafe_of_left park restart (by simp [arming]) (by simp [arming])
  exact .of_gates (drivesGated_of_driven (passages rfl rfl) rfl rfl (by simp))
    (fun gated => ⟨passages rfl rfl gated.1, fun _ => rfl⟩) (by simp [PassesRecords])

theorem endBrakeSet_keeps (s : State) : Keeps s (endBrakeSet s) := .when fun _ => enterDisarmed_keeps s

theorem brakeTick_keeps (s : State) : Keeps s (brakeTick s) := by
  unfold brakeTick
  split
  next =>
    refine .trans ?counted ((endBrakeSet_keeps _).trans ((endRelease_keeps _).trans (endEnable_keeps _)))
    exact withSs_keeps rfl rfl
  next => exact .refl s

theorem parkIfDue_keeps (s : State) : Keeps s (parkIfDue s) := .when fun ⟨pending, _⟩ => enterParked_keeps pending

theorem countPark_keeps (s : State) : Keeps s (countPark s) := by
  refine .when fun _ => .trans ?counted (parkIfDue_keeps _)
  exact .of (by simp [Passes, PassesRecords])

/-- What a start of the node, or its RESET, leaves: the blocks that the invariants read at their RESET values. -/
structure Restarted (t : State) : Prop where
  claims : t.ss.claims = []
  urgent : t.lif.urgent = []
  ordinary : t.lif.ordinary = []
  lines : t.dlu.lines = Quad.fill DriveLine.reset
  chans : t.chans = Quad.fill Chan.reset
  pu : t.pu = Pu.reset
  park : t.ru.parkPending = false
  restart : t.cl.restartPending = false
  activity : t.tpr.activity = .idle

theorem keeps_of_restarted {s t : State} (fresh : Restarted t) (directory : DirectorySound s → DirectorySound t)
    (store : StoreWf s → StoreWf t) (roster : RosterSound s → RosterSound t) : Keeps s t := by
  have off (i : Nat) : (t.dlu.lines.get i).enable = false := by rw [fresh.lines, quad_get_fill]; rfl
  have set (i : Nat) : (t.dlu.lines.get i).released = false := by rw [fresh.lines, quad_get_fill]; rfl
  have passages : PassagesSafe t := passagesSafe_of_none_pending fresh.park fresh.restart
  refine ⟨⟨fun _ => ?claims, fun _ => queuesSound_of_empty fresh.urgent fresh.ordinary, fun _ i _ open_ => ?brakes,
    fun _ i _ _ => ?offs, directory, store, fun _ => ?pace, roster⟩, fun _ => ⟨passages, fun i _ on => ?drives⟩,
    fun _ => ⟨passages, fun busy => absurd fresh.activity busy⟩⟩
  case claims => simp [ClaimsOrdered, fresh.claims]
  case brakes => rw [set i] at open_; cases open_
  case offs => rw [fresh.chans, quad_get_fill]; rfl
  case pace => simp [PaceSound, fresh.pu, Pu.reset]
  case drives => rw [off i] at on; cases on

theorem enterLoading_keeps (s : State) : Keeps s (enterLoading s) :=
  keeps_of_restarted ⟨rfl, rfl, rfl, rfl, rfl, rfl, rfl, rfl, rfl⟩ (directorySound_of_eq rfl) (storeWf_of_eq rfl)
    fun ⟨peers, _⟩ => ⟨peers, Nat.zero_le _, .nil, by simp [enterLoading, State.reset, Ru.reset]⟩

theorem restartIfDue_keeps (s : State) : Keeps s (restartIfDue s) := .when fun _ => enterLoading_keeps s

theorem countRestart_keeps (s : State) : Keeps s (countRestart s) := by
  refine .when fun _ => .trans ?counted (restartIfDue_keeps _)
  exact .of (by simp [Passes, PassesRecords])

/-! ### START and ABORT -/

theorem leaveLives_keeps (is : List Nat) (s : State) : Keeps s (is.foldl (fun s i => leaveLive i s) s) :=
  .foldl (fun u i => leaveLive_keeps i u) is s

theorem enterLives_keeps (is : List Nat) (s : State) : Keeps s (is.foldl (fun s i => enterLive i s) s) :=
  .foldl (fun u i => enterLive_keeps i u) is s

theorem endPunch_keeps (s : State) : Keeps s (endPunch s) := by
  have cleared (u : State) : Keeps u { u with tpr := { u.tpr with punch := false, punchMask := 0, punchIdx := none } } :=
    withTpr_keeps .inl
  exact .when fun _ => (leaveLives_keeps _ s).trans (cleared _)

theorem abortTake_keeps (s : State) : Keeps s (abortTake s) := by
  unfold abortTake
  split
  next playing =>
    refine .trans ?easing ((easeFor_keeps _ _ _).trans (endPunch_keeps _))
    exact withTpr_keeps fun _ => .inl (by simp [playing])
  next => exact passageToIdle_keeps _ s
  next => exact passageToIdle_keeps _ s
  next => exact .refl s

theorem abortIfDue_keeps (s : State) : Keeps s (abortIfDue s) := by
  unfold abortIfDue
  split
  next a _ =>
    have taken : Keeps s { s with tpr.abortPend := none } := withTpr_keeps .inl
    refine .when fun _ => taken.trans (.trans (.when fun _ => ?dropped) (.when fun _ => abortTake_keeps _))
    exact withTpr_keeps .inl
  next => exact .refl s

theorem takeMarksOf_keeps (id n : Nat) (s : State) :
    Keeps s (match s.findTake id with | some t => takeMarks id t n s | none => s) := by
  split
  next => exact takeMarks_keeps _ _ _ s
  next => exact .refl s

theorem enterPlaying_keeps {s : State} (armed : s.ss.safety = .armed) (id : Nat) : Keeps s (enterPlaying id s) := by
  have playing : Keeps s { s with tpr := { s.tpr with activity := .playing, base := 0, cursor := 0 } } :=
    withTpr_keeps fun _ => .inr armed
  exact playing.trans ((requestEach_keeps _ _ _).trans ((takeMarksOf_keeps id 0 _).trans
    (.when fun _ => enterLives_keeps _ _)))

theorem startUnqualified_keeps (id : Nat) (s : State) : Keeps s (startUnqualified id s) :=
  .ite (fun _ => .refl s) fun _ => .when fun _ => (broadcast_keeps _ s).trans (.when fun _ => passageToIdle_keeps _ _)

theorem startIfDue_keeps (s : State) : Keeps s (startIfDue s) := by
  unfold startIfDue
  split
  next a _ =>
    have taken : Keeps s { s with tpr.startPend := none } := withTpr_keeps .inl
    refine .when fun _ => taken.trans (.ite (fun qualified => ?plays) fun _ => startUnqualified_keeps _ _)
    refine enterPlaying_keeps ?_ a.take
    simp only [State.qualified, Bool.and_eq_true, beq_iff_eq] at qualified
    exact qualified.1.1.1.1
  next => exact .refl s

/-! ### Live control and the turn of a frame -/

theorem turnGoal_keeps (g : FrameNo) (i : Nat) (s : State) : Keeps s (turnGoal g i s) := by
  refine (modChan_keeps (fun c => ?_) i s).trans (.when fun _ => modLive_keeps i _ _)
  dsimp only
  (repeat' split) <;> rfl

theorem turnGoals_keeps (g : FrameNo) (s : State) : Keeps s (turnGoals g s) := .foldl (fun u i => turnGoal_keeps g i u) _ s

theorem timeOutLive_keeps (s : State) : Keeps s (timeOutLive s) :=
  .foldl (fun u i => .when fun _ => (leaveLive_keeps i u).trans (raise_keeps _ _)) _ s

theorem turnMarks_keeps (g : FrameNo) (s : State) : Keeps s (turnMarks g s) := withTpr_keeps .inl

theorem advanceBase_keeps (s : State) : Keeps s (advanceBase s) := by
  unfold advanceBase
  split
  next => exact withTpr_keeps .inl
  next => exact .refl s

theorem easeOn_keeps (s : State) : Keeps s (easeOn s) := .when fun _ => easeFor_keeps _ _ s

/-! ### The work of a tick -/

theorem withFt_keeps (f : Ft) (s : State) : Keeps s { s with ft := f } := .of (by simp [Passes, PassesRecords])

theorem withPins_keeps (p : Pins) (s : State) : Keeps s { s with pins := p } := .of (by simp [Passes, PassesRecords])

theorem loseReference_keeps (s : State) : Keeps s (loseReference s) := (withFt_keeps _ s).trans (raise_keeps _ _)

theorem watchCycles_keeps (k : Nat) (s : State) : Keeps s (watchCycles k s) :=
  .when fun _ => .ite (fun _ => loseReference_keeps s) fun _ => withFt_keeps _ s

theorem sampleFault_keeps (active : Bool) (i : Nat) (s : State) : Keeps s (sampleFault active i s) := by
  have sampled : Keeps s (modLine i (fun l => { l with fault := active }) s) :=
    modLine_keeps (f := fun l => { l with fault := active }) (fun _ => rfl) (fun _ => rfl) i s
  have cut (u : State) : Keeps u (modLine i (fun l => { l with faultOff := true }) (driveOff i u)) :=
    (driveOff_keeps i u).trans (modLine_keeps (f := fun l => { l with faultOff := true }) (fun _ => rfl) (fun _ => rfl) i _)
  exact sampled.trans (.when fun _ => .trans (.when fun _ => cut _) (raiseFiltered_keeps _ _ _))

theorem sampleFaults_keeps (l : LineLevels) (s : State) : Keeps s (sampleFaults l s) := by
  unfold sampleFaults
  split
  next => exact .refl s
  next => exact .refl s
  next => exact .foldl (fun u i => sampleFault_keeps _ i u) _ s

theorem sampleLow_keeps (a : Bool) (i : Nat) (s : State) : Keeps s (sampleLow a i s) :=
  .when fun _ => (modLine_keeps (f := DriveLine.sampleLow a) (fun _ => rfl) (fun _ => rfl) i s).trans (.when fun _ => raiseFiltered_keeps _ _ _)

theorem sampleHigh_keeps (a : Bool) (i : Nat) (s : State) : Keeps s (sampleHigh a i s) :=
  .when fun _ => (modLine_keeps (f := DriveLine.sampleHigh a) (fun _ => rfl) (fun _ => rfl) i s).trans (.when fun _ => raiseFiltered_keeps _ _ _)

theorem sampleLimits_keeps (l : LineLevels) (s : State) : Keeps s (sampleLimits l s) := by
  unfold sampleLimits
  split
  next => exact .refl s
  next => exact .refl s
  next => exact .foldl (fun u i => (sampleLow_keeps _ i u).trans (sampleHigh_keeps _ i _)) _ s

theorem sampleSafetyLines_keeps (l : LineLevels) (s : State) : Keeps s (sampleSafetyLines l s) :=
  .when fun _ => (sampleEstop_keeps l s).trans (sampleZones_keeps l _)

theorem inOpen_keeps {f : State → State} (kept : ∀ u, Keeps u (f u)) (s : State) : Keeps s (inOpen f s) := .when fun _ => kept s

theorem brakeIfBegun_keeps (before : TickStart) (s : State) : Keeps s (brakeIfBegun before s) := .when fun _ => brakeTick_keeps s

theorem tickWork_keeps (before : TickStart) (l : LineLevels) (j : Nat) (w : TickWork) (s : State) :
    Keeps s (tickWork before l j w s) := by
  cases w with
  | report => exact inOpen_keeps (placeState_keeps _) s
  | peers => exact inOpen_keeps losePeers_keeps s
  | cross => exact inOpen_keeps (raiseCross_keeps _) s
  | conflict => exact inOpen_keeps raiseConflict_keeps s
  | brake => exact inOpen_keeps (brakeIfBegun_keeps before) s
  | start => exact inOpen_keeps startIfDue_keeps s
  | poll => exact pollTick_keeps s
  | faults => exact sampleFaults_keeps l s
  | limits => exact sampleLimits_keeps l s
  | zones => exact sampleSafetyLines_keeps l s
  | underrun => exact inOpen_keeps (raiseUnderrun_keeps j) s
  | compute => exact computeTick_keeps j s

theorem noteReports_keeps (s : State) : Keeps s (noteReports s) :=
  .foldl (fun u i => modChan_keeps (f := fun c => { c with shown := u.chanReport i }) (fun _ => rfl) i u) _ s

theorem doWork_keeps (before : TickStart) (l : LineLevels) (j : Nat) (ws : List TickWork) (s : State) :
    Keeps s (doWork before l j ws s) := by
  unfold doWork
  split
  next => exact .refl s
  next => exact .refl s
  next =>
    exact (withPins_keeps _ s).trans ((Keeps.foldl (fun u w => tickWork_keeps before l j w u) ws _).trans (noteReports_keeps _))

theorem beginFrame_keeps (s : State) : Keeps s (beginFrame s) := .trans (.when fun _ => raise_keeps _ s) (withFt_keeps _ _)

theorem alignFrame_keeps (s : State) : Keeps s (alignFrame s) := by
  have stations : Keeps s (learnTick (turnSlots s.ft.frame (removeAged (ageRoster s)))) :=
    (ageRoster_keeps s).trans ((removeAged_keeps _).trans ((turnSlots_keeps _ _).trans (learnTick_keeps _)))
  have counts (u : State) : Keeps u (easeOn (abortIfDue (rollCall (countOverflow u)))) :=
    (countOverflow_keeps u).trans ((rollCall_keeps _).trans ((abortIfDue_keeps _).trans (easeOn_keeps _)))
  have live (u : State) : Keeps u (turnMarks s.ft.frame (timeOutLive (turnGoals s.ft.frame u))) :=
    (turnGoals_keeps _ u).trans ((timeOutLive_keeps _).trans (turnMarks_keeps _ _))
  have pace (u : State) : Keeps u (zoneFrameTick (formRanges (paceTick s.ft.frame (advanceBase u)))) :=
    (advanceBase_keeps u).trans ((paceTick_keeps _ _).trans ((formRanges_keeps _).trans (zoneFrameTick_keeps _)))
  exact stations.trans ((counts _).trans ((live _).trans (pace _)))

theorem composeFirst_keeps (before : State) (order : List TickWork) (s : State) : Keeps s (composeFirst before order s) :=
  .ite (fun _ => .refl s) fun _ => composeState_keeps before s

theorem frameTick_keeps (before : State) (l : LineLevels) (order : List TickWork) (s : State) :
    Keeps s (frameTick before l order s) := by
  have counted : Keeps s (countRestart (countPark (countDup (countQuiet (composeFirst before order (beginFrame s)))))) :=
    (beginFrame_keeps s).trans ((composeFirst_keeps before order _).trans ((countQuiet_keeps _).trans
      ((countDup_keeps _).trans ((countPark_keeps _).trans (countRestart_keeps _)))))
  refine counted.trans ?_
  unfold frameTick
  dsimp only
  split
  next => exact .refl _
  next => exact .refl _
  next => exact (wakeIfDue_keeps _).trans (doWork_keeps _ _ _ _ _)
  next => exact (alignFrame_keeps _).trans (doWork_keeps _ _ _ _ _)

/-! ### Attempts -/

/-- What the invariant of a queue reads of its entries. -/
theorem queueSound_of_map_eq {p q : List QEntry}
    (same : (p.map fun e => (e.msg, e.succ)) = q.map fun e => (e.msg, e.succ)) (sound : QueueSound q) : QueueSound p := by
  obtain ⟨length, keys, succs⟩ := sound
  refine ⟨?_, ?_, fun e he => ?_⟩
  · have alike : p.length = q.length := by simpa using congrArg List.length same
    exact alike ▸ length
  · have mapped : (q.map fun e => (e.msg, e.succ)).Pairwise fun a b => a.1.body.key = none ∨ a.1.body.key ≠ b.1.body.key :=
      List.pairwise_map.mpr keys
    exact List.pairwise_map.mp (same ▸ mapped)
  · have listed : (e.msg, e.succ) ∈ q.map fun e => (e.msg, e.succ) := same ▸ List.mem_map.mpr ⟨e, he, rfl⟩
    obtain ⟨d, hd, eq⟩ := List.mem_map.mp listed
    obtain ⟨msg, succ⟩ := Prod.mk.inj eq
    have fits := succs d hd
    rwa [msg, succ] at fits

theorem beginEntry_map (c : Nat) (q : List QEntry) :
    ((beginEntry c q).map fun e => (e.msg, e.succ)) = q.map fun e => (e.msg, e.succ) := by
  induction q with
  | nil => rfl
  | cons e q ih =>
    rw [beginEntry]
    split
    next => rfl
    next => simp [ih]

theorem mem_beginEntry {c : Nat} {q : List QEntry} {e : QEntry} (h : e ∈ beginEntry c q) : ∃ d ∈ q, d.msg = e.msg := by
  have listed : (e.msg, e.succ) ∈ q.map fun e => (e.msg, e.succ) := beginEntry_map c q ▸ List.mem_map.mpr ⟨e, h, rfl⟩
  obtain ⟨d, hd, eq⟩ := List.mem_map.mp listed
  exact ⟨d, hd, (Prod.mk.inj eq).1⟩

theorem fallBack_fits {e : QEntry} (fits : SuccessorFits e) :
    e.fallBack.msg.body.key = e.msg.body.key ∧ e.fallBack.msg.body.cls = e.msg.body.cls ∧ SuccessorFits e.fallBack := by
  unfold QEntry.fallBack
  split
  next =>
    refine ⟨?_, ?_, fun m hm => by cases hm⟩
    all_goals
      cases hs : e.succ with
      | none => rfl
      | some m => simp [fits m hs]
  next => exact ⟨rfl, rfl, fits⟩

theorem finish_fits {e d : QEntry} (finished : e.finish = some d) (fits : SuccessorFits e) :
    d.msg.body.key = e.msg.body.key ∧ d.msg.body.cls = e.msg.body.cls ∧ SuccessorFits d := by
  unfold QEntry.finish at finished
  split at finished
  next =>
    obtain ⟨m, hm, rfl⟩ := Option.map_eq_some_iff.mp finished
    exact ⟨(fits m hm).1, (fits m hm).2, fun n hn => by cases hn⟩
  next =>
    obtain rfl := Option.some.inj finished
    exact ⟨rfl, rfl, fits⟩

theorem queueSound_finish {q : List QEntry} (sound : QueueSound q) : QueueSound (q.filterMap QEntry.finish) := by
  obtain ⟨length, keys, succs⟩ := sound
  refine ⟨(List.length_filterMap_le _ _).trans length, List.pairwise_filterMap.mpr ?_, fun e he => ?_⟩
  · refine keys.imp_of_mem fun {a b} ha hb h a' ha' b' hb' => ?_
    rwa [(finish_fits ha' (succs a ha)).1, (finish_fits hb' (succs b hb)).1]
  · obtain ⟨d, hd, finished⟩ := List.mem_filterMap.mp he
    exact (finish_fits finished (succs d hd)).2.2

/-- A change of both queues that keeps each of them sound and the classes of their entries. -/
theorem withQueues_keeps {s : State} {l : Lif} (kept : QueuesSound s → QueuesSound { s with lif := l }) :
    Keeps s { s with lif := l } := by
  have queues : Goes QueuesSound s { s with lif := l } := kept
  exact .of (by simp [Passes, PassesRecords, queues])

theorem attemptLost_keeps (s : State) : Keeps s { s with lif := s.lif.attemptLost } := by
  refine withQueues_keeps fun ⟨urgent, ordinary, low, high⟩ => ⟨queueSound_map urgent _ fun e _ fits => ?_,
    queueSound_map ordinary _ fun e _ fits => ?_, fun e he => ?_, fun e he => ?_⟩
  · exact ⟨(fallBack_fits fits).1, (fallBack_fits fits).2.2⟩
  · exact ⟨(fallBack_fits fits).1, (fallBack_fits fits).2.2⟩
  · obtain ⟨d, hd, rfl⟩ := List.mem_map.mp he
    exact (fallBack_fits (urgent.2.2 d hd)).2.1 ▸ low d hd
  · obtain ⟨d, hd, rfl⟩ := List.mem_map.mp he
    exact (fallBack_fits (ordinary.2.2 d hd)).2.1 ▸ high d hd

theorem attemptWon_keeps (s : State) : Keeps s { s with lif := s.lif.attemptWon } := by
  refine withQueues_keeps fun ⟨urgent, ordinary, low, high⟩ => ⟨queueSound_finish urgent, queueSound_finish ordinary,
    fun e he => ?_, fun e he => ?_⟩
  · obtain ⟨d, hd, finished⟩ := List.mem_filterMap.mp he
    exact (finish_fits finished (urgent.2.2 d hd)).2.1 ▸ low d hd
  · obtain ⟨d, hd, finished⟩ := List.mem_filterMap.mp he
    exact (finish_fits finished (ordinary.2.2 d hd)).2.1 ▸ high d hd

theorem beginAttempt_keeps (c : Nat) (s : State) :
    Keeps s { s with lif := { s.lif with
      urgent := beginEntry c s.lif.urgent, ordinary := beginEntry c s.lif.ordinary, lineIdle := false } } := by
  refine withQueues_keeps fun ⟨urgent, ordinary, low, high⟩ => ⟨queueSound_of_map_eq (beginEntry_map c _) urgent,
    queueSound_of_map_eq (beginEntry_map c _) ordinary, fun e he => ?_, fun e he => ?_⟩
  · obtain ⟨d, hd, same⟩ := mem_beginEntry he
    exact same ▸ low d hd
  · obtain ⟨d, hd, same⟩ := mem_beginEntry he
    exact same ▸ high d hd

theorem linkLost_keeps (s : State) : Keeps s (linkLost s) := by
  refine .trans ?released (raiseOwn_keeps _ _ _)
  exact withLif_keeps rfl rfl

theorem afterSuccess_keeps (b : Body) (s : State) : Keeps s (afterSuccess b s) := by
  have carried : Keeps s (b.factorCarried.elim s fun f => takeFactor s.cfg.station f s.dateNow s) := by
    cases b.factorCarried with
    | none => exact .refl s
    | some f => exact takeFactor_keeps _ _ _ s
  refine carried.trans (.ite (fun parks => ?_) fun _ => .when fun _ => enterLoading_keeps _)
  simp only [Bool.and_eq_true] at parks
  exact enterParked_keeps parks.2

theorem countBad_keeps (s : State) : Keeps s (countBad s) := withLif_keeps rfl rfl

theorem lineBusy_keeps (s : State) : Keeps s (lineBusy s) := withLif_keeps rfl rfl

theorem lineFallsIdle_keeps (s : State) : Keeps s (lineFallsIdle s) := .ite (fun _ => .refl s) fun _ => withLif_keeps rfl rfl

theorem impostor_keeps (s : State) : Keeps s (impostor s) := by
  unfold impostor
  split
  next => exact .refl s
  next =>
    refine .trans ?counted (raiseOwn_keeps _ _ _)
    exact withLif_keeps rfl rfl

/-! ### RESET and the end of a read -/

namespace Image

/-- The conditions of an image in their order. -/
theorem holds_of_verdict_none {img : Image} (valid : img.verdict = none) :
    ∀ c ∈ img.headerChecks ++ img.firstChecks ++ img.laterChecks, c.holds = true := by
  have passed {l : List Check} (none : failure l = none) : ∀ c ∈ l, c.holds = true := by
    simpa [failure] using none
  unfold verdict at valid
  split at valid
  next => cases valid
  next header =>
    split at valid
    next => cases valid
    next first =>
      intro c hc
      simp only [List.mem_append] at hc
      rcases hc with (hc | hc) | hc
      · exact passed header c hc
      · exact passed first c hc
      · exact passed valid c hc

/-- The checks of a list of stations hold when each is a station other than the node, and none is named twice (R199). -/
theorem stationChecks_hold {code own : Nat} {l : List Nat} (hold : ∀ c ∈ stationChecks code own l, c.holds = true) :
    l.Nodup ∧ ∀ v ∈ l, 1 ≤ v ∧ v ≤ 62 ∧ v ≠ own := by
  have each (i : Nat) (hi : i < l.length) : (1 ≤ l[i] ∧ l[i] ≤ 62) ∧ l[i] ≠ own ∧ l[i] ∉ l.take i := by
    have listed : (⟨code, i, isStation l[i] && l[i] != own && !(l.take i).contains l[i]⟩ : Check) ∈ stationChecks code own l :=
      List.mem_mapIdx.mpr ⟨i, hi, rfl⟩
    simpa [isStation, and_assoc] using hold _ listed
  constructor
  · refine List.nodup_iff_injective_getElem.mpr fun i j same => ?_
    by_contra ne
    have twice : ∀ a b : Fin l.length, a < b → l[a.val] ≠ l[b.val] := fun a b lt eq => by
      refine (each b b.2).2.2 (List.mem_take_iff_getElem.mpr ⟨a, ?_, eq⟩)
      exact lt_min lt a.2
    rcases lt_or_gt_of_ne ne with lt | gt
    · exact twice i j lt same
    · exact twice j i gt same.symm
  · intro v hv
    obtain ⟨i, hi, rfl⟩ := List.mem_iff_getElem.mp hv
    exact ⟨(each i hi).1.1, (each i hi).1.2, (each i hi).2.1⟩

theorem peers_length (img : Image) : img.peers.length = img.nPeers := by simp [peers, stationsAt]

theorem peersValid_of_verdict_none {img : Image} (valid : img.verdict = none) : PeersValid img.config := by
  have hold := holds_of_verdict_none valid
  have few := hold ⟨16, 16, decide (img.nPeers ≤ 16)⟩ (by simp [laterChecks])
  obtain ⟨each, stations⟩ := stationChecks_hold (code := 16) (own := img.station) (l := img.peers) fun c hc => hold c (by
    simp [laterChecks, hc])
  refine ⟨?_, each, fun own => (stations _ own).2.2 rfl⟩
  show img.peers.length ≤ 16
  rw [peers_length]
  simpa using few

end Image

theorem settle_directorySound {s t : State} {n : Nat} (settled : t.ts = s.ts ∨ t.ts = Ts.settle n s.ts) :
    DirectorySound s → DirectorySound t := by
  have unchanged {u : State} (eq : t.ts.dir = u.ts.dir) : DirectorySound u → DirectorySound t := directorySound_of_eq eq
  rcases settled with same | settled
  · exact unchanged (by rw [same])
  · unfold Ts.settle at settled
    split at settled
    next => exact unchanged (by rw [settled])
    next =>
      split at settled
      next =>
        rintro ⟨length, each, apart⟩
        have takes : takesOf t = (takesOf s).map Take.kept := by
          simp only [takesOf, settled]
          rw [List.filterMap_map, List.map_filterMap]
          rfl
        refine ⟨by simpa [settled] using length, ?_, ?_⟩
        · rw [takes]
          intro _ listed
          obtain ⟨k, hk, rfl⟩ := List.mem_map.mp listed
          exact each k hk
        · rw [takes]
          exact List.pairwise_map.mpr apart
      next =>
        intro _
        have empty : takesOf t = [] := by simp [takesOf, settled, Ts.reset]
        exact ⟨by simp [settled, Ts.reset], by simp [empty], by simp [empty]⟩

theorem settle_storeWf {s t : State} {n : Nat} (settled : t.ts = s.ts ∨ t.ts = Ts.settle n s.ts) : StoreWf s → StoreWf t := by
  intro wf
  rcases settled with same | settled
  · exact storeWf_of_eq (by rw [same]) wf
  · unfold Ts.settle at settled
    split at settled
    next => exact storeWf_of_eq (by rw [settled]) wf
    next =>
      split at settled
      next => exact storeWf_of_eq (by rw [settled]) wf
      next => rw [StoreWf, settled]; rfl

theorem readEnds_keeps (img : Image) (s : State) : Keeps s (readEnds img s) := by
  have settled : ∀ ts, ts = (if img.countsGood then Ts.settle img.nChans s.ts else s.ts) →
      ts = s.ts ∨ ts = Ts.settle img.nChans s.ts := by
    rintro ts rfl
    split
    next => exact .inr rfl
    next => exact .inl rfl
  have fresh {t : State} (restarted : Restarted t) (ts : t.ts = s.ts ∨ t.ts = Ts.settle img.nChans s.ts)
      (roster : RosterSound t) : Keeps s t :=
    keeps_of_restarted restarted (settle_directorySound ts) (settle_storeWf ts) fun _ => roster
  unfold readEnds
  dsimp only
  split
  next valid =>
    refine fresh ⟨rfl, rfl, rfl, rfl, rfl, rfl, rfl, rfl, rfl⟩ (settled _ rfl) ?_
    exact rosterSound_of_pinned (s := { s with cfg := img.config }) (Image.peersValid_of_verdict_none valid) rfl rfl
  next c _ =>
    refine fresh ⟨rfl, rfl, rfl, rfl, rfl, rfl, rfl, rfl, rfl⟩ (settled _ rfl) ?_
    exact ⟨⟨Nat.zero_le _, .nil, by simp [enterFaulted, faultedCfg, NodeCfg.none]⟩, Nat.zero_le _, .nil,
      by simp [enterFaulted, State.reset, Ru.reset]⟩

/-! ### Messages -/

theorem reportOther_keeps {station : Nat} {s : State} (other : station ≠ s.cfg.station) : Keeps s (validFrom station s) := by
  refine .trans ?counted (reportStation_keeps (s := { s with lif.quiet := 0 }) other)
  exact withLif_keeps rfl rfl

theorem arrive_keeps {parked deliver : State → State} (hp : ∀ u, Keeps u (parked u)) (hd : ∀ u, Keeps u (deliver u))
    (h : Header) (s : State) : Keeps s (arrive h parked deliver s) :=
  (lineBusy_keeps s).trans (.ite (fun _ => .refl _) fun _ => .ite (fun _ => countBad_keeps _) fun _ =>
    .ite (fun _ => .refl _) fun _ => .ite (fun _ => hp _) fun _ => .ite (fun _ => impostor_keeps _) fun other =>
      (reportOther_keeps other).trans (hd _))

theorem deliverOpen_keeps {f : State → State} (kept : ∀ u, Keeps u (f u)) (h : Header) (n : Nat) (s : State) :
    Keeps s (deliverOpen h n f s) := .when fun _ => kept s

/-- What follows a command: a next state that keeps the invariants. -/
def Completes (s : State) (o : Host.Outcome State Fault Refusal) : Prop := ∃ t, o = .next t ∧ Keeps s t

theorem completes_next {s t : State} (kept : Keeps s t) : Completes s (.next t) := ⟨t, rfl, kept⟩

theorem broadcastKind_completes {f : State → State} (kept : ∀ u, Keeps u (f u)) (h : Header) (n : Nat) (s : State) :
    Completes s (broadcastKind h n f s) :=
  completes_next (arrive_keeps .refl (fun u => deliverOpen_keeps kept h n u) h s)

theorem addressedKind_completes {f : State → State} (kept : ∀ u, Keeps u (f u)) (h : Header) (n : State → Nat) (s : State) :
    Completes s (addressedKind h n f s) :=
  completes_next (arrive_keeps .refl (fun u => .when fun _ => deliverOpen_keeps kept h (n u) u) h s)

theorem takeClaim_keeps (o cause detail : Nat) (s : State) : Keeps s (takeClaim o cause detail s) := by
  unfold takeClaim
  cases s.admittedCause o cause with
  | none => exact .refl s
  | some c => exact remoteClaim_keeps o c detail s

theorem takeClear_keeps (o cause : Nat) (s : State) : Keeps s (takeClear o cause s) := by
  unfold takeClear
  cases Cause.ofCode cause with
  | none => exact .refl s
  | some c => exact subClaims_keeps List.filter_sublist

theorem takeRoll_keeps (o : Nat) (more : Bool) (pairs : List (Byte × Byte)) (s : State) : Keeps s (takeRoll o more pairs s) := by
  have claimed := Keeps.foldl (fun u (p : Byte × Byte) => takeClaim_keeps o p.1.toNat p.2.toNat u) pairs s
  exact claimed.trans (.ite (fun _ => .refl _) fun _ => subClaims_keeps List.filter_sublist)

theorem takeAbort_keeps (id : Nat) (d : FrameNo) (s : State) : Keeps s (takeAbort id d s) := .when fun _ => withTpr_keeps .inl

theorem takeStart_keeps (o id lead : Nat) (d : FrameNo) (s : State) : Keeps s (takeStart o id lead d s) :=
  .when fun _ => withTpr_keeps .inl

theorem takeGoal_keeps (d : FrameNo) (i v : Nat) (s : State) : Keeps s (takeGoal d i v s) := by
  have entered : Keeps s (if s.tpr.liveSet.getLsbD i then s else enterLive i s) :=
    .ite (fun _ => .refl s) fun _ => enterLive_keeps i s
  exact entered.trans (modLive_keeps i (fun l => { l with pend := setPend l.pend d v }) _)

theorem releaseLive_keeps (i : Nat) (s : State) : Keeps s (releaseLive i s) := .when fun _ => leaveLive_keeps i s

/-- The MARK of a LIVE waits for its date in LIVE and RECORDING alone. -/
theorem takeMarkThere_keeps (d : FrameNo) (mark : Nat) (s : State) :
    Keeps s (match s.tpr.activity with | .live | .recording => takeMark d mark s | _ => s) := by
  split
  next => exact withTpr_keeps .inl
  next => exact withTpr_keeps .inl
  next => exact .refl s

theorem takeGoals_safety (d : FrameNo) (mask : ChanSet) (values : List U16) (is : List Nat) (s : State) :
    (is.foldl (fun s i => takeGoal d i (liveValue mask values i) s) s).ss = s.ss := foldl_ss _ _ _ (by simp)

theorem takeLive_keeps (o : Nat) (d : FrameNo) (enable : Bool) (mask : ChanSet) (mark : Nat) (values : List U16) (s : State) :
    Keeps s (takeLive o d enable mask mark values s) := by
  refine .ite (fun _ => .refl s) fun admitted => .trans (.ite (fun _ => ?enters) fun _ => ?leaves) (takeMarkThere_keeps d mark _)
  case enters =>
    refine .trans (Keeps.foldl (fun u i => takeGoal_keeps d i _ u) _ s) (.when fun _ => withTpr_keeps fun _ => .inr ?_)
    rw [takeGoals_safety]
    exact not_not.mp (not_or.mp admitted).2
  case leaves => exact .foldl (fun u i => releaseLive_keeps i u) _ s

theorem takeWake_keeps (o : Nat) (d : FrameNo) (mask : BitVec 64) (cranes : List (BitVec 32)) (s : State) :
    Keeps s (takeWake o d mask cranes s) := .when fun _ => .of (by simp [Passes, PassesRecords])

/-! ### SAMPLES -/

theorem loadError_keeps (o take first expected : Nat) (status : Status) (s : State) :
    Keeps s (loadError o take first expected status s) := reply_keeps _ _ _ _ s

theorem storeRecords_cons (t : Take) (first : Nat) (r : Sample) (rs : List Sample) (s : State) :
    storeRecords t first (r :: rs) s =
      storeRecords t (first + 1) rs (storeRecord t first s.allChans (r.truncate s.cfg.nChans) s) := rfl

theorem storeRecords_keeps (t : Take) (first : Nat) (rs : List Sample) (s : State) : Keeps s (storeRecords t first rs s) := by
  induction rs generalizing first s with
  | nil => exact .refl s
  | cons r rs ih =>
    rw [storeRecords_cons]
    exact (storeRecord_keeps t first _ _ s).trans (ih (first + 1) _)

/-- Records stored change the LATCH of takes alone. -/
theorem mem_takesOf_storeRecords {t k : Take} {first : Nat} {rs : List Sample} {s : State}
    (h : k ∈ takesOf (storeRecords t first rs s)) : ∃ k0 ∈ takesOf s, k = { k0 with latch := k.latch } := by
  induction rs generalizing first s with
  | nil => exact ⟨k, h, rfl⟩
  | cons r rs ih =>
    obtain ⟨k1, hk1, eq⟩ := ih (storeRecords_cons t first r rs s ▸ h)
    obtain ⟨k0, hk0, eq1⟩ := mem_takesOf_storeRecord hk1
    exact ⟨k0, hk0, by rw [eq, eq1]⟩

theorem loaded_takeSound {k : Take} {n : Nat} (last : Bool) (sound : takeSound k) (fits : k.fits k.expected n = true) :
    takeSound (Take.loaded (k.expected + n) last k) := by
  obtain ⟨size, extent, counts⟩ := sound
  unfold takeSound Take.loaded
  cases kind : k.kind <;> simp only [kind, Take.fits, Take.expected, Bool.and_eq_true, decide_eq_true_eq] at counts fits ⊢
  · exact ⟨size, extent, fits⟩
  · exact ⟨size, extent, by omega, fits.1⟩

theorem loadRecords_keeps {s : State} {t : Take} {rs : List Sample} (ht : t ∈ takesOf s)
    (fits : t.fits t.expected rs.length = true) (last : Bool) :
    Keeps s (modTake t.id (Take.loaded (t.expected + rs.length) last) (storeRecords t t.expected rs s)) := by
  have stored := storeRecords_keeps t t.expected rs s
  refine .of_takes (fun sound => ?_) stored.store fun directory store => by simp [Passes, PassesRecords, directory, store]
  refine modTake_directorySound (fun k => ?_) (fun k hk named soundk => ?_) (stored.directory sound)
  · unfold Take.loaded
    split <;> exact ⟨rfl, rfl, rfl⟩
  · obtain ⟨k0, hk0, eq⟩ := mem_takesOf_storeRecords hk
    have id0 : k0.id = t.id := by rw [eq] at named; exact named
    obtain rfl := takesOf_unique sound hk0 ht id0
    have expected : k.expected = k0.expected := by rw [eq]; rfl
    have room : k.fits k.expected rs.length = true := by rw [expected, eq]; exact fits
    exact expected ▸ loaded_takeSound last soundk room

theorem storeSamples_keeps {s : State} {t : Take} {rs : List Sample} (ht : t ∈ takesOf s)
    (fits : t.fits t.expected rs.length = true) (last : Bool) : Keeps s (storeSamples t t.expected last rs s) :=
  (loadRecords_keeps ht fits last).trans ((waterMark_keeps t.id _).trans (.when fun _ => cueTest_keeps _))

theorem takeSamples_keeps (o id first : Nat) (last : Bool) (rs : List Sample) (s : State) :
    Keeps s (takeSamples o id first last rs s) := by
  unfold takeSamples
  cases found : s.findTake id with
  | none => exact loadError_keeps _ _ _ _ _ s
  | some t =>
    refine .ite (fun _ => loadError_keeps _ _ _ _ _ s) fun _ => .ite (fun _ => loadError_keeps _ _ _ _ _ s) fun _ =>
      .ite (fun _ => loadError_keeps _ _ _ _ _ s) fun expected => .ite (fun _ => loadError_keeps _ _ _ _ _ s) fun fits =>
        .ite (fun _ => loadError_keeps _ _ _ _ _ s) fun _ => .ite (fun _ => .refl s) fun _ => ?_
    obtain rfl := not_not.mp expected
    exact storeSamples_keeps (findTake_some found).1 (by simpa using fits) last

/-! ### Commands -/

theorem gate_none {s : State} {station code : Nat} (passed : s.gate station code = none) :
    s.admits code = true ∧ (code ≠ codeStatusQuery → s.ru.parkPending = false ∧ s.cl.restartPending = false) := by
  unfold State.gate at passed
  repeat' split at passed
  all_goals try cases passed
  next _ _ admitted passage =>
    refine ⟨by simpa using admitted, fun other => ?_⟩
    simpa [other] using passage

/-- The owner of a command finds no passage pending, but for STATUS-QUERY (R189). -/
theorem command_completes {code : Nat} {owner : Slot → State → State}
    (kept : ∀ who u, (code ≠ codeStatusQuery → u.ru.parkPending = false ∧ u.cl.restartPending = false) → Keeps u (owner who u))
    (h : Header) (serial : Byte) (s : State) : Completes s (command h serial code owner s) := by
  refine completes_next (arrive_keeps .refl (fun u => .when fun _ => ?_) h s)
  unfold commandUnit
  split
  next => exact reply_keeps _ _ _ _ u
  next passed => exact .ite (fun _ => kept _ u (gate_none passed).2) fun _ => reply_keeps _ _ _ _ u

theorem command_completes' {code : Nat} {owner : Slot → State → State} (kept : ∀ who u, Keeps u (owner who u))
    (h : Header) (serial : Byte) (s : State) : Completes s (command h serial code owner s) :=
  command_completes (fun who u _ => kept who u) h serial s

theorem acceptArm_keeps {s : State} (disarmed : s.ss.safety = .disarmed) (park : s.ru.parkPending = false)
    (restart : s.cl.restartPending = false) (who : Slot) : Keeps s (acceptArm who s) := by
  refine .trans ?arming ((enableAll_keeps (s := { s with ss := { s.ss with
    safety := .arming, timer := some { phase := .enable, frames := s.cfg.enableSettle }, armPending := some who } })
    rfl).trans (reply_keeps _ _ _ _ _))
  have passages {t : State} (hp : t.ru.parkPending = s.ru.parkPending) (hr : t.cl.restartPending = s.cl.restartPending) :
      PassagesSafe t := passagesSafe_of_none_pending (hp.trans park) (hr.trans restart)
  exact .of_gates (drivesGated_of_driven (fun _ => passages rfl rfl) rfl rfl (by simp))
    (activityGated_of_not_armed (by simp [disarmed]) (passages rfl rfl) rfl) (by simp [PassesRecords])

theorem armCommand_keeps {s : State} (passable : s.ru.parkPending = false ∧ s.cl.restartPending = false) (who : Slot) :
    Keeps s (armCommand who s) := by
  unfold armCommand
  split
  next disarmed =>
    split
    next => exact reply_keeps _ _ _ _ s
    next => exact acceptArm_keeps disarmed passable.1 passable.2 who
  next => exact reply_keeps _ _ _ _ s
  next => exact reply_keeps _ _ _ _ s

theorem acceptDisarm_keeps {s : State} (armed : s.ss.safety = .armed) (idle : s.tpr.activity = .idle) (who : Slot) :
    Keeps s (acceptDisarm who s) := by
  refine .trans ?pending ((reply_keeps _ _ _ _ _).trans ((stopAll_keeps _).trans (enterSecuring_keeps (.inr ⟨?_, ?_⟩))))
  case pending => exact withSs_keeps rfl rfl
  · simpa using armed
  · simpa using idle

theorem disarmCommand_keeps (who : Slot) (s : State) : Keeps s (disarmCommand who s) := by
  unfold disarmCommand
  split
  next armed => exact .ite (fun ⟨idle, _⟩ => acceptDisarm_keeps armed idle who) fun _ => reply_keeps _ _ _ _ s
  next => exact reply_keeps _ _ _ _ s
  next => exact reply_keeps _ _ _ _ s

theorem releaseCause_keeps (c : Cause) (s : State) : Keeps s (releaseCause c s) := by
  unfold releaseCause
  split
  next => exact .when fun _ => withdrawOwn_keeps c s
  next => exact .refl s

theorem releaseCommand_keeps (who : Slot) (s : State) : Keeps s (releaseCommand who s) :=
  (Keeps.foldl (fun u c => releaseCause_keeps c u) Cause.all s).trans (reply_keeps _ _ _ _ _)

theorem parkCommand_keeps (who : Slot) (s : State) : Keeps s (parkCommand who s) := by
  refine .ite (fun disarmed => .trans ?pending (reply_keeps _ _ _ _ _)) fun _ => reply_keeps _ _ _ _ s
  have passages {t : State} (safety : t.ss.safety = s.ss.safety) : PassagesSafe t :=
    ⟨fun _ => safety.trans disarmed, fun _ => .inl (safety.trans disarmed)⟩
  exact .of_gates (fun gated => ⟨passages rfl, gated.2⟩) (fun gated => ⟨passages rfl, gated.2⟩) (by simp [PassesRecords])

theorem restartCommand_keeps (who : Slot) (s : State) : Keeps s (restartCommand who s) := by
  refine .ite (fun may => .trans ?pending (reply_keeps _ _ _ _ _)) fun _ => reply_keeps _ _ _ _ s
  exact .of_gates (fun gated => ⟨⟨gated.1.1, fun _ => may⟩, gated.2⟩) (fun gated => ⟨⟨gated.1.1, fun _ => may⟩, gated.2⟩)
    (by simp [PassesRecords])

theorem sensorReadCommand_keeps (channel item : Nat) (who : Slot) (s : State) : Keeps s (sensorReadCommand channel item who s) :=
  .ite (fun _ => reply_keeps _ _ _ _ s) fun _ => .ite (fun _ => reply_keeps _ _ _ _ s) fun _ =>
    (withSpl_keeps _ s).trans ((reply_keeps _ _ _ _ _).trans (readTakesLineNow_keeps _))

theorem attentionQuery_keeps (clear : Bool) (who : Slot) (s : State) : Keeps s (attentionQuery clear who s) :=
  .trans (.when fun _ => .of (by simp [Passes, PassesRecords])) (reply_keeps _ _ _ _ _)

theorem directoryQuery_keeps (start : Nat) (who : Slot) (s : State) : Keeps s (directoryQuery start who s) :=
  .ite (fun _ => reply_keeps _ _ _ _ s) fun _ => reply_keeps _ _ _ _ s

theorem latchQuery_keeps (take : Nat) (clear : Bool) (who : Slot) (s : State) : Keeps s (latchQuery take clear who s) := by
  have emptied (u : State) : Keeps u (modTake take (fun t => { t with latch := none }) u) :=
    modTake_keeps (f := fun t => { t with latch := none }) (fun _ => ⟨⟨rfl, rfl, rfl⟩, fun h => h⟩) take u
  unfold latchQuery
  split
  next => exact reply_keeps _ _ _ _ s
  next => exact .trans (.when fun _ => emptied s) (reply_keeps _ _ _ _ _)

/-! ### The commands of the Take Store -/

theorem runFree_of_firstFit {extents : List (Nat × Nat)} {n base : Nat} (fits : firstFit extents n = some base) :
    runFree extents n base = true :=
  (List.mem_filter.mp (List.min?_mem fits)).2

/-- A directory with a take in an entry that was free, up to the order of its takes. -/
theorem takesOf_set_perm {l : List (Option Take)} {e : Nat} (free : l[e]? = some none) (t : Take) :
    ((l.set e (some t)).filterMap id).Perm (t :: l.filterMap id) := by
  obtain ⟨he, none⟩ := List.getElem?_eq_some_iff.mp free
  have before : l = l.take e ++ Option.none :: l.drop (e + 1) := by
    rw [← none, List.getElem_cons_drop, List.take_append_drop]
  have after : (l.set e (some t)).filterMap id = (l.take e).filterMap id ++ t :: (l.drop (e + 1)).filterMap id := by
    rw [List.set_eq_take_append_cons_drop, if_pos he]
    simp
  rw [after, before]
  simp only [List.filterMap_append, List.filterMap_cons_none, id]
  simp [← before]

theorem freeEntry_some {l : List (Option Take)} {e : Nat} (free : freeEntry l = some e) : l[e]? = some none := by
  obtain ⟨he, isNone, _⟩ := List.findIdx?_eq_some_iff_getElem.mp free
  rw [List.getElem?_eq_getElem he]
  simpa using isNone

theorem openedTake_sound {a : TakeOpenArgs} {k : TakeKind} {n base loader : Nat} (good : openArgsGood a k n = true)
    (inStore : base + a.size.toNat ≤ 8192) : takeSound (openedTake a k base loader) := by
  cases k <;> simp only [openArgsGood, Bool.and_eq_true, decide_eq_true_eq] at good <;>
    simp only [takeSound, openedTake, Config.storeSize] <;> omega

/-- Where first fit finds a run and an entry is free, the new take stands apart from every other (R138). -/
theorem openTake_directorySound {s t : State} {a : TakeOpenArgs} {k : TakeKind} {e base loader : Nat}
    (good : openArgsGood a k s.cfg.nChans = true) (unknown : s.findTake a.id.toNat = none)
    (free : freeEntry s.ts.dir = some e) (fits : firstFit s.extents a.size.toNat = some base)
    (dir : t.ts.dir = s.ts.dir.set e (some (openedTake a k base loader))) (sound : DirectorySound s) : DirectorySound t := by
  obtain ⟨length, each, apart⟩ := sound
  have perm : (takesOf t).Perm (openedTake a k base loader :: takesOf s) := by
    rw [takesOf, dir]
    exact takesOf_set_perm (freeEntry_some free) _
  have run := runFree_of_firstFit fits
  simp only [runFree, Bool.and_eq_true, List.all_eq_true, Bool.or_eq_true, decide_eq_true_eq] at run
  obtain ⟨inStore, outside⟩ := run
  refine ⟨by simpa [dir] using length, fun k' hk' => ?_, ?_⟩
  · rcases List.mem_cons.mp (perm.mem_iff.mp hk') with rfl | old
    · exact openedTake_sound good inStore
    · exact each k' old
  · refine (perm.pairwise_iff fun {a b} h => ⟨h.1.symm, h.2.symm⟩).mpr (List.pairwise_cons.mpr ⟨fun k' hk' => ⟨?_, ?_⟩, apart⟩)
    · intro same
      have absent := List.findSome?_eq_none_iff.mp unknown (some k') (mem_takesOf.mp hk')
      simp [← show a.id.toNat = k'.id from same] at absent
    · have listed : (k'.base, k'.size) ∈ s.extents := List.mem_filterMap.mpr ⟨some k', mem_takesOf.mp hk', rfl⟩
      exact outside _ listed

theorem takeOpenCommand_keeps (a : TakeOpenArgs) (who : Slot) (s : State) : Keeps s (takeOpenCommand a who s) := by
  unfold takeOpenCommand
  split
  next => exact reply_keeps _ _ _ _ s
  next k _ =>
    refine .ite (fun _ => reply_keeps _ _ _ _ s) fun good => .ite (fun _ => reply_keeps _ _ _ _ s) fun unknown => ?_
    split
    next => exact reply_keeps _ _ _ _ s
    next => exact reply_keeps _ _ _ _ s
    next e base free fits =>
      refine .trans ?opened (reply_keeps _ _ _ _ _)
      exact .of_takes (openTake_directorySound (by simpa using good) (by simpa using unknown) free fits rfl)
        (fun wf => Memory.wf_clearRange _ _ _ wf) fun directory store => by simp [Passes, PassesRecords, directory, store]

theorem takesOf_freeTake (id : Nat) (s : State) : takesOf (freeTake id s) = (takesOf s).filter fun t => t.id ≠ id := by
  simp only [takesOf, freeTake]
  induction s.ts.dir with
  | nil => rfl
  | cons e l ih =>
    cases e with
    | none => simpa using ih
    | some t => by_cases h : t.id = id <;> simp_all

theorem freeTake_keeps (id : Nat) (s : State) : Keeps s (freeTake id s) := by
  have store : (freeTake id s).ts.store = s.ts.store := rfl
  suffices directory : Goes DirectorySound s (freeTake id s) from .of (by simp [Passes, PassesRecords, directory, store])
  rintro ⟨length, each, apart⟩
  refine ⟨by simpa [freeTake] using length, ?_, ?_⟩
  · rw [takesOf_freeTake]
    exact fun t ht => each t (List.mem_of_mem_filter ht)
  · rw [takesOf_freeTake]
    exact apart.filter _

theorem takeDeleteCommand_keeps (id : Nat) (who : Slot) (s : State) : Keeps s (takeDeleteCommand id who s) :=
  .ite (fun _ => reply_keeps _ _ _ _ s) fun _ => .ite (fun _ => reply_keeps _ _ _ _ s) fun _ =>
    (freeTake_keeps id s).trans (reply_keeps _ _ _ _ _)

theorem takeRewindCommand_keeps (id : Nat) (who : Slot) (s : State) : Keeps s (takeRewindCommand id who s) := by
  unfold takeRewindCommand
  split
  next => exact reply_keeps _ _ _ _ s
  next =>
    refine .ite (fun _ => reply_keeps _ _ _ _ s) fun _ => .ite (fun _ => reply_keeps _ _ _ _ s) fun _ =>
      (modTake_keeps (f := Take.rewound who.station) (fun t => ⟨⟨rfl, rfl, rfl⟩, ?_⟩) id s).trans (reply_keeps _ _ _ _ _)
    rintro ⟨size, extent, counts⟩
    refine ⟨size, extent, ?_⟩
    cases kind : t.kind <;> simp [kind, Take.rewound] at counts ⊢
    exact counts

/-! ### The commands of the Take Player -/

theorem acceptCue_keeps {s : State} (armed : s.ss.safety = .armed) (id rate : Nat) (mask : ChanSet) (who : Slot) :
    Keeps s (acceptCue id rate mask who s) := by
  refine .trans ?cueing ((requestEach_keeps _ _ _).trans ((enterLives_keeps _ _).trans (reply_keeps _ _ _ _ _)))
  exact withTpr_keeps fun _ => .inr armed

theorem armed_of_cueRefusal {s : State} {id rate : Nat} {mask : ChanSet} (accepted : s.cueRefusal id rate mask = none) :
    s.ss.safety = .armed := by
  unfold State.cueRefusal at accepted
  split at accepted
  next => cases accepted
  next =>
    split at accepted
    next => cases accepted
    next gate => exact not_not.mp (not_or.mp gate).1

theorem cueCommand_keeps (id rate : Nat) (mask : ChanSet) (who : Slot) (s : State) : Keeps s (cueCommand id rate mask who s) := by
  unfold cueCommand
  split
  next => exact reply_keeps _ _ _ _ s
  next accepted => exact acceptCue_keeps (armed_of_cueRefusal accepted) id rate mask who

theorem cueCancelCommand_keeps (who : Slot) (s : State) : Keeps s (cueCancelCommand who s) := by
  unfold cueCancelCommand
  split
  next => exact (passageToIdle_keeps _ s).trans (reply_keeps _ _ _ _ _)
  next => exact (passageToIdle_keeps _ s).trans (reply_keeps _ _ _ _ _)
  next => exact reply_keeps _ _ _ _ s

theorem armed_of_recordRefusal {s : State} {id : Nat} (accepted : s.recordRefusal id = none) : s.ss.safety = .armed := by
  unfold State.recordRefusal at accepted
  split at accepted
  next => cases accepted
  next gate => exact not_not.mp (not_or.mp gate).1

theorem acceptRecord_keeps {s : State} (armed : s.ss.safety = .armed) (id : Nat) : Keeps s (acceptRecord id s) := by
  refine .trans ?recording (modTake_keeps (f := fun t => { t with state := .recording }) (fun _ => ⟨⟨rfl, rfl, rfl⟩, fun h => h⟩) id _)
  exact withTpr_keeps fun _ => .inr armed

theorem recordCommand_keeps (id : Nat) (who : Slot) (s : State) : Keeps s (recordCommand id who s) := by
  unfold recordCommand
  split
  next => exact reply_keeps _ _ _ _ s
  next accepted => exact (acceptRecord_keeps (armed_of_recordRefusal accepted) id).trans (reply_keeps _ _ _ _ _)

theorem recordEndCommand_keeps (who : Slot) (s : State) : Keeps s (recordEndCommand who s) := by
  have ended (u : State) (busy : u.tpr.activity ≠ .idle) : Keeps u { u with tpr := { u.tpr with
      take := none, activity := .live, punch := false, punchMask := 0, punchIdx := none } } :=
    withTpr_keeps fun _ => .inl busy
  refine .ite (fun recording => ?_) fun _ => reply_keeps _ _ _ _ s
  exact (endRecording_keeps s).trans ((ended _ (by simp [recording])).trans (reply_keeps _ _ _ _ _))

theorem punchCommand_keeps (id : Nat) (mask : ChanSet) (who : Slot) (s : State) : Keeps s (punchCommand id mask who s) := by
  unfold punchCommand
  split
  next => exact reply_keeps _ _ _ _ s
  next =>
    refine .trans ?punched (reply_keeps _ _ _ _ _)
    exact withTpr_keeps .inl

/-! ### Every command -/

theorem whenOpen_completes {f : State → State} (kept : ∀ u, Keeps u (f u)) (s : State) : Completes s (whenOpen f s) :=
  completes_next (.when fun _ => kept s)

theorem whileReading_completes {f : State → State} (kept : ∀ u, Keeps u (f u)) (s : State) : Completes s (whileReading f s) :=
  completes_next (.when fun _ => kept s)

theorem execReset_completes (s : State) : Completes s (execReset s) := by
  refine completes_next (keeps_of_restarted ⟨rfl, rfl, rfl, rfl, rfl, rfl, rfl, rfl, rfl⟩ (fun _ => ?_) (fun _ => rfl) fun _ => ?_)
  · exact ⟨rfl, by simp [takesOf, State.reset, Ts.reset], by simp [takesOf, State.reset, Ts.reset]⟩
  · exact ⟨⟨Nat.zero_le _, .nil, by simp [State.reset, NodeCfg.none]⟩, Nat.zero_le _, .nil, by simp [State.reset, Ru.reset]⟩

theorem execReferenceEdge_completes (l : LineLevels) (order : List TickWork) (s : State) :
    Completes s (execReferenceEdge l order s) :=
  completes_next (.when fun _ => .ite (fun _ => (withFt_keeps _ s).trans (frameTick_keeps _ _ _ _)) fun _ => withFt_keeps _ s)

theorem execFlywheelTick_completes (l : LineLevels) (order : List TickWork) (s : State) :
    Completes s (execFlywheelTick l order s) :=
  completes_next (.when fun _ => (watchCycles_keeps _ s).trans ((withFt_keeps _ _).trans (frameTick_keeps _ _ _ _)))

theorem execServoTick_completes (l : LineLevels) (order : List TickWork) (s : State) : Completes s (execServoTick l order s) :=
  completes_next (.when fun _ => (watchCycles_keeps _ s).trans ((withFt_keeps _ _).trans (doWork_keeps _ _ _ _ _)))

theorem execRefLost_completes (s : State) : Completes s (execRefLost s) :=
  completes_next (.when fun _ => .ite (fun _ => loseReference_keeps s) fun _ =>
    (loseReference_keeps s).trans (withFt_keeps _ _))

theorem execLinkQuiet_completes (s : State) : Completes s (execLinkQuiet s) := by
  refine completes_next ?_
  split
  next => exact .refl s
  next => exact .refl s
  next => exact linkQuietAtEight_keeps s

theorem execAttempt_completes (s : State) : Completes s (execAttempt s) := by
  refine completes_next (.when fun _ => ?_)
  split
  next c _ => exact beginAttempt_keeps c s
  next => exact .refl s

theorem execTransmitFailure_completes (s : State) : Completes s (execTransmitFailure s) := by
  refine completes_next (.when fun _ => (attemptLost_keeps s).trans (.trans ?counted (.when fun _ => linkLost_keeps _)))
  exact withLif_keeps rfl rfl

theorem execAttemptSuccess_completes (s : State) : Completes s (execAttemptSuccess s) := by
  refine completes_next (.when fun _ => (attemptWon_keeps s).trans ?_)
  cases s.lif.inAttempt with
  | none => exact .refl _
  | some e => exact afterSuccess_keeps _ _

theorem execBadMessage_completes (reason : BadReason) (s : State) : Completes s (execBadMessage reason s) := by
  have counted : Keeps s (if s.deaf || s.lif.rxWait then lineBusy s else countBad (lineBusy s)) :=
    .ite (fun _ => lineBusy_keeps s) fun _ => (lineBusy_keeps s).trans (countBad_keeps _)
  refine completes_next (counted.trans ?_)
  cases reason with
  | early => exact lineFallsIdle_keeps _
  | check | length | framing | kindClass => exact .refl _

theorem execPollResponse_completes (answer : Answer) (address status : Byte) (position : U24) (s : State) :
    Completes s (execPollResponse answer address status position s) := by
  refine completes_next ?_
  split
  next r st _ _ _ =>
    refine .when fun _ => .trans ?taken (pollNext_keeps _ _ _)
    cases st with
    | fail => exact takeFail_keeps _ s
    | ok | warn => exact takeFresh_keeps _ _ _ _ s
  next => exact .refl s

theorem execReadResponse_completes (answer : Answer) (address status : Byte) (value : BitVec 32) (s : State) :
    Completes s (execReadResponse answer address status value s) := by
  refine completes_next ?_
  split
  next => exact .when fun _ => .ite (fun _ => completeRead_keeps _ _ s) fun _ => .when fun _ => completeRead_keeps _ _ s
  next => exact .refl s

theorem execState_completes (h : Header) (f : StateFields) (s : State) : Completes s (execState h f s) := by
  refine broadcastKind_completes (fun u => ?_) h _ s
  split
  next => exact .when fun _ => takeState_keeps _ _ _ _ _ u
  next => exact .refl u

/-- Every command has a next state, in which every invariant that held holds. -/
theorem exec_completes (c : Instr) (s : State) : Completes s (exec c s) := by
  cases c with
  | reset => exact execReset_completes s
  | resetRelease => exact completes_next (.when fun _ => .of (by simp [Passes, PassesRecords]))
  | noImage => exact whileReading_completes (readEnds_keeps _) s
  | leavingLoading image => exact whileReading_completes (readEnds_keeps image) s
  | faulted image => exact whileReading_completes (readEnds_keeps image) s
  | referenceEdge l order => exact execReferenceEdge_completes l order s
  | flywheelTick l order => exact execFlywheelTick_completes l order s
  | refLost => exact execRefLost_completes s
  | servoTick l order => exact execServoTick_completes l order s
  | rosterRemoval => exact whenOpen_completes removeAged_keeps s
  | peerLost => exact whenOpen_completes losePeers_keeps s
  | watchSlotUnknown => exact whenOpen_completes expireSlots_keeps s
  | learningWindowEnd => exact whenOpen_completes endLearning_keeps s
  | paceFloorReturn => exact whenOpen_completes returnFloor_keeps s
  | overflowClear => exact whenOpen_completes clearOverflow_keeps s
  | zoneClear => exact whenOpen_completes clearZones_keeps s
  | estopClear => exact whenOpen_completes clearEstop_keeps s
  | liveTimeout => exact whenOpen_completes timeOutLive_keeps s
  | linkQuiet => exact execLinkQuiet_completes s
  | enableSettleEnd => exact completes_next (endEnable_keeps s)
  | brakeReleaseEnd => exact completes_next (endRelease_keeps s)
  | brakeSetEnd => exact completes_next (endBrakeSet_keeps s)
  | startAction => exact whenOpen_completes startIfDue_keeps s
  | abortAction => exact whenOpen_completes abortIfDue_keeps s
  | parkTimeout => exact completes_next (parkIfDue_keeps s)
  | restartTimeout => exact completes_next (restartIfDue_keeps s)
  | wakeFrameTick => exact completes_next (wakeIfDue_keeps s)
  | attempt => exact execAttempt_completes s
  | arbitrationLost => exact completes_next (.when fun _ => attemptLost_keeps s)
  | transmitFailure => exact execTransmitFailure_completes s
  | attemptSuccess => exact execAttemptSuccess_completes s
  | badMessage reason => exact execBadMessage_completes reason s
  | impostorMessage => exact completes_next (.ite (fun _ => lineBusy_keeps s) fun _ => (lineBusy_keeps s).trans (impostor_keeps _))
  | stop h cause detail => exact broadcastKind_completes (takeClaim_keeps _ _ _) h _ s
  | clear h cause => exact broadcastKind_completes (takeClear_keeps _ _) h _ s
  | roll h more count factor pairs =>
    exact broadcastKind_completes (fun u => .when fun _ => (takeRoll_keeps _ _ _ u).trans (takeFactor_keeps _ _ _ _)) h _ s
  | pace h factor => exact broadcastKind_completes (fun u => takeFactor_keeps _ _ _ u) h _ s
  | abort h take => exact broadcastKind_completes (fun u => takeAbort_keeps _ _ u) h _ s
  | start h take lead => exact broadcastKind_completes (fun u => takeStart_keeps _ _ _ _ u) h _ s
  | live h enable mask mark values => exact addressedKind_completes (fun u => takeLive_keeps _ _ _ _ _ _ u) h _ s
  | state h fields => exact execState_completes h fields s
  | samples h take first last count records =>
    exact addressedKind_completes (fun u => .when fun _ => takeSamples_keeps _ _ _ _ _ u) h _ s
  | wake h mask crane0 crane1 crane2 crane3 =>
    exact completes_next (arrive_keeps (fun u => .when fun _ => takeWake_keeps _ _ _ _ u) .refl h s)
  | presenceOnly h => exact completes_next (arrive_keeps .refl .refl h s)
  | commandNotInCatalogue h serial code args => exact command_completes' (fun _ u => reply_keeps _ _ _ _ u) h serial s
  | arm h serial => exact command_completes (fun who u passable => armCommand_keeps (passable (by decide)) who) h serial s
  | disarm h serial => exact command_completes' disarmCommand_keeps h serial s
  | release h serial => exact command_completes' releaseCommand_keeps h serial s
  | park h serial => exact command_completes' parkCommand_keeps h serial s
  | takeOpen h serial args => exact command_completes' (takeOpenCommand_keeps args) h serial s
  | takeDelete h serial take => exact command_completes' (takeDeleteCommand_keeps _) h serial s
  | takeRewind h serial take => exact command_completes' (takeRewindCommand_keeps _) h serial s
  | cue h serial take rate mask => exact command_completes' (cueCommand_keeps _ _ _) h serial s
  | cueCancel h serial => exact command_completes' cueCancelCommand_keeps h serial s
  | record h serial take => exact command_completes' (recordCommand_keeps _) h serial s
  | recordEnd h serial => exact command_completes' recordEndCommand_keeps h serial s
  | punch h serial take mask => exact command_completes' (punchCommand_keeps _ _) h serial s
  | sensorRead h serial channel item => exact command_completes' (sensorReadCommand_keeps _ _) h serial s
  | readTakesLine => exact completes_next (readTakesLineNow_keeps s)
  | pollResponse answer address status position => exact execPollResponse_completes answer address status position s
  | readResponse answer address status value => exact execReadResponse_completes answer address status value s
  | sensorTimeout => exact completes_next (.when fun _ => (raise_keeps _ s).trans (completeRead_keeps _ _ _))
  | attention h serial start clear => exact command_completes' (attentionQuery_keeps _) h serial s
  | counters h serial start clear => exact command_completes' (fun _ u => reply_keeps _ _ _ _ u) h serial s
  | claims h serial start clear => exact command_completes' (fun _ u => reply_keeps _ _ _ _ u) h serial s
  | roster h serial start clear => exact command_completes' (fun _ u => reply_keeps _ _ _ _ u) h serial s
  | directory h serial start clear => exact command_completes' (directoryQuery_keeps _) h serial s
  | latch h serial start clear => exact command_completes' (latchQuery_keeps _ _) h serial s
  | restart h serial => exact command_completes' restartCommand_keeps h serial s
  | lineIdle => exact completes_next (lineFallsIdle_keeps s)

/-- Every step keeps every invariant. -/
theorem step_keeps {s t : State} (stepped : step s = .next t) : Keeps s t := by
  unfold step at stepped
  split at stepped
  next =>
    obtain rfl := Host.Outcome.next.inj stepped
    exact .refl s
  next c rest _ =>
    obtain ⟨u, ran, kept⟩ := exec_completes c (s.withPending rest)
    obtain rfl := Host.Outcome.next.inj (ran.symm.trans stepped)
    have taken : Keeps s (s.withPending rest) := .of (by simp [Passes, PassesRecords])
    exact taken.trans kept

/-! ### The invariants of the node -/

/-- Settles O53: the part of `step_keeps` that reads the claims list. -/
theorem claimsStayOrdered : Obligations.ClaimsStayOrdered := fun _ _ ordered stepped => (step_keeps stepped).claims ordered

/-- Settles O54: the part of `step_keeps` that reads the transmit queues. -/
theorem queuesStaySound : Obligations.QueuesStaySound := fun _ _ sound stepped => (step_keeps stepped).queues sound

/-- Settles O55: the parts of `step_keeps` that read the brakes, the modes and the drives. -/
theorem drivesAndBrakesStaySafe : Obligations.DrivesAndBrakesStaySafe :=
  ⟨fun _ _ safe stepped => (step_keeps stepped).brakes safe, fun _ _ off stepped => (step_keeps stepped).offs off,
    fun _ _ gated stepped => (step_keeps stepped).drives gated⟩

/-- Settles O56: the part of `step_keeps` that reads the activity. -/
theorem activityStaysGated : Obligations.ActivityStaysGated := fun _ _ gated stepped => (step_keeps stepped).activity gated

/-- Settles O57: the parts of `step_keeps` that read the directory and the sample store. -/
theorem takeStoreStaysSound : Obligations.TakeStoreStaysSound :=
  ⟨fun _ _ sound stepped => (step_keeps stepped).directory sound, fun _ _ wf stepped => (step_keeps stepped).store wf⟩

/-- Settles O58: the part of `step_keeps` that reads the Pace Unit. -/
theorem paceStaysSound : Obligations.PaceStaysSound := fun _ _ sound stepped => (step_keeps stepped).pace sound

/-- Settles O59: the part of `step_keeps` that reads the roster. -/
theorem rosterStaysSound : Obligations.RosterStaysSound := fun _ _ sound stepped => (step_keeps stepped).roster sound

end Sys2Proof.Machine
end

section
/-! Steps, the completion of every command, RESET, and the counts, the bad messages and the passages that touch one field. -/

namespace Sys2Proof.Machine

open Sys2Proof

/-! ### Steps and the commands that wait -/

/-- Settles O1: both clauses are the two arms of `step`. -/
theorem stepRunsTheFrontCommand : Obligations.StepRunsTheFrontCommand := by
  refine ⟨fun c rest s front => ?_, fun s empty => ?_⟩
  · unfold step
    rw [front]
    rfl
  · unfold step
    rw [empty]

/-- A command leads to a next state with the same commands waiting. -/
def LeavesWaiting (s : State) (o : Host.Outcome State Fault Refusal) : Prop := ∃ t, o = .next t ∧ t.pending = s.pending

theorem next_leavesWaiting {s t : State} (same : t.pending = s.pending) : LeavesWaiting s (.next t) := ⟨t, rfl, same⟩

theorem ite_pending_eq {s t u : State} {p : Prop} [Decidable p] (yes : t.pending = s.pending) (no : u.pending = s.pending) :
    (if p then t else u).pending = s.pending := by
  split
  next => exact yes
  next => exact no

theorem arrive_pending {parked deliver : State → State} (hp : ∀ u, (parked u).pending = u.pending)
    (hd : ∀ u, (deliver u).pending = u.pending) (h : Header) (s : State) : (arrive h parked deliver s).pending = s.pending := by
  unfold arrive
  dsimp only
  repeat' split
  all_goals simp [hp, hd]

theorem broadcastKind_leavesWaiting {f : State → State} (same : ∀ u, (f u).pending = u.pending) (h : Header) (n : Nat)
    (s : State) : LeavesWaiting s (broadcastKind h n f s) :=
  next_leavesWaiting (arrive_pending (fun _ => rfl) (fun u => ite_pending_eq (same u) rfl) h s)

theorem addressedKind_leavesWaiting {f : State → State} (same : ∀ u, (f u).pending = u.pending) (h : Header)
    (n : State → Nat) (s : State) : LeavesWaiting s (addressedKind h n f s) :=
  next_leavesWaiting (arrive_pending (fun _ => rfl) (fun u => ite_pending_eq (ite_pending_eq (same u) rfl) rfl) h s)

theorem commandUnit_pending {owner : State → State} (same : ∀ u, (owner u).pending = u.pending) (who : Slot)
    (code length : Nat) (s : State) : (commandUnit who code length owner s).pending = s.pending := by
  unfold commandUnit
  split
  next => simp
  next => exact ite_pending_eq (same s) (by simp)

theorem command_leavesWaiting {owner : Slot → State → State} (same : ∀ who u, (owner who u).pending = u.pending)
    (h : Header) (serial : Byte) (code : Nat) (s : State) : LeavesWaiting s (command h serial code owner s) :=
  next_leavesWaiting (arrive_pending (fun _ => rfl)
    (fun u => ite_pending_eq (commandUnit_pending (same _) _ code h.length.toNat u) rfl) h s)

theorem whenOpen_leavesWaiting {f : State → State} (same : ∀ u, (f u).pending = u.pending) (s : State) :
    LeavesWaiting s (whenOpen f s) := next_leavesWaiting (ite_pending_eq (same s) rfl)

theorem whileReading_leavesWaiting {f : State → State} (same : ∀ u, (f u).pending = u.pending) (s : State) :
    LeavesWaiting s (whileReading f s) := next_leavesWaiting (ite_pending_eq (same s) rfl)

theorem execLinkQuiet_leavesWaiting (s : State) : LeavesWaiting s (execLinkQuiet s) := by
  refine next_leavesWaiting ?_
  split <;> simp

theorem execAttempt_leavesWaiting (s : State) : LeavesWaiting s (execAttempt s) := by
  refine next_leavesWaiting (ite_pending_eq ?_ rfl)
  split <;> rfl

theorem execAttemptSuccess_leavesWaiting (s : State) : LeavesWaiting s (execAttemptSuccess s) := by
  refine next_leavesWaiting (ite_pending_eq ?_ rfl)
  cases s.lif.inAttempt <;> simp

theorem execBadMessage_leavesWaiting (reason : BadReason) (s : State) : LeavesWaiting s (execBadMessage reason s) := by
  refine next_leavesWaiting ?_
  dsimp only
  repeat' split
  all_goals simp

theorem execPollResponse_leavesWaiting (answer : Answer) (address status : Byte) (position : U24) (s : State) :
    LeavesWaiting s (execPollResponse answer address status position s) := by
  refine next_leavesWaiting ?_
  dsimp only
  repeat' split
  all_goals simp

theorem execReadResponse_leavesWaiting (answer : Answer) (address status : Byte) (value : BitVec 32) (s : State) :
    LeavesWaiting s (execReadResponse answer address status value s) := by
  refine next_leavesWaiting ?_
  repeat' split
  all_goals simp

theorem execState_leavesWaiting (h : Header) (f : StateFields) (s : State) : LeavesWaiting s (execState h f s) := by
  refine broadcastKind_leavesWaiting (fun u => ?_) h _ s
  repeat' split
  all_goals simp

theorem execFlywheelTick_leavesWaiting (l : LineLevels) (order : List TickWork) (s : State) :
    LeavesWaiting s (execFlywheelTick l order s) := next_leavesWaiting (ite_pending_eq (by simp) rfl)

theorem execReferenceEdge_leavesWaiting (l : LineLevels) (order : List TickWork) (s : State) :
    LeavesWaiting s (execReferenceEdge l order s) :=
  next_leavesWaiting (ite_pending_eq (ite_pending_eq (by simp) (by simp)) rfl)

theorem execServoTick_leavesWaiting (l : LineLevels) (order : List TickWork) (s : State) :
    LeavesWaiting s (execServoTick l order s) := next_leavesWaiting (ite_pending_eq (by simp) rfl)

theorem execRefLost_leavesWaiting (s : State) : LeavesWaiting s (execRefLost s) :=
  next_leavesWaiting (ite_pending_eq (ite_pending_eq (by simp) (by simp)) rfl)

theorem exec_leavesWaiting (c : Instr) (s : State) : LeavesWaiting s (exec c s) := by
  cases c with
  | reset => exact next_leavesWaiting rfl
  | resetRelease => exact next_leavesWaiting (ite_pending_eq rfl rfl)
  | noImage | leavingLoading | faulted => exact whileReading_leavesWaiting (by simp) s
  | referenceEdge l order => exact execReferenceEdge_leavesWaiting l order s
  | flywheelTick l order => exact execFlywheelTick_leavesWaiting l order s
  | servoTick l order => exact execServoTick_leavesWaiting l order s
  | refLost => exact execRefLost_leavesWaiting s
  | rosterRemoval | peerLost | watchSlotUnknown | learningWindowEnd | paceFloorReturn | overflowClear | zoneClear | estopClear
  | liveTimeout | startAction | abortAction => exact whenOpen_leavesWaiting (by simp) s
  | linkQuiet => exact execLinkQuiet_leavesWaiting s
  | enableSettleEnd | brakeReleaseEnd | brakeSetEnd | parkTimeout | restartTimeout | wakeFrameTick | lineIdle
  | readTakesLine => exact next_leavesWaiting (by simp)
  | attempt => exact execAttempt_leavesWaiting s
  | arbitrationLost => exact next_leavesWaiting (ite_pending_eq rfl rfl)
  | transmitFailure => exact next_leavesWaiting (ite_pending_eq (by simp) rfl)
  | attemptSuccess => exact execAttemptSuccess_leavesWaiting s
  | badMessage reason => exact execBadMessage_leavesWaiting reason s
  | impostorMessage => exact next_leavesWaiting (ite_pending_eq (by simp) (by simp))
  | stop | clear | pace | abort | start => exact broadcastKind_leavesWaiting (by simp) _ _ s
  | roll => exact broadcastKind_leavesWaiting (fun u => ite_pending_eq (by simp) rfl) _ _ s
  | live => exact addressedKind_leavesWaiting (by simp) _ _ s
  | state h fields => exact execState_leavesWaiting h fields s
  | samples => exact addressedKind_leavesWaiting (fun u => ite_pending_eq (by simp) rfl) _ _ s
  | wake => exact next_leavesWaiting (arrive_pending (fun u => ite_pending_eq (by simp) rfl) (fun _ => rfl) _ s)
  | presenceOnly => exact next_leavesWaiting (arrive_pending (fun _ => rfl) (fun _ => rfl) _ s)
  | commandNotInCatalogue h serial code args =>
    exact command_leavesWaiting (owner := fun who u => reply who code.toNat .badArg .none u) (by simp) h serial _ s
  | arm | disarm | release | park | takeOpen | takeDelete | takeRewind | cue | cueCancel | record
  | recordEnd | punch | sensorRead | attention | counters | claims | roster | directory | latch | restart =>
    exact command_leavesWaiting (by simp) _ _ _ s
  | pollResponse answer address status position => exact execPollResponse_leavesWaiting answer address status position s
  | readResponse answer address status value => exact execReadResponse_leavesWaiting answer address status value s
  | sensorTimeout => exact next_leavesWaiting (ite_pending_eq (by simp) rfl)

/-- Settles O2: every arm of `exec` gives a next state, and no operation touches the commands that wait. -/
theorem everyCommandCompletes : Obligations.EveryCommandCompletes := exec_leavesWaiting

/-! ### RESET -/

/-- An empty sample store reads blank at every position. -/
theorem read_nil (p : Nat) : Memory.read [] p = blank := rfl

/-- Settles O3: the values are those that the blocks' `reset` columns write. -/
theorem resetGivesTheResetColumns : Obligations.ResetGivesTheResetColumns := by
  refine ⟨fun s => ⟨{ State.reset with pending := s.pending }, rfl, rfl, ?_⟩, fun s asserted => ?_⟩
  · simp [State.reset, Lif.reset, Ft.reset, Ru.reset, WatchSlot.reset, Config.watchSlots, Chan.reset, Spl.reset, Reading.reset,
      Dlu.reset, DriveLine.reset, Ss.reset, Pu.reset, Zu.reset, LineFilter.reset, Config.zoneLines, Config.estopInputs,
      Ts.reset, Config.dirSize, read_nil, blank, Tpr.reset, Cl.reset]
  · unfold exec execResetRelease
    rw [if_pos asserted]

/-- Settles O60: every list is empty, every drive off and every channel in OFF. -/
theorem invariantsHoldAtReset : Obligations.InvariantsHoldAtReset := by
  have passages : PassagesSafe State.reset := passagesSafe_of_none_pending rfl rfl
  have off (i : Nat) : (State.reset.dlu.lines.get i).enable = false := by simp [State.reset, Dlu.reset, DriveLine.reset]
  have set (i : Nat) : (State.reset.dlu.lines.get i).released = false := by simp [State.reset, Dlu.reset, DriveLine.reset]
  refine ⟨rfl, ⟨Nat.zero_le _, .nil⟩, queuesSound_of_empty rfl rfl, fun i _ released => ?brakes, fun i _ _ => ?modes,
    ⟨passages, fun i _ on => ?drives⟩, ⟨passages, fun busy => absurd rfl busy⟩, ?directory, ?pace, ?roster⟩
  case brakes => rw [set i] at released; cases released
  case modes => simp [State.reset, Chan.reset]
  case drives => rw [off i] at on; cases on
  case directory => exact ⟨rfl, fun _ none => absurd none List.not_mem_nil, .nil⟩
  case pace => simp [PaceSound, State.reset, Pu.reset]
  case roster => exact ⟨⟨Nat.zero_le _, .nil, by decide⟩, Nat.zero_le _, .nil, by decide⟩

/-! ### Counts and ages -/

theorem whenOpen_eq {s : State} (open_ : s.ss.safety.isOpen = true) (f : State → State) : whenOpen f s = .next (f s) := by
  unfold whenOpen
  rw [if_pos open_]

theorem expireSlots_eq (s : State) : expireSlots s =
    { s with ru.slots := s.ru.slots.map fun w => if s.cfg.lossTimeout < w.age then { w with value := none } else w } := rfl

/-- Settles O9: each row runs its one operation, whose test the hypotheses decide. -/
theorem countsAndAgesReachTheirEnds : Obligations.CountsAndAgesReachTheirEnds := by
  refine ⟨fun s open_ => whenOpen_eq open_ removeAged, fun s open_ => whenOpen_eq open_ expireSlots, fun s open_ last => ?learning,
    fun s open_ quiet low => ?floor, fun s open_ quiet set => ?overflow, fun s notLoading notParked eight => ?quiet⟩
  case learning =>
    refine (whenOpen_eq open_ endLearning).trans ?_
    rw [endLearning, if_pos last]
  case floor =>
    refine (whenOpen_eq open_ returnFloor).trans ?_
    rw [returnFloor, if_pos ⟨quiet.ge, low⟩]
    rfl
  case overflow =>
    refine (whenOpen_eq open_ clearOverflow).trans ?_
    rw [clearOverflow, if_pos ⟨set, quiet.ge⟩]
  case quiet =>
    have raised : linkQuietAtEight s = { s with attention := s.attention ||| 64#16 } := if_pos eight
    change execLinkQuiet s = _
    unfold execLinkQuiet
    split
    next loading => exact absurd loading notLoading
    next parked => exact absurd parked notParked
    next => rw [raised]

/-! ### Bad and impostor messages -/

theorem not_deaf_of_open {s : State} (open_ : s.ss.safety.isOpen = true) : s.deaf = false := by
  unfold State.deaf
  split <;> simp_all [Safety.isOpen]

theorem impostor_of_open {s : State} (open_ : s.ss.safety.isOpen = true) :
    impostor s = raiseOwn .duplicate s.cfg.station { s with lif.dupQuiet := 0 } := by
  unfold impostor
  split
  next parked => simp [parked, Safety.isOpen] at open_
  next => rfl

/-- Settles O22: the receiver's tests pass, and each reason does what its line of R5 and R7 says. -/
theorem badAndImpostorMessages : Obligations.BadAndImpostorMessages := by
  refine ⟨fun s r late hearing receiving => ?bad, fun s hearing receiving idle => ?early, fun s idle => ?lineIdle,
    fun s open_ receiving => ?impostor⟩
  case bad =>
    have counted : execBadMessage r s = .next (countBad (lineBusy s)) := by
      cases r <;> simp_all [execBadMessage]
    exact counted
  case early =>
    have quiet : (countBad (lineBusy s)).lif.busy = false := idle
    have counted : execBadMessage .early s = .next (lineFallsIdle (countBad (lineBusy s))) := by
      simp [execBadMessage, hearing, receiving]
    rw [lineFallsIdle, if_neg (by simp [quiet])] at counted
    exact counted
  case lineIdle =>
    unfold exec execLineIdle
    rw [lineFallsIdle, if_neg (by simp [idle])]
  case impostor =>
    unfold exec execImpostorMessage
    rw [not_deaf_of_open open_, receiving]
    exact congrArg Host.Outcome.next (impostor_of_open (s := lineBusy s) open_)

/-! ### PARK and RESTART -/

/-- A COMMAND that passes the tests of R189 with the LENGTH of its code goes to its owner, in whatever state the node is. -/
theorem command_of_gate {h : Header} {serial : Byte} {code n : Nat} {owner : Slot → State → State} {s : State}
    (received : receives h s = true) (addressed : s.addressed h = true) (length : h.length.toNat = 2 + n)
    (passed : (heard h s).gate h.source.toNat code = none) (octets : argOctets code = some n) :
    command h serial code owner s = .next (owner (caller h serial) (heard h s)) := by
  unfold command
  dsimp only
  rw [arrive_of_receives h _ _ s received]
  simp [addressed, length, commandUnit, passed, octets, caller]

theorem not_parkPending_of_obeys {h : Header} {n : Nat} {s : State} (taken : obeys h n s = true) :
    s.ru.parkPending = false ∧ s.cl.restartPending = false := by
  obtain ⟨_, _, _, _, _, park, restart⟩ := (obeys_iff h n s).1 taken
  exact ⟨park, restart⟩

/-- In an open state, not DISARMED is neither DISARMED nor FAULTED. -/
theorem not_faulted_of_open {s : State} (open_ : s.ss.safety.isOpen = true) : s.ss.safety ≠ .faulted := by
  intro faulted
  simp [faulted, Safety.isOpen] at open_

/-- Settles O37: the commands that pass the tests reach `parkCommand` and `restartCommand`, and a FAULTED node admits RESTART. -/
theorem parkAndRestartWaitWithTheirFlag : Obligations.ParkAndRestartWaitWithTheirFlag := by
  refine ⟨fun h serial s taken => ?_, fun h serial s received addressed length faulted may park restart => ?_⟩
  · have parked := command_of_obeys h serial codePark 0 parkCommand s taken rfl
    have restarted := command_of_obeys h serial codeRestart 0 restartCommand s taken rfl
    obtain ⟨_, open_, _⟩ := (obeys_iff h 0 s).1 taken
    refine ⟨fun disarmed => ⟨?_, ?_⟩, fun other => ⟨?_, ?_⟩⟩
    · refine parked.trans ?_
      rw [parkCommand, if_pos (by simpa using disarmed)]
      rfl
    · refine restarted.trans ?_
      rw [restartCommand, if_pos (by simp [disarmed])]
      rfl
    · refine parked.trans ?_
      rw [parkCommand, if_neg (by simpa using other)]
      rfl
    · refine restarted.trans ?_
      rw [restartCommand, if_neg (by simp [other, not_faulted_of_open open_])]
      rfl
  · have passed : (heard h s).gate h.source.toNat codeRestart = none := by
      have access : s.isControl h.source.toNat = true ∨ s.cfg.controlsKnown = false := may
      rcases access with control | unknown <;>
        simp_all [State.gate, State.mayCommand, State.admits, codeRestart, argOctets, codeStatusQuery]
    refine (command_of_gate received addressed (n := 0) (by simp [length]) passed rfl).trans ?_
    rw [restartCommand, if_pos (by simp [faulted])]
    rfl

end Sys2Proof.Machine
end

section
/-! The two ways out of LOADING: the values of a valid image, and the first failure of a read that fails. -/

namespace Sys2Proof.Machine

open Sys2Proof

/-! ### What a valid image gives -/

/-- The pinned entries are those of the required peers. -/
theorem mem_pinnedRoster {s : State} {e : RosterEntry} : e ∈ s.pinnedRoster ↔ ∃ p ∈ s.cfg.peers, e = s.pinnedEntry p := by
  have loop : ∀ (ps : List Nat) (r : List RosterEntry),
      e ∈ ps.foldl (fun r p => insertEntry (s.pinnedEntry p) r) r ↔ e ∈ r ∨ ∃ p ∈ ps, e = s.pinnedEntry p := by
    intro ps
    induction ps with
    | nil => simp
    | cons p ps ih =>
      intro r
      simp only [List.foldl_cons, ih, mem_insertEntry, List.exists_mem_cons_iff]
      tauto
  simpa [State.pinnedRoster] using loop s.cfg.peers []

/-- Each required peer has its fresh pinned entry, and no other station has one (R33). -/
theorem pinnedRoster_columns (s : State) :
    (∀ e ∈ s.pinnedRoster, e.pinned = true ∧ e.heard = false ∧ e.age = 0 ∧ e.last = none) ∧
      ∀ p, p ∈ s.cfg.peers ↔ ∃ e ∈ s.pinnedRoster, e.station = p := by
  refine ⟨fun e he => ?_, fun p => ⟨fun hp => ?_, fun ⟨e, he, station⟩ => ?_⟩⟩
  · obtain ⟨p, _, rfl⟩ := mem_pinnedRoster.mp he
    exact ⟨rfl, rfl, rfl, rfl⟩
  · exact ⟨s.pinnedEntry p, mem_pinnedRoster.mpr ⟨p, hp, rfl⟩, rfl⟩
  · obtain ⟨q, hq, rfl⟩ := mem_pinnedRoster.mp he
    exact station ▸ hq

theorem effectiveRanges_get (cfg : NodeCfg) (active : List Bool) {i : Nat} (hi : i < 4) (has : i < cfg.nChans) :
    (effectiveRanges cfg active).get i = effectiveRange cfg active i := by
  unfold effectiveRanges
  rw [quad_get_foldl_set _ _ _ hi, if_pos (List.mem_range.mpr has)]

/-- With every entry active, the soft range is narrowed by every entry for the channel (R130). -/
theorem effectiveRange_all (cfg : NodeCfg) (i : Nat) :
    effectiveRange cfg (cfg.cross.map fun _ => true) i =
      (((cfg.cross.filter fun e => e.channel == i).map (·.limLow)).foldl max (cfg.chan.get i).lo,
        ((cfg.cross.filter fun e => e.channel == i).map (·.limHigh)).foldl min (cfg.chan.get i).hi) := by
  have loop : ∀ (l : List CrossCfg) (r : Int × Int),
      (l.zip (l.map fun _ => true)).foldl
          (fun r e => if e.2 ∧ e.1.channel = i then (max r.1 e.1.limLow, min r.2 e.1.limHigh) else r) r =
        (((l.filter fun e => e.channel == i).map (·.limLow)).foldl max r.1,
          ((l.filter fun e => e.channel == i).map (·.limHigh)).foldl min r.2) := by
    intro l
    induction l with
    | nil => exact fun _ => rfl
    | cons e l ih =>
      intro r
      by_cases mine : e.channel = i <;> simp [mine, ih, -List.map_const']
  exact loop cfg.cross _

/-- The Interlock Unit with every entry active (R130, R133). -/
theorem iuAllActive_columns (cfg : NodeCfg) :
    (∀ a ∈ (iuAllActive cfg).active, a = true) ∧ (iuAllActive cfg).active.length = cfg.cross.length ∧
      ∀ i < 4, i < cfg.nChans → (iuAllActive cfg).ranges.get i =
        (((cfg.cross.filter fun e => e.channel == i).map (·.limLow)).foldl max (cfg.chan.get i).lo,
          ((cfg.cross.filter fun e => e.channel == i).map (·.limHigh)).foldl min (cfg.chan.get i).hi) := by
  refine ⟨by simp [iuAllActive], by simp [iuAllActive], fun i hi has => ?_⟩
  exact (effectiveRanges_get cfg _ hi has).trans (effectiveRange_all cfg i)

/-- The store after the CHANNEL-COUNT test: kept for a first width and for the same width, blank for another (R150, R151). -/
theorem settle_columns (n : Nat) (ts : Ts) :
    (Ts.settle n ts).width = some n ∧
      (ts.width = none → (Ts.settle n ts).store = ts.store ∧ (Ts.settle n ts).dir = ts.dir) ∧
      (ts.width = some n → (Ts.settle n ts).store = ts.store ∧
        (Ts.settle n ts).dir = ts.dir.map (Option.map fun k => { k with held := false })) ∧
      ∀ w, ts.width = some w → w ≠ n → (Ts.settle n ts).store = [] ∧ (Ts.settle n ts).dir = List.replicate 8 none := by
  unfold Ts.settle
  cases width : ts.width with
  | none => exact ⟨rfl, fun _ => ⟨rfl, rfl⟩, (by simp), by simp⟩
  | some w =>
    by_cases same : w = n
    · subst same
      dsimp only
      rw [if_pos rfl]
      exact ⟨rfl, (by simp), fun _ => ⟨rfl, rfl⟩, fun v hv ne => absurd (Option.some.inj hv).symm ne⟩
    · simp [same, Ts.reset, Config.dirSize]

namespace Image

theorem verdict_none_iff {img : Image} :
    img.verdict = none ↔ failure img.headerChecks = none ∧ failure img.firstChecks = none ∧ failure img.laterChecks = none := by
  unfold verdict
  cases failure img.headerChecks <;> cases failure img.firstChecks <;> simp

theorem countsGood_iff {img : Image} :
    img.countsGood = true ↔ failure img.headerChecks = none ∧ failure img.firstChecks = none := by
  simp [countsGood, intact]

end Image

/-- The end of a read that gave a valid image (R201). -/
theorem readEnds_of_valid {img : Image} (valid : img.verdict = none) (s : State) :
    readEnds img s = leaveLoading img.config (Ts.settle img.nChans s.ts) s := by
  obtain ⟨header, first, _⟩ := Image.verdict_none_iff.mp valid
  unfold readEnds
  rw [valid, if_pos (Image.countsGood_iff.mpr ⟨header, first⟩)]

theorem whileReading_eq {s : State} (reading : s.cl.read = .reading) (f : State → State) : whileReading f s = .next (f s) := by
  unfold whileReading
  rw [if_pos reading]

/-- Settles O4: the blocks are at their RESET values but for the ones the "Leaving LOADING" columns name, and those are the
pinned roster, the table of active entries and the settled store. -/
theorem validImageEntersDisarmed : Obligations.ValidImageEntersDisarmed := by
  intro img s reading valid
  refine ⟨leaveLoading img.config (Ts.settle img.nChans s.ts) s, ?_, ?_⟩
  · exact (whileReading_eq reading _).trans (congrArg _ (readEnds_of_valid valid s))
  obtain ⟨pinned, peers⟩ := pinnedRoster_columns { s with cfg := img.config }
  obtain ⟨active, length, ranges⟩ := iuAllActive_columns img.config
  obtain ⟨width, first, same, other⟩ := settle_columns img.nChans s.ts
  have roster : (leaveLoading img.config (Ts.settle img.nChans s.ts) s).ru.roster =
      State.pinnedRoster { s with cfg := img.config } := rfl
  refine ⟨rfl, rfl, rfl, rfl, rfl, rfl, rfl, rfl, rfl, rfl, rfl, rfl, rfl, rfl, rfl, rfl, rfl, rfl, rfl, rfl, rfl, rfl, rfl, rfl,
    rfl, rfl, rfl, rfl, ?_⟩
  rw [roster]
  refine ⟨pinned, peers, ?chans, ?readings, rfl, ?lines, rfl, rfl, rfl, rfl, rfl, rfl, rfl, rfl, rfl, rfl, rfl, rfl, rfl, rfl,
    rfl, rfl, rfl, rfl, rfl, rfl, rfl, rfl, ?live, active, ?_, ranges, width, same, other, first, rfl, rfl, rfl⟩
  case chans => simp [leaveLoading, State.reset, Chan.reset]
  case readings => simp [leaveLoading, State.reset, Spl.reset, Reading.reset]
  case lines => simp [leaveLoading, State.reset, Dlu.reset, DriveLine.reset]
  case live => simp [leaveLoading, State.reset, Tpr.reset, LiveChan.reset]
  exact length

end Sys2Proof.Machine
end

section
/-! A read that fails: the first condition that does not hold, what the FAULTED node keeps, and what a valid image meets. -/

namespace Sys2Proof.Machine

open Sys2Proof

namespace Image

/-! ### The first failure of a list of conditions -/

theorem failure_cons_of_holds {c : Check} {l : List Check} (holds : c.holds = true) : failure (c :: l) = failure l := by
  simp [failure, holds]

/-- The codes of a list of conditions all lie above a number. -/
def CodesAbove (k : Nat) (l : List Check) : Prop := ∀ d ∈ l, k < d.code

theorem CodesAbove.cons {k : Nat} {c : Check} {l : List Check} (above : CodesAbove c.code l) (lt : k < c.code) :
    CodesAbove k (c :: l) := by
  intro d hd
  rcases List.mem_cons.mp hd with rfl | hd
  · exact lt
  · exact lt.trans (above d hd)

/-- A condition with a code below those of the later ones is the first failure when it does not hold, and only then. -/
theorem failure_cons_iff {c : Check} {l : List Check} (above : CodesAbove c.code l) :
    failure (c :: l) = some { code := c.code, item := c.item, holds := false } ↔ c.holds = false := by
  cases holds : c.holds with
  | true =>
    rw [failure_cons_of_holds holds]
    refine ⟨fun found => ?_, nofun⟩
    exact absurd (above _ (List.mem_of_find?_eq_some (p := fun c : Check => !c.holds) found)) (lt_irrefl _)
  | false =>
    obtain ⟨code, item, _⟩ := c
    subst holds
    simp [failure]

theorem verdict_eq_failure (img : Image) :
    img.verdict = failure (img.headerChecks ++ img.firstChecks ++ img.laterChecks) := by
  unfold verdict
  simp only [failure, List.find?_append]
  cases List.find? (fun c : Check => !c.holds) img.headerChecks with
  | some c => rfl
  | none =>
    cases List.find? (fun c : Check => !c.holds) img.firstChecks with
    | some c => rfl
    | none => simp

theorem verdict_eq_some_iff {img : Image} {c : Check} : img.verdict = some c ↔ c.holds = false ∧
    ∃ pre post, img.headerChecks ++ img.firstChecks ++ img.laterChecks = pre ++ c :: post ∧ ∀ d ∈ pre, d.holds = true := by
  rw [verdict_eq_failure, failure, List.find?_eq_some_iff_append]
  simp

/-! ### The codes of the conditions -/

theorem stationChecks_code {code own : Nat} {l : List Nat} {c : Check} (hc : c ∈ stationChecks code own l) : c.code = code := by
  obtain ⟨_, _, rfl⟩ := List.mem_mapIdx.mp hc
  rfl

/-- The conditions up to the CHANNEL-COUNT test after the first three. -/
def countChecks (img : Image) : List Check :=
  ⟨6, if img.nControls = 0 then 0 else 2, inRange 1 2 img.nControls⟩ ::
    (stationChecks 6 img.station img.controls ++ [⟨7, 0, inRange 1 4 img.nChans⟩])

theorem firstChecks_eq (img : Image) : img.firstChecks =
    ⟨3, 0, img.endAt == img.length⟩ :: ⟨4, 0, img.identity⟩ :: ⟨5, 0, img.timingGood⟩ :: img.countChecks := rfl

theorem countChecks_code {img : Image} {c : Check} (hc : c ∈ img.countChecks) : c.code = 6 ∨ c.code = 7 := by
  simp only [countChecks, List.mem_cons, List.mem_append] at hc
  rcases hc with rfl | hc | rfl | none
  · exact .inl rfl
  · exact .inl (stationChecks_code hc)
  · exact .inr rfl
  · cases none

theorem earlyChecks_code {img : Image} {c : Check} (hc : c ∈ img.headerChecks ++ img.firstChecks) : c.code ≤ 7 := by
  simp only [headerChecks, firstChecks_eq, List.mem_append, List.mem_cons] at hc
  rcases hc with (rfl | rfl | none) | rfl | rfl | rfl | hc
  · exact Nat.le_of_ble_eq_true rfl
  · exact Nat.le_of_ble_eq_true rfl
  · cases none
  · exact Nat.le_of_ble_eq_true rfl
  · exact Nat.le_of_ble_eq_true rfl
  · exact Nat.le_of_ble_eq_true rfl
  · have := countChecks_code hc
    omega

theorem chanChecks_code {img : Image} {n : Nat} {c : Check} (hc : c ∈ img.chanChecks n) : 8 ≤ c.code := by
  simp only [chanChecks, List.mem_cons, List.not_mem_nil, or_false] at hc
  rcases hc with rfl | rfl | rfl | rfl | rfl | rfl | rfl <;> exact Nat.le_of_ble_eq_true rfl

theorem laterChecks_code {img : Image} {c : Check} (hc : c ∈ img.laterChecks) : 8 ≤ c.code := by
  simp only [laterChecks, List.mem_append, List.mem_cons, List.mem_flatMap, List.mem_map] at hc
  rcases hc with (((⟨n, _, hc⟩ | ⟨n, _, rfl⟩) | rfl | hc) | rfl | ⟨n, _, rfl⟩) | rfl | ⟨n, _, rfl⟩
  · exact chanChecks_code hc
  · exact Nat.le_of_ble_eq_true rfl
  · exact Nat.le_of_ble_eq_true rfl
  · rw [stationChecks_code hc]
    exact Nat.le_of_ble_eq_true rfl
  · exact Nat.le_of_ble_eq_true rfl
  · exact Nat.le_of_ble_eq_true rfl
  · exact Nat.le_of_ble_eq_true rfl
  · exact Nat.le_of_ble_eq_true rfl

/-- The CHANNEL-COUNT test is passed when the first failure comes after it, and only then. -/
theorem countsGood_of_verdict {img : Image} {c : Check} (found : img.verdict = some c) : img.countsGood = true ↔ 8 ≤ c.code := by
  rw [countsGood_iff]
  unfold verdict at found
  split at found
  next d header =>
    obtain rfl := Option.some.inj found
    have := earlyChecks_code (List.mem_append_left img.firstChecks (List.mem_of_find?_eq_some header))
    simp only [header]
    exact ⟨nofun, by omega⟩
  next header =>
    split at found
    next d first =>
      obtain rfl := Option.some.inj found
      have := earlyChecks_code (List.mem_append_right img.headerChecks (List.mem_of_find?_eq_some first))
      simp only [first]
      exact ⟨nofun, by omega⟩
    next first => exact ⟨fun _ => laterChecks_code (List.mem_of_find?_eq_some found), fun _ => ⟨header, first⟩⟩

/-! ### The order of the first five conditions -/

/-- The verdict goes through the conditions with codes 1 to 5 in this order; the others have higher codes. -/
theorem verdict_order (img : Image) : ∃ rest, CodesAbove 5 rest ∧ img.verdict = failure
    (⟨1, 0, decide (5 ≤ List.length img) && img.version == 1 && inRange fixedOctets 8192 img.length &&
        decide (img.length ≤ List.length img)⟩ ::
      ⟨2, 0, (crcOctets ((List.take img.length img).drop 5)).toNat == img.check⟩ :: ⟨3, 0, img.endAt == img.length⟩ ::
      ⟨4, 0, img.identity⟩ :: ⟨5, 0, img.timingGood⟩ :: rest) := by
  refine ⟨img.countChecks ++ img.laterChecks, fun c hc => ?_, verdict_eq_failure img⟩
  rcases List.mem_append.mp hc with hc | hc
  · have := countChecks_code hc
    omega
  · exact (by decide : 5 < 8).trans_le (laterChecks_code hc)

theorem identity_iff (img : Image) : img.identity = true ↔
    (1 ≤ img.station ∧ img.station ≤ 62) ∧ (img.bitRate = 1 ∨ img.bitRate = 2 ∨ img.bitRate = 4) := by
  simp [identity, isStation, or_assoc]

theorem header_iff (img : Image) : (decide (5 ≤ List.length img) && img.version == 1 && inRange fixedOctets 8192 img.length &&
    decide (img.length ≤ List.length img)) = true ↔
      5 ≤ List.length img ∧ img.version = 1 ∧ 30 ≤ img.length ∧ img.length ≤ 8192 ∧ img.length ≤ List.length img := by
  have low : inRange fixedOctets 8192 img.length = true ↔ 30 ≤ img.length ∧ img.length ≤ 8192 := by
    unfold inRange fixedOctets
    rw [Bool.and_eq_true, decide_eq_true_eq, decide_eq_true_eq]
  simp only [Bool.and_eq_true, decide_eq_true_eq, beq_iff_eq, low, and_assoc]

theorem verdict_first_five (img : Image) :
    (img.verdict = some { code := 1, item := 0, holds := false } ↔
      ¬ (5 ≤ List.length img ∧ img.version = 1 ∧ 30 ≤ img.length ∧ img.length ≤ 8192 ∧
          img.length ≤ List.length img)) ∧
    (5 ≤ List.length img → img.version = 1 → 30 ≤ img.length → img.length ≤ 8192 → img.length ≤ List.length img →
      (img.verdict = some { code := 2, item := 0, holds := false } ↔
        (crcOctets ((List.take img.length img).drop 5)).toNat ≠ img.check) ∧
      ((crcOctets ((List.take img.length img).drop 5)).toNat = img.check →
        (img.verdict = some { code := 3, item := 0, holds := false } ↔ img.endAt ≠ img.length) ∧
        (img.endAt = img.length →
          (img.verdict = some { code := 4, item := 0, holds := false } ↔
            ¬ ((1 ≤ img.station ∧ img.station ≤ 62) ∧ (img.bitRate = 1 ∨ img.bitRate = 2 ∨ img.bitRate = 4))) ∧
          (1 ≤ img.station → img.station ≤ 62 → (img.bitRate = 1 ∨ img.bitRate = 2 ∨ img.bitRate = 4) →
            (img.verdict = some { code := 5, item := 0, holds := false } ↔ img.timingGood = false))))) := by
  obtain ⟨rest, above5, order⟩ := verdict_order img
  have above4 := above5.cons (c := ⟨5, 0, img.timingGood⟩) (k := 4) (by simp)
  have above3 := above4.cons (c := ⟨4, 0, img.identity⟩) (k := 3) (by simp)
  have above2 := above3.cons (c := ⟨3, 0, img.endAt == img.length⟩) (k := 2) (by simp)
  have above1 := above2.cons (c := ⟨2, 0, (crcOctets ((List.take img.length img).drop 5)).toNat == img.check⟩) (k := 1) (by simp)
  rw [order, ← header_iff, ← identity_iff]
  refine ⟨(failure_cons_iff above1).trans (by simp), fun octets version low high length => ?_⟩
  rw [failure_cons_of_holds ((header_iff img).mpr ⟨octets, version, low, high, length⟩)]
  refine ⟨(failure_cons_iff above2).trans (by simp), fun crc => ?_⟩
  rw [failure_cons_of_holds (by simpa using crc)]
  refine ⟨(failure_cons_iff above3).trans (by simp), fun ends => ?_⟩
  rw [failure_cons_of_holds (by simpa using ends)]
  refine ⟨(failure_cons_iff above4).trans (by simp), fun low high rate => ?_⟩
  rw [failure_cons_of_holds ((identity_iff img).mpr ⟨⟨low, high⟩, rate⟩)]
  exact failure_cons_iff above5

theorem timingGood_iff (img : Image) : img.timingGood = true ↔
    img.refUse ≤ 1 ∧ 1 ≤ img.periodD ∧ img.periodD ≤ 65535 ∧ 4 ≤ img.periodM ∧ img.periodM ≤ 16 ∧ 8 ≤ img.periodP ∧
      img.periodP ≤ 255 ∧ (img.ticks = 4 ∨ img.ticks = 8 ∨ img.ticks = 16) ∧ 16000 * img.ticks ≤ img.period ∧
      3 ≤ img.lossTimeout ∧ img.lossTimeout ≤ 60 ∧ 2 ≤ img.liveTimeout ∧ img.liveTimeout ≤ 50 ∧ 1 ≤ img.paceStep ∧
      img.paceStep ≤ 16 ∧ 1 ≤ img.zoneClear ∧ img.zoneClear ≤ 250 ∧ 1 ≤ img.enableSettle ∧ img.enableSettle ≤ 50 ∧
      1 ≤ img.brakeRelease ∧ img.brakeRelease ≤ 50 ∧ 1 ≤ img.brakeSet ∧ img.brakeSet ≤ 50 := by
  simp [timingGood, inRange, and_assoc, or_assoc]

/-! ### What a valid image meets (R199) -/

theorem rising_iff (l : List Int) : rising l = true ↔ l.Pairwise (· < ·) := by
  rw [← List.isChain_iff_pairwise]
  induction l with
  | nil => simp [rising]
  | cons a l ih =>
    cases l with
    | nil => simp [rising]
    | cons b l => rw [rising, Bool.and_eq_true, ih, List.isChain_cons_cons, decide_eq_true_eq]

theorem controls_of_verdict_none {img : Image} (valid : img.verdict = none) : (1 ≤ img.nControls ∧ img.nControls ≤ 2) ∧
    img.controls.Nodup ∧ (∀ v ∈ img.controls, 1 ≤ v ∧ v ≤ 62 ∧ v ≠ img.station) ∧ 1 ≤ img.nChans ∧ img.nChans ≤ 4 := by
  have hold := holds_of_verdict_none valid
  have few := hold ⟨6, if img.nControls = 0 then 0 else 2, inRange 1 2 img.nControls⟩ (by simp [firstChecks])
  have chans := hold ⟨7, 0, inRange 1 4 img.nChans⟩ (by simp [firstChecks])
  obtain ⟨each, stations⟩ := stationChecks_hold (code := 6) (own := img.station) (l := img.controls) fun c hc => hold c (by
    simp [firstChecks, hc])
  exact ⟨by simpa [inRange] using few, each, stations, by simpa [inRange] using chans⟩

theorem chan_of_verdict_none {img : Image} (valid : img.verdict = none) {c : Nat} (hc : c < img.nChans) :
    ((img.chan c).kind.isLens = true →
      (img.chan c).brake = false ∧ (img.chan c).lowLimit = false ∧ (img.chan c).highLimit = false) ∧
    (img.chan c).lo < (img.chan c).hi ∧ 1 ≤ (img.chan c).vmax ∧ 1 ≤ (img.chan c).vcue ∧
    (img.chan c).vcue ≤ (img.chan c).vmax ∧ 1 ≤ (img.chan c).ferrMax ∧ 1 ≤ (img.chan c).ferrTicks ∧
    (img.chan c).ferrTicks ≤ 8 ∧ 1 ≤ (img.chan c).devTol ∧ 1 ≤ (img.chan c).amax ∧ (img.chan c).amax ≤ 4095 ∧
    (img.chan c).amax ≤ (img.chan c).astop ∧ (img.chan c).astop ≤ 8191 ∧ 2 ≤ (img.chan c).table.length ∧
    (img.chan c).table.length ≤ 16 ∧ ((img.chan c).table.Pairwise fun p q => p.1 < q.1) ∧
    (((img.chan c).table.Pairwise fun p q => p.2 < q.2) ∨ (img.chan c).table.Pairwise fun p q => q.2 < p.2) ∧
    ∀ p ∈ (img.chan c).table, (img.chan c).lo ≤ p.2 ∧ p.2 ≤ (img.chan c).hi := by
  have checks : ∀ k ∈ img.chanChecks c, k.holds = true := fun k hk => holds_of_verdict_none valid k (by
    simp only [laterChecks, List.mem_append, List.mem_cons, List.mem_flatMap, List.mem_range]
    exact .inr (.inl (.inl (.inl (.inl ⟨c, hc, hk⟩)))))
  have ends := rising_iff ((img.chan c).table.map fun p => (p.1 : Int))
  have rises := rising_iff ((img.chan c).table.map (·.2))
  have falls := rising_iff (((img.chan c).table.map (·.2)).map fun y => -y)
  simp only [chanChecks, List.forall_mem_cons, Bool.and_eq_true, Bool.or_eq_true, ends, rises, falls] at checks
  simp only [List.pairwise_map] at checks
  simp [inRange] at checks
  obtain ⟨⟨_, lens⟩, range, speeds, ⟨⟨amax, amaxHigh⟩, astop, astopHigh⟩, ⟨⟨few, many⟩, xs⟩, ys, inside⟩ := checks
  obtain ⟨⟨⟨⟨vmax, vcue, vcueHigh⟩, ferrMax⟩, ticks, ticksHigh⟩, devTol⟩ := speeds
  refine ⟨fun isLens => ?_, range, vmax, vcue, vcueHigh, ferrMax, ticks, ticksHigh, devTol, amax, amaxHigh, astop, astopHigh,
    few, many, xs, ys, fun p hp => inside p.1 p.2 hp⟩
  rcases lens with other | ⟨⟨brake, low⟩, high⟩
  · rw [isLens] at other
    cases other
  · exact ⟨brake, low, high⟩

theorem zone_of_verdict_none {img : Image} (valid : img.verdict = none) {n : Nat} (hn : n < 8) :
    ((img.zone n).cls = .slow → 1 ≤ (img.zone n).factor ∧ (img.zone n).factor ≤ 15) ∧
      ((img.zone n).cls ≠ .slow → (img.zone n).factor = 0) := by
  have check := holds_of_verdict_none valid (img.zoneCheck n) (by
    simp only [laterChecks, List.mem_append, List.mem_cons, List.mem_map]
    exact .inr (.inl (.inl (.inl (.inr ⟨n, List.mem_range.mpr hn, rfl⟩)))))
  simp only [zoneCheck, Bool.and_eq_true] at check
  obtain ⟨_, factor⟩ := check
  constructor
  · intro slow
    simpa [slow, inRange] using factor
  · intro other
    simpa [other] using factor

theorem peers_of_verdict_none {img : Image} (valid : img.verdict = none) :
    img.nPeers ≤ 16 ∧ img.peers.Nodup ∧ ∀ v ∈ img.peers, 1 ≤ v ∧ v ≤ 62 ∧ v ≠ img.station := by
  have hold := holds_of_verdict_none valid
  have few := hold ⟨16, 16, decide (img.nPeers ≤ 16)⟩ (by simp [laterChecks])
  exact ⟨by simpa using few,
    stationChecks_hold (code := 16) (own := img.station) (l := img.peers) fun c hc => hold c (by simp [laterChecks, hc])⟩

theorem watch_of_verdict_none {img : Image} (valid : img.verdict = none) : img.nWatch ≤ 8 ∧
    ∀ n < img.nWatch, 1 ≤ (img.watch n).station ∧ (img.watch n).station ≤ 62 ∧ (img.watch n).station ≠ img.station ∧
      (img.watch n).channel ≤ 3 := by
  have hold := holds_of_verdict_none valid
  have few := hold ⟨17, 8, decide (img.nWatch ≤ 8)⟩ (by simp [laterChecks])
  refine ⟨by simpa using few, fun n hn => ?_⟩
  have check := hold (img.watchCheck n) (by
    simp only [laterChecks, List.mem_append, List.mem_cons, List.mem_map]
    exact .inr (.inl (.inr (.inr ⟨n, List.mem_range.mpr hn, rfl⟩))))
  simpa [watchCheck, isStation, and_assoc] using check

theorem cross_of_verdict_none {img : Image} (valid : img.verdict = none) : img.nCross ≤ 12 ∧
    ∀ n < img.nCross, (img.cross n).channel < img.nChans ∧ (img.cross n).slot < img.nWatch ∧
      (img.cross n).srcLow ≤ (img.cross n).srcHigh ∧ (img.cross n).limLow ≤ (img.cross n).limHigh := by
  have hold := holds_of_verdict_none valid
  have few := hold ⟨18, 12, decide (img.nCross ≤ 12)⟩ (by simp [laterChecks])
  refine ⟨by simpa using few, fun n hn => ?_⟩
  have check := hold (img.crossCheck n) (by
    simp only [laterChecks, List.mem_append, List.mem_cons, List.mem_map]
    exact .inr (.inr (.inr ⟨n, List.mem_range.mpr hn, rfl⟩)))
  simpa [crossCheck, and_assoc] using check

end Image

/-! ### The FAULTED node -/

theorem silent_of_faulted {s : State} (faulted : s.ss.safety = .faulted) : s.silent = !s.cl.spineId := by
  unfold State.silent
  rw [faulted]

/-- A FAULTED node starts with every channel in OFF, its drive off and its brake set. -/
theorem enterFaulted_drives (code item : Nat) (spineId : Bool) (cfg : NodeCfg) (ts : Ts) (s : State) (i : Nat) :
    ((enterFaulted code item spineId cfg ts s).chans.get i).mode = .off ∧
      ((enterFaulted code item spineId cfg ts s).dlu.lines.get i).enable = false ∧
      ((enterFaulted code item spineId cfg ts s).dlu.lines.get i).released = false := by
  simp [enterFaulted, State.reset, Chan.reset, Dlu.reset, DriveLine.reset]

/-- The end of a read whose first failure is a condition (R198, R200). -/
theorem readEnds_of_failure {img : Image} {c : Image.Check} (found : img.verdict = some c) (s : State) : readEnds img s =
    enterFaulted c.code c.item (img.intact && img.identity) (faultedCfg img c.code (img.intact && img.identity) s.cfg)
      (if 8 ≤ c.code then Ts.settle img.nChans s.ts else s.ts) s := by
  unfold readEnds
  rw [found]
  simp only [Image.countsGood_of_verdict found]

/-- A read that gave no octet fails its first condition. -/
theorem verdict_nil : Image.verdict [] = some ⟨1, 0, false⟩ := by decide

/-- Settles O5: the verdict is the first failing condition of one list, and its code settles what the node keeps. -/
theorem failedReadEntersFaulted : Obligations.FailedReadEntersFaulted := by
  refine ⟨fun s reading => ?none, fun img s c reading found => ?failed, fun img c => Image.verdict_eq_some_iff,
    Image.verdict_first_five, Image.timingGood_iff, fun img valid => ?valid⟩
  case none =>
    refine ⟨_, (whileReading_eq reading _).trans (congrArg _ (readEnds_of_failure verdict_nil s)), rfl, rfl, rfl, rfl, rfl, rfl,
      rfl, rfl, rfl, rfl, fun i _ => enterFaulted_drives _ _ _ _ _ s i⟩
  case failed =>
    obtain ⟨width, first, same, other⟩ := settle_columns img.nChans s.ts
    refine ⟨_, (whileReading_eq reading _).trans (congrArg _ (readEnds_of_failure found s)), rfl, rfl, rfl, rfl, rfl,
      silent_of_faulted rfl, rfl, rfl, fun low => ?_, fun high => ?_, fun high => ?_, fun low => ?_, fun low => ?_, fun high => ?_,
      rfl, rfl, rfl, rfl, rfl, rfl, fun i _ => enterFaulted_drives _ _ _ _ _ s i⟩
    · exact if_neg (by omega)
    · exact if_pos high
    · exact ⟨decide_eq_true high, if_pos high⟩
    · exact decide_eq_false (by omega)
    · exact if_neg (by omega)
    · show _ = _ ∧ _
      simp only [enterFaulted, if_pos high]
      exact ⟨width, first, same, other⟩
  case valid =>
    obtain ⟨controls, each, stations, chans⟩ := Image.controls_of_verdict_none valid
    obtain ⟨nPeers, peers, peerStations⟩ := Image.peers_of_verdict_none valid
    obtain ⟨nWatch, watch⟩ := Image.watch_of_verdict_none valid
    exact ⟨controls, each, stations, chans, fun c hc => Image.chan_of_verdict_none valid hc,
      fun n hn => Image.zone_of_verdict_none valid hn, nPeers, peers, peerStations, nWatch, watch,
      Image.cross_of_verdict_none valid⟩

end Sys2Proof.Machine
end

section
/-! Messages of other stations that are reported, dated or refused: reports, PACE, ABORT and START, WAKE, and the tests of the
Command Unit. -/

namespace Sys2Proof.Machine

open Sys2Proof

/-! ### What is left alone, block by block -/

/-- A change of listed blocks alone, as a conjunction that `simp` decides block by block. -/
theorem onlyChanges_iff {bs : List Block} {s t : State} : OnlyChanges bs s t ↔
    (.lif ∈ bs ∨ t.lif = s.lif) ∧ (.ft ∈ bs ∨ t.ft = s.ft) ∧ (.ru ∈ bs ∨ t.ru = s.ru) ∧ (.chans ∈ bs ∨ t.chans = s.chans) ∧
    (.spl ∈ bs ∨ t.spl = s.spl) ∧ (.dlu ∈ bs ∨ t.dlu = s.dlu) ∧ (.ss ∈ bs ∨ t.ss = s.ss) ∧ (.pu ∈ bs ∨ t.pu = s.pu) ∧
    (.iu ∈ bs ∨ t.iu = s.iu) ∧ (.zu ∈ bs ∨ t.zu = s.zu) ∧ (.ts ∈ bs ∨ t.ts = s.ts) ∧
    (.store ∈ bs ∨ t.ts.store = s.ts.store) ∧ (.tpr ∈ bs ∨ t.tpr = s.tpr) ∧ (.attention ∈ bs ∨ t.attention = s.attention) ∧
    (.cl ∈ bs ∨ t.cl = s.cl) ∧ (.cfg ∈ bs ∨ t.cfg = s.cfg) ∧ (.pins ∈ bs ∨ t.pins = s.pins) ∧
    (.pending ∈ bs ∨ t.pending = s.pending) := by
  constructor
  · intro only
    have block (b : Block) : b ∈ bs ∨ SameBlock s t b := or_iff_not_imp_left.mpr (only b)
    exact ⟨block .lif, block .ft, block .ru, block .chans, block .spl, block .dlu, block .ss, block .pu, block .iu, block .zu,
      block .ts, block .store, block .tpr, block .attention, block .cl, block .cfg, block .pins, block .pending⟩
  · rintro ⟨lif, ft, ru, chans, spl, dlu, ss, pu, iu, zu, ts, store, tpr, attention, cl, cfg, pins, pending⟩ b outside
    cases b <;> apply Or.resolve_left _ outside <;> assumption

/-! ### Reports -/

/-- A message of a kind whose LENGTH is not that of its payload is reported (R205). -/
theorem broadcastKind_of_length {h : Header} {n : Nat} {s : State} (received : receives h s = true) (other : n ≠ h.length.toNat)
    (f : State → State) : broadcastKind h n f s = .next (heard h s) := by
  unfold broadcastKind
  rw [arrive_of_receives h _ _ s received, deliverOpen, if_neg (fun both => other both.2.symm)]

theorem addressedKind_of_length {h : Header} {n : State → Nat} {s : State} (received : receives h s = true)
    (other : n (heard h s) ≠ h.length.toNat) (f : State → State) : addressedKind h n f s = .next (heard h s) := by
  unfold addressedKind
  have unheard : deliverOpen h (n (heard h s)) f (heard h s) = heard h s := if_neg fun both => other both.2.symm
  rw [arrive_of_receives h _ _ s received, unheard, ite_self]

/-- A message whose owner leaves the node as it is, where it is heard, is reported in every case. -/
theorem broadcastKind_of_idle {h : Header} {s : State} (received : receives h s = true) (n : Nat) {f : State → State}
    (idle : f (heard h s) = heard h s) : broadcastKind h n f s = .next (heard h s) := by
  unfold broadcastKind
  rw [arrive_of_receives h _ _ s received, deliverOpen, idle, ite_self]

theorem addressedKind_of_idle {h : Header} {s : State} (received : receives h s = true) (n : State → Nat) {f : State → State}
    (idle : f (heard h s) = heard h s) : addressedKind h n f s = .next (heard h s) := by
  unfold addressedKind
  rw [arrive_of_receives h _ _ s received, deliverOpen, idle, ite_self, ite_self]

/-- What a report does to the roster and the attention set (R34). -/
theorem heard_eq_reportStation (h : Header) (s : State) :
    heard h s = reportStation h.source.toNat { s with lif := { s.lif with lineIdle := false, quiet := 0 } } := rfl

theorem heard_of_closed {h : Header} {s : State} (closed : s.ss.safety.isOpen = false) :
    heard h s = { s with lif := { s.lif with lineIdle := false, quiet := 0 } } := by
  rw [heard_eq_reportStation, reportStation, if_pos closed]

theorem heard_of_known {h : Header} {s : State} (open_ : s.ss.safety.isOpen = true)
    (known : (s.ru.roster.any fun e => e.station == h.source.toNat) = true) :
    heard h s = { s with
      lif := { s.lif with lineIdle := false, quiet := 0 }
      ru.roster := s.ru.roster.map fun e => if e.station = h.source.toNat then { e with age := 0, heard := true } else e } := by
  rw [heard_eq_reportStation, reportStation, if_neg (by simp [open_]), if_pos known]

theorem heard_of_room {h : Header} {s : State} (open_ : s.ss.safety.isOpen = true)
    (absent : (s.ru.roster.any fun e => e.station == h.source.toNat) = false) (room : s.ru.roster.length < 24) :
    heard h s = { s with
      lif := { s.lif with lineIdle := false, quiet := 0 }
      ru.roster := insertEntry { station := h.source.toNat, role := s.firstRole h.source.toNat, pinned := false, heard := true,
                                 age := 0, last := none } s.ru.roster } := by
  rw [heard_eq_reportStation, reportStation]
  exact (if_neg (by simp [open_])).trans ((if_neg (by simp [absent])).trans (if_pos room))

theorem heard_of_full {h : Header} {s : State} (open_ : s.ss.safety.isOpen = true)
    (absent : (s.ru.roster.any fun e => e.station == h.source.toNat) = false) (full : 24 ≤ s.ru.roster.length) :
    heard h s = raise .rosterFull { s with lif := { s.lif with lineIdle := false, quiet := 0 } } := by
  rw [heard_eq_reportStation, reportStation]
  exact (if_neg (by simp [open_])).trans ((if_neg (by simp [absent])).trans (if_neg (not_lt.mpr full)))

theorem firstRole_control_iff (s : State) (station : Nat) : s.firstRole station = .control ↔ s.isControl station = true := by
  unfold State.firstRole
  cases s.isControl station <;> simp

/-- A parked node that leaves a message alone notes the line alone (R18). -/
theorem arrive_of_parked {h : Header} {p d : State → State} {s : State} (parked : s.ss.safety = .parked)
    (length : h.length.toNat ≤ 48) (idle : p (lineBusy s) = lineBusy s) : arrive h p d s = lineBusy s := by
  have inside : ¬ Config.maxLength < h.length.toNat := not_lt.mpr length
  have here : (lineBusy s).ss.safety = .parked := parked
  unfold arrive
  dsimp only
  rw [if_neg inside, if_pos here, idle, ite_self, ite_self]

/-- A message with a payload of another length than its kind's, or a COUNT above the largest, is reported (R205). -/
theorem exec_of_payloadLength {c : Instr} {h : Header} {n : Option Nat} {s : State} (received : receives h s = true)
    (payload : payloadLength s.cfg.nChans c = some (h, n)) (other : n ≠ some h.length.toNat) : exec c s = .next (heard h s) := by
  have ne {k : Nat} (eq : n = some k) : k ≠ h.length.toNat := fun same => other (eq.trans (congrArg some same))
  cases c with
  | roll h' more count factor pairs =>
    obtain ⟨rfl, length⟩ := Prod.mk.inj (Option.some.inj payload)
    split at length
    next few => exact broadcastKind_of_length received (ne length.symm) _
    next many => exact broadcastKind_of_idle received _ (if_neg many)
  | samples h' take first last count records =>
    obtain ⟨rfl, length⟩ := Prod.mk.inj (Option.some.inj payload)
    split at length
    next few =>
      refine addressedKind_of_length received ?_ _
      simpa [samplesLength] using ne length.symm
    next many => exact addressedKind_of_idle received _ (if_neg fun both => many (by simpa [maxSamplesCount] using both.1))
  | live h' enable mask mark values =>
    obtain ⟨rfl, length⟩ := Prod.mk.inj (Option.some.inj payload)
    exact addressedKind_of_length received (ne length.symm) _
  | stop h' _ _ | clear h' _ | pace h' _ | abort h' _ | start h' _ _ | state h' _ =>
    obtain ⟨rfl, length⟩ := Prod.mk.inj (Option.some.inj payload)
    exact broadcastKind_of_length received (ne length.symm) _
  | _ => cases payload

/-- Settles O23: a message without an owner leaves what its report leaves, and the report has four cases (R34). -/
theorem validMessageIsReported : Obligations.ValidMessageIsReported := by
  refine ⟨fun h s received => ⟨?_, by simp, by simp, heard_onlyChanges h s, fun open_ known => ?known,
    fun open_ absent room => ?room, fun open_ absent full => ?full, fun closed => ?closed⟩,
    fun c h n s received payload other => exec_of_payloadLength received payload other,
    fun h mask c0 c1 c2 c3 s parked length other => ?wake⟩
  · exact congrArg Host.Outcome.next (arrive_of_receives h id id s received)
  case known => rw [heard_of_known open_ known]; exact ⟨rfl, rfl⟩
  case room =>
    rw [heard_of_room open_ absent room]
    refine ⟨⟨_, (mem_insertEntry _ _ _).mpr (.inl rfl), rfl, rfl, rfl, rfl, rfl, firstRole_control_iff s _⟩, ?_⟩
    exact length_insertEntry _ _
  case full =>
    rw [heard_of_full open_ absent full]
    exact ⟨rfl, attentionHas_attentionRaise_self _ _⟩
  case closed => rw [heard_of_closed closed]
  case wake => exact congrArg Host.Outcome.next (arrive_of_parked parked length (if_neg other))

end Sys2Proof.Machine
end

section
namespace Sys2Proof.Machine

open Sys2Proof

/-! ### PACE (R123) -/

theorem takeFactor_of_known {o v : Nat} {s : State} (open_ : s.ss.safety.isOpen = true) (low : 1 ≤ v) (high : v ≤ 16)
    (known : (s.pu.entries.any fun e => e.origin == o) = true) (d : FrameNo) :
    takeFactor o v d s = { s with pu.entries := s.pu.entries.map fun e =>
      if e.origin = o then { e with pend := setPend e.pend d v } else e } := by
  rw [takeFactor, if_neg (by simp [open_, Config.fullPace]; omega), if_pos known]

theorem takeFactor_of_room {o v : Nat} {s : State} (open_ : s.ss.safety.isOpen = true) (low : 1 ≤ v) (high : v ≤ 15)
    (absent : (s.pu.entries.any fun e => e.origin == o) = false) (room : s.pu.entries.length < 32) (d : FrameNo) :
    takeFactor o v d s =
      { s with pu.entries := s.pu.entries ++ [{ origin := o, factor := none, pend := [(d, v)] }] } := by
  rw [takeFactor, if_neg (by simp [open_, Config.fullPace]; omega), if_neg (by simp [absent]),
    if_neg (by simp [Config.fullPace]; omega)]
  exact if_pos room

theorem takeFactor_of_full {o v : Nat} {s : State} (open_ : s.ss.safety.isOpen = true) (low : 1 ≤ v) (high : v ≤ 15)
    (absent : (s.pu.entries.any fun e => e.origin == o) = false) (full : 32 ≤ s.pu.entries.length) (d : FrameNo) :
    takeFactor o v d s = refuseFactor v d s := by
  rw [takeFactor, if_neg (by simp [open_, Config.fullPace]; omega), if_neg (by simp [absent]),
    if_neg (by simp [Config.fullPace]; omega)]
  exact if_neg (not_lt.mpr full)

/-- A station without an entry withdraws nothing (R123). -/
theorem takeFactor_of_withdrawal {o : Nat} {s : State} (absent : (s.pu.entries.any fun e => e.origin == o) = false)
    (d : FrameNo) : takeFactor o 16 d s = s := by
  unfold takeFactor
  split
  next => rfl
  next => exact (if_neg (by simp [absent])).trans (if_pos rfl)

theorem takeFactor_of_outside {o v : Nat} (outside : v = 0 ∨ 16 < v) (d : FrameNo) (s : State) : takeFactor o v d s = s :=
  if_pos (.inr outside)

theorem exec_pace_of_hears {h : Header} {s : State} (taken : hears h 1 s = true) (factor : Byte) :
    exec (.pace h factor) s = .next (takeFactor h.source.toNat factor.toNat s.dateNow (heard h s)) := by
  have delivered := broadcastKind_of_hears h paceLength
    (fun s => takeFactor h.source.toNat factor.toNat s.dateNow s) s taken
  rwa [heard_dateNow] at delivered

theorem open_of_hears {h : Header} {n : Nat} {s : State} (taken : hears h n s = true) : (heard h s).ss.safety.isOpen = true := by
  obtain ⟨_, open_, _⟩ := (hears_iff h n s).1 taken
  simpa using open_

/-- Settles O27: the five cases of `takeFactor`. -/
theorem paceMessageIsPlacedWithItsDate : Obligations.PaceMessageIsPlacedWithItsDate := by
  intro h factor s taken
  rw [exec_pace_of_hears taken]
  have open_ := open_of_hears taken
  refine ⟨fun low high known => ?known, fun low high absent room => ?room, fun low high absent full => ?full,
    fun sixteen absent => ?withdrawn, fun outside => ?outside⟩
  case known => rw [takeFactor_of_known open_ low high (by simpa using known)]; simp
  case room => rw [takeFactor_of_room open_ low high (by simpa using absent) (by simpa using room)]; simp
  case full =>
    rw [takeFactor_of_full open_ low high (by simpa using absent) (by simpa using full)]
    have placed : getPend (refuseFactor factor.toNat s.dateNow (heard h s)).pu.floorPend s.dateNow =
        some ((getPend s.pu.floorPend s.dateNow).elim factor.toNat (min factor.toNat)) := by
      simp [refuseFactor, getPend_setPend]
    refine ⟨_, _, rfl, placed, ?_, ?_, ?_, by simp [refuseFactor], attentionHas_attentionRaise_self _ _,
      by simp [onlyChanges_iff]⟩
    · cases getPend s.pu.floorPend s.dateNow <;> simp
    · intro none
      simp [none]
    · intro w some
      simp [some]
  case withdrawn => rw [sixteen, takeFactor_of_withdrawal (by simpa using absent)]
  case outside => rw [takeFactor_of_outside outside]

/-! ### ABORT and START (R160, R167) -/

theorem exec_abort_of_hears {h : Header} {s : State} (taken : hears h 1 s = true) (take : Byte) :
    exec (.abort h take) s = .next (takeAbort take.toNat s.dateNow (heard h s)) := by
  have delivered := broadcastKind_of_hears h abortLength (fun s => takeAbort take.toNat s.dateNow s) s taken
  rwa [heard_dateNow] at delivered

theorem exec_start_of_hears {h : Header} {s : State} (taken : hears h 2 s = true) (take lead : Byte) :
    exec (.start h take lead) s = .next (takeStart h.source.toNat take.toNat lead.toNat s.dateNow (heard h s)) := by
  have delivered := broadcastKind_of_hears h startLength
    (fun s => takeStart h.source.toNat take.toNat lead.toNat s.dateNow s) s taken
  rwa [heard_dateNow] at delivered

theorem toNat_ne_zero {b : Byte} (ne : b ≠ 0) : b.toNat ≠ 0 := fun zero => ne (BitVec.eq_of_toNat_eq zero)

theorem clampLead_eq (lead : Nat) : clampLead lead = if lead < 2 then 2 else if 60 < lead then 60 else lead := by
  unfold clampLead
  split <;> (try split) <;> omega

/-- Settles O28: the tests of `takeAbort` and `takeStart`. -/
theorem abortAndStartWaitForTheirFrame : Obligations.AbortAndStartWaitForTheirFrame := by
  refine ⟨fun h take s taken named inUse live none => ?abort, fun h take s taken not => ?noAbort,
    fun h take lead s taken named control => ?start, fun h take lead s taken not => ?noStart⟩
  case abort =>
    have standing : (s.tpr.abortPend.elim false fun a => a.take == take.toNat) = false := by
      cases pending : s.tpr.abortPend with
      | none => rfl
      | some a => simpa using none a pending
    rw [exec_abort_of_hears taken, takeAbort, if_pos (by simpa [toNat_ne_zero named, inUse, standing, or_assoc] using live)]
  case noAbort =>
    rw [exec_abort_of_hears taken, takeAbort, if_neg]
    rintro ⟨named, live, inUse, standing⟩
    simp only [heard_frame, Bool.or_eq_true, beq_iff_eq, or_assoc] at live inUse standing
    rcases not with zero | other | idle | ⟨a, pending, same⟩
    · exact named (by rw [zero]; rfl)
    · exact other inUse
    · tauto
    · simp [pending, same] at standing
  case start =>
    rw [exec_start_of_hears taken, takeStart, if_pos (by simp [control, toNat_ne_zero named]), clampLead_eq]
  case noStart =>
    rw [exec_start_of_hears taken, takeStart, if_neg]
    rintro ⟨control, named⟩
    rcases not with zero | other
    · exact named (by rw [zero]; rfl)
    · simp [other] at control

/-! ### WAKE (R18, R47) -/

/-- What a parked node does with a WAKE of the right length. -/
theorem exec_wake_of_parked {h : Header} {s : State} (parked : s.ss.safety = .parked) (receiving : s.lif.rxWait = false)
    (length : h.length.toNat = 24) (low : 1 ≤ h.source.toNat) (high : h.source.toNat ≤ 62) (mask : BitVec 64)
    (c0 c1 c2 c3 : BitVec 32) : exec (.wake h mask c0 c1 c2 c3) s =
      .next (takeWake h.source.toNat s.dateNow mask [c0, c1, c2, c3] (lineBusy s)) := by
  have hearing : (lineBusy s).deaf = false := by simp [State.deaf, parked]
  have waits : (lineBusy s).lif.rxWait = false := receiving
  have here : (lineBusy s).ss.safety = .parked := parked
  refine congrArg Host.Outcome.next ?_
  unfold arrive
  dsimp only
  rw [if_neg (by simp [hearing, waits]), if_neg (by rw [length]; decide), if_neg (by omega), if_pos here]
  exact if_pos length

/-- Settles O32: a parked node takes a matching WAKE and notes the line alone for every other message. -/
theorem wakeMessageIsTakenWhileParked : Obligations.WakeMessageIsTakenWhileParked := by
  refine ⟨fun h mask c0 c1 c2 c3 s parked receiving length low high => ?wake, fun h serial cause detail s parked length => ?other,
    fun h mask c0 c1 c2 c3 s received => ?awake, fun c h s parked header length => ?any⟩
  case wake =>
    rw [exec_wake_of_parked parked receiving length low high]
    constructor
    · rintro control named rfl rfl rfl rfl fresh
      rw [takeWake, if_pos]
      · rfl
      · exact ⟨by simpa [State.wakeMatches, lineBusy, State.isControl] using (⟨List.contains_iff_mem.1 control, named⟩ : _ ∧ _), fresh⟩
    · intro not
      rw [takeWake, if_neg]
      · rfl
      · rintro ⟨same, fresh⟩
        simp only [State.wakeMatches, lineBusy, Bool.and_eq_true, List.all_cons, List.all_nil, Bool.and_true, beq_iff_eq] at same
        obtain ⟨⟨control, named⟩, same0, same1, same2, same3⟩ := same
        rcases not with foreign | unnamed | other0 | other1 | other2 | other3 | waiting
        · exact Bool.false_ne_true (foreign.symm.trans control)
        · exact Bool.false_ne_true (unnamed.symm.trans named)
        · exact other0 same0
        · exact other1 same1
        · exact other2 same2
        · exact other3 same3
        · exact waiting fresh
  case other =>
    refine ⟨congrArg _ (arrive_of_parked parked length rfl), congrArg _ (arrive_of_parked parked length rfl),
      congrArg _ (arrive_of_parked parked length rfl), congrArg Host.Outcome.next ?_⟩
    have silent : impostor (lineBusy s) = lineBusy s := by simp [impostor, lineBusy, parked]
    rw [silent, ite_self]
    rfl
  case awake => exact congrArg Host.Outcome.next (arrive_of_receives h _ id s received)
  case any =>
    cases c with
    | stop | clear | roll | pace | abort | start | live | state | samples | presenceOnly | commandNotInCatalogue | arm | disarm
    | release | park | takeOpen | takeDelete | takeRewind | cue | cueCancel | record | recordEnd | punch | sensorRead | attention
    | counters | claims | roster | directory | latch | restart =>
      obtain rfl := Option.some.inj header
      exact congrArg Host.Outcome.next (arrive_of_parked parked length rfl)
    | _ => cases header

/-! ### The tests of the Command Unit (R189, R205) -/

/-- A COMMAND that is delivered goes to the Command Unit. -/
theorem command_of_receives {h : Header} {s : State} (received : receives h s = true) (addressed : s.addressed h = true)
    (delivered : 2 ≤ h.length.toNat) (serial : Byte) (code : Nat) (owner : Slot → State → State) :
    command h serial code owner s =
      .next (commandUnit (caller h serial) code h.length.toNat (owner (caller h serial)) (heard h s)) := by
  unfold command
  dsimp only
  rw [arrive_of_receives h _ _ s received]
  simp [addressed, delivered, caller]

theorem commandUnit_of_gate {who : Slot} {code length : Nat} {owner : State → State} {s : State} {st : Status}
    (refused : s.gate who.station code = some st) : commandUnit who code length owner s = reply who code st .none s := by
  unfold commandUnit
  rw [refused]

theorem commandUnit_of_passed {who : Slot} {code length : Nat} {owner : State → State} {s : State}
    (passed : s.gate who.station code = none) : commandUnit who code length owner s =
      if argOctets code = some (length - 2) then owner s else reply who code .badArg .none s := by
  unfold commandUnit
  rw [passed]

theorem gate_of_stranger {station code : Nat} {s : State} (stranger : s.mayCommand station = false) :
    s.gate station code = some .notControl := if_pos stranger

theorem gate_of_unknown {station code : Nat} {s : State} (may : s.mayCommand station = true) (unknown : argOctets code = none) :
    s.gate station code = some .badArg := by
  rw [State.gate, if_neg (by simp [may]), if_pos unknown]

theorem gate_of_state {station code : Nat} {s : State} (may : s.mayCommand station = true) (known : argOctets code ≠ none)
    (closed : s.admits code = false) : s.gate station code = some .refused := by
  rw [State.gate, if_neg (by simp [may]), if_neg known, if_pos closed]

theorem gate_of_admitted {station code : Nat} {s : State} (may : s.mayCommand station = true) (known : argOctets code ≠ none)
    (admitted : s.admits code = true) : s.gate station code =
      if (s.ru.parkPending || s.cl.restartPending) = true ∧ code ≠ codeStatusQuery then some .busy else none := by
  rw [State.gate, if_neg (by simp [may]), if_neg known, if_neg (by simp [admitted])]

/-- Settles O33: each clause is one outcome of `gate`, or of the LENGTH test after it. -/
theorem commandTestsInTheirOrder : Obligations.CommandTestsInTheirOrder := by
  refine ⟨fun h serial code owner s received => ⟨fun elsewhere => ?elsewhere, fun short => ?short,
    fun addressed delivered => ?tests⟩,
    fun h serial code args s received addressed delivered control open_ park restart unknown => ?catalogue⟩
  case elsewhere => simp [command, arrive_of_receives h _ _ s received, elsewhere]
  case short => simp [command, arrive_of_receives h _ _ s received, not_le.mpr short]
  case tests =>
    rw [command_of_receives received addressed delivered]
    refine ⟨fun stranger listed => ?stranger, fun may => ?allowed⟩
    case stranger =>
      rw [commandUnit_of_gate (gate_of_stranger ?_)]
      rcases listed with notFaulted | known <;> simp_all [State.mayCommand, caller]
    have may : (heard h s).mayCommand h.source.toNat = true := by
      rcases may with control | ⟨faulted, unknown⟩ <;> simp_all [State.mayCommand]
    refine ⟨fun outside => ?outside, fun known faulted notQuery notRestart => ?faulted, fun known admitted => ?_⟩
    case outside => rw [commandUnit_of_gate (gate_of_unknown may outside)]
    case faulted =>
      rw [commandUnit_of_gate (gate_of_state may known ?_)]
      simp [State.admits, faulted, Safety.isOpen, codeStatusQuery, codeRestart, notQuery, notRestart]
    have admitted : (heard h s).admits code = true := by
      rcases admitted with open_ | ⟨faulted, either⟩ <;> simp_all [State.admits, codeStatusQuery, codeRestart]
    have gate := gate_of_admitted may known admitted
    refine ⟨fun notQuery waiting => ?busy, fun passable => ?passable⟩
    case busy =>
      rw [if_pos ⟨by simpa using waiting, notQuery⟩] at gate
      rw [commandUnit_of_gate gate]
    rw [if_neg (by rintro ⟨waiting, notQuery⟩; simp_all [codeStatusQuery])] at gate
    rw [commandUnit_of_passed gate]
    exact ⟨fun other => by rw [if_neg other], fun same => by rw [if_pos same]⟩
  case catalogue =>
    refine (command_of_receives received addressed delivered serial code.toNat
      (fun who s => reply who code.toNat .badArg .none s)).trans ?_
    have may : (heard h s).mayCommand h.source.toNat = true := by simp [State.mayCommand, control]
    by_cases known : argOctets code.toNat = none
    · rw [commandUnit_of_gate (gate_of_unknown may known)]
    · have gate := gate_of_admitted may known (by simp [State.admits, open_])
      rw [if_neg (by simp [park, restart])] at gate
      rw [commandUnit_of_passed gate, ite_self]

end Sys2Proof.Machine
end

section
/-! The commands of the Safety Supervisor: ARM, DISARM and RELEASE. -/

namespace Sys2Proof.Machine

open Sys2Proof

/-! ### Work done channel by channel -/

/-- Work on each channel of a list in turn: a channel of the list is changed by its own round, and another is left alone. -/
theorem foldl_each {β : Type} {f : State → Nat → State} {side : State → Prop} {view : State → Nat → β}
    {change : Nat → β → β → Prop} {is : List Nat} (each : is.Nodup) (inside : ∀ i ∈ is, i < 4)
    (keeps : ∀ u, ∀ i ∈ is, side u → side (f u i))
    (own : ∀ u, ∀ i ∈ is, side u → change i (view u i) (view (f u i) i))
    (other : ∀ u, ∀ i ∈ is, ∀ j < 4, j ≠ i → side u → view (f u i) j = view u j) {s : State} (start : side s) :
    (∀ i ∈ is, change i (view s i) (view (is.foldl f s) i)) ∧
      ∀ j < 4, j ∉ is → view (is.foldl f s) j = view s j := by
  induction is generalizing s with
  | nil => exact ⟨by simp, fun _ _ _ => rfl⟩
  | cons i is ih =>
    obtain ⟨fresh, each⟩ := List.nodup_cons.1 each
    have here : i ∈ i :: is := List.mem_cons_self
    have later {k : Nat} (hk : k ∈ is) : k ∈ i :: is := List.mem_cons_of_mem _ hk
    obtain ⟨listed, unlisted⟩ := ih each (fun k hk => inside k (later hk)) (fun u k hk => keeps u k (later hk))
      (fun u k hk => own u k (later hk)) (fun u k hk => other u k (later hk)) (keeps s i here start)
    refine ⟨fun k hk => ?listed, fun j hj outside => ?unlisted⟩
    case listed =>
      rcases List.mem_cons.1 hk with rfl | hk
      · have left := unlisted k (inside k here) fresh
        rw [List.foldl_cons, left]
        exact own s k here start
      · have first := other s i here k (inside k (later hk)) (fun eq => fresh (eq ▸ hk)) start
        rw [List.foldl_cons, ← first]
        exact listed k hk
    case unlisted =>
      obtain ⟨ne, outside⟩ := not_or.1 (fun either => outside (List.mem_cons.2 either))
      rw [List.foldl_cons, unlisted j hj outside, other s i here j hj ne start]

/-- The same for every channel of the node. -/
theorem foldl_channels {β : Type} {f : State → Nat → State} {side : State → Prop} {view : State → Nat → β}
    {change : Nat → β → β → Prop} {n : Nat} (few : n ≤ 4) (keeps : ∀ u, ∀ i < n, side u → side (f u i))
    (own : ∀ u, ∀ i < n, side u → change i (view u i) (view (f u i) i))
    (other : ∀ u, ∀ i < n, ∀ j < 4, j ≠ i → side u → view (f u i) j = view u j) {s : State} (start : side s) :
    (∀ i < n, change i (view s i) (view ((List.range n).foldl f s) i)) ∧
      ∀ j < 4, n ≤ j → view ((List.range n).foldl f s) j = view s j := by
  have all := foldl_each (is := List.range n) (view := view) (change := change) List.nodup_range (by simp; omega)
    (by simpa using keeps) (by simpa using own) (by simpa using other) start
  simpa using all

/-! ### ARM (R55, R88, R106) -/

/-- What a channel has in the three blocks that the enabling of its drive touches. -/
structure ChanView where
  chan : Chan
  line : DriveLine
  reading : Reading

def State.chanView (s : State) (i : Nat) : ChanView :=
  { chan := s.chans.get i, line := s.dlu.lines.get i, reading := s.spl.readings.get i }

/-- A channel enabled and seeded on its reading, or left alone with its fault-off flag set. -/
def Seeded (v w : ChanView) : Prop :=
  (v.line.faultOff = true → w = v) ∧
  (v.line.faultOff = false →
    w.line = { v.line with enable := true } ∧ w.chan.mode = .hold ∧ w.chan.v = 0 ∧ w.chan.x = v.reading.position ∧
      w.chan.held = v.reading.position ∧ w.chan.halt = false ∧ w.chan.clamped = false ∧ w.chan.dev = 0 ∧ w.chan.gPend = none ∧
      w.reading.ferr = 0 ∧ w.reading.hist = [])

theorem enableAndSeed_seeds {i : Nat} (hi : i < 4) (s : State) : Seeded (s.chanView i) ((enableAndSeed i s).chanView i) := by
  unfold enableAndSeed
  split
  next faultOff => exact ⟨fun _ => rfl, fun on => by simp [State.chanView, faultOff] at on⟩
  next on =>
    refine ⟨fun faultOff => absurd faultOff on, fun _ => ?_⟩
    simp [State.chanView, seed, quad_get_set, hi]

theorem enableAndSeed_other {i j : Nat} (hi : i < 4) (hj : j < 4) (ne : j ≠ i) (s : State) :
    (enableAndSeed i s).chanView j = s.chanView j := by
  unfold enableAndSeed
  split
  next => rfl
  next => simp [State.chanView, seed, quad_get_set, hi, hj, ne]

theorem enableAll_seeds {s : State} (few : s.cfg.nChans ≤ 4) {i : Nat} (hi : i < s.cfg.nChans) :
    Seeded (s.chanView i) ((enableAll s).chanView i) :=
  (foldl_channels (side := fun _ => True) (change := fun _ => Seeded) few (fun _ _ _ _ => trivial)
    (fun u _ hk _ => enableAndSeed_seeds (lt_of_lt_of_le hk few) u)
    (fun u _ hk _ hj ne _ => enableAndSeed_other (lt_of_lt_of_le hk few) hj ne u) trivial).1 i hi

/-- Where the node may send, what a REPLY does to the queues depends on the queues and the attention set alone. -/
theorem reply_congr (who : Slot) (code : Nat) (st : Status) (data : ReplyData) {s t : State} (hs : s.ss.safety.isOpen = true)
    (ht : t.ss.safety.isOpen = true) (lif : t.lif = s.lif) (attention : t.attention = s.attention) :
    (reply who code st data t).lif = (reply who code st data s).lif := (place_congr _ s t hs ht lif attention).1

/-- The tests of ARM at a DISARMED node (R106). -/
theorem armCommand_of_refusal {who : Slot} {st : Status} {s : State} (disarmed : s.ss.safety = .disarmed)
    (refused : s.armRefusal = some st) : armCommand who s = reply who codeArm st .none s := by
  simp [armCommand, disarmed, refused]

theorem armCommand_of_accepted {who : Slot} {s : State} (disarmed : s.ss.safety = .disarmed) (passed : s.armRefusal = none) :
    armCommand who s = acceptArm who s := by
  simp [armCommand, disarmed, passed]

theorem armCommand_elsewhere {who : Slot} {s : State} (elsewhere : s.ss.safety ≠ .disarmed) : armCommand who s =
    reply who codeArm (if s.ss.safety = .arming ∧ s.ss.armPending.isSome = true then .busy else .refused) .none s := by
  unfold armCommand
  split
  next disarmed => exact absurd disarmed elsewhere
  next arming => simp [arming]
  next _ notArming => simp [show s.ss.safety ≠ .arming from notArming]

/-- The node that ARM enables: ARMING, with the enable-settle time. -/
def arming (who : Slot) (s : State) : State :=
  { s with ss := { s.ss with
      safety := .arming, timer := some { phase := .enable, frames := s.cfg.enableSettle }, armPending := some who } }

theorem acceptArm_eq (who : Slot) (s : State) : acceptArm who s = reply who codeArm .accepted .none (enableAll (arming who s)) :=
  rfl

theorem acceptArm_chanView (who : Slot) {s : State} (few : s.cfg.nChans ≤ 4) {i : Nat} (hi : i < s.cfg.nChans) :
    Seeded (s.chanView i) ((acceptArm who s).chanView i) := by
  have seeded := enableAll_seeds (s := arming who s) few hi
  simpa [acceptArm_eq, State.chanView, arming] using seeded

/-- Settles O34: the tests of `armRefusal`, and what `enableAll` does to each channel. -/
theorem armIsTestedAndAccepted : Obligations.ArmIsTestedAndAccepted := by
  intro h serial s taken
  have owner : exec (.arm h serial) s = .next (armCommand (caller h serial) (heard h s)) :=
    command_of_obeys h serial codeArm 0 armCommand s taken rfl
  rw [owner]
  obtain ⟨_, open_, _⟩ := (obeys_iff h 0 s).1 taken
  refine ⟨fun disarmed => ⟨fun claims => ?claims, fun clear noOverflow => ⟨fun learning => ?learning, fun learnt =>
    ⟨fun missing => ?missing, fun peers => ⟨fun sensor => ?sensor, fun ready few => ?accepted⟩⟩⟩⟩,
    fun arming pending => ?busy, fun elsewhere => ?refused⟩
  case claims => exact congrArg _ (armCommand_of_refusal (by simpa) (by simp [State.armRefusal, claims]))
  case learning =>
    exact congrArg _ (armCommand_of_refusal (by simpa) (by simp [State.armRefusal, clear, noOverflow, learning]))
  case missing =>
    exact congrArg _ (armCommand_of_refusal (by simpa) (by simp [State.armRefusal, clear, noOverflow, learnt, missing]))
  case sensor =>
    exact congrArg _ (armCommand_of_refusal (by simpa) (by simp [State.armRefusal, clear, noOverflow, learnt, peers, sensor]))
  case accepted =>
    rw [armCommand_of_accepted (by simpa) (by simp [State.armRefusal, clear, noOverflow, learnt, peers, ready])]
    have view {i : Nat} (hi : i < s.cfg.nChans) := acceptArm_chanView (caller h serial) (s := heard h s) (i := i)
      (by simpa using few) (by simpa using hi)
    refine ⟨_, rfl, by simp [acceptArm], ?_, fun i hi off => ?_, fun i hi off => ?_, by simp [acceptArm, onlyChanges_iff]⟩
    · rw [acceptArm_eq]
      exact reply_congr _ _ _ _ (by simpa using open_) (by simp [arming, Safety.isOpen]) (by simp [arming]) (by simp [arming])
    · obtain ⟨_, seeded⟩ := view hi
      obtain ⟨line, chan⟩ := seeded (by simpa [State.chanView] using off)
      simp only [State.chanView, heard_frame] at line chan
      exact ⟨by rw [line], by rw [line], chan⟩
    · obtain ⟨same, _⟩ := view hi
      have same := same (by simpa [State.chanView] using off)
      simp [State.chanView] at same
      exact ⟨same.2.1, same.1⟩
  case busy =>
    rw [armCommand_elsewhere (by simp [arming])]
    simp [arming, Option.isSome_iff_ne_none, pending, codeArm]
  case refused =>
    have notDisarmed : s.ss.safety ≠ .disarmed ∧ s.ss.safety ≠ .arming := by
      rcases elsewhere with at_ | at_ | at_ <;> simp [at_]
    rw [armCommand_elsewhere (by simpa using notDisarmed.1)]
    simp [notDisarmed.2, codeArm]

/-! ### DISARM (R112) -/

theorem modLine_chan_line (i j : Nat) (hi : i < 4) (hj : j < 4) (f : DriveLine → DriveLine) (s : State) :
    (modLine i f s).dlu.lines.get j = if j = i then f (s.dlu.lines.get j) else s.dlu.lines.get j := by
  by_cases eq : j = i <;> simp [quad_get_set, hi, hj, eq]

/-- The setting of every brake leaves the outputs of the drives as they are (R88). -/
theorem setBrakes_line {s : State} (few : s.cfg.nChans ≤ 4) {i : Nat} (hi : i < s.cfg.nChans) :
    (setBrakes s).dlu.lines.get i = { s.dlu.lines.get i with released := false } :=
  (foldl_channels (side := fun _ => True) (view := fun u i => u.dlu.lines.get i)
    (change := fun _ l m => m = { l with released := false }) few (fun _ _ _ _ => trivial)
    (fun u k hk _ => by rw [modLine_chan_line k k (by omega) (by omega), if_pos rfl])
    (fun u k hk j hj ne _ => by rw [modLine_chan_line k j (by omega) hj, if_neg ne]) trivial).1 i hi

/-- The node that enters SECURING, before its brakes are set. -/
def securing (s : State) : State :=
  { s with ss := { s.ss with safety := .securing, timer := some { phase := .set, frames := s.cfg.brakeSet } } }

theorem enterSecuring_eq (s : State) : enterSecuring s = setBrakes (securing s) := rfl

theorem enterSecuring_line {s : State} (few : s.cfg.nChans ≤ 4) {i : Nat} (hi : i < s.cfg.nChans) :
    (enterSecuring s).dlu.lines.get i = { s.dlu.lines.get i with released := false } := by
  rw [enterSecuring_eq]
  exact setBrakes_line (s := securing s) few hi

theorem disarmCommand_of_armed {who : Slot} {s : State} (armed : s.ss.safety = .armed) : disarmCommand who s =
    if s.tpr.activity = .idle ∧ s.allAtRest = true then acceptDisarm who s else reply who codeDisarm .moving .none s := by
  simp [disarmCommand, armed]

theorem disarmCommand_elsewhere {who : Slot} {s : State} (elsewhere : s.ss.safety ≠ .armed) : disarmCommand who s =
    reply who codeDisarm (if s.ss.safety = .securing ∧ s.ss.disarmPending.isSome = true then .busy else .refused) .none s := by
  unfold disarmCommand
  split
  next armed => exact absurd armed elsewhere
  next securing => simp [securing]
  next _ notSecuring => simp [show s.ss.safety ≠ .securing from notSecuring]

theorem heard_allAtRest (h : Header) (s : State) : (heard h s).allAtRest = s.allAtRest := by
  simp [State.allAtRest, State.channels]

/-- What an accepted DISARM does to a channel, seen from the node before the report. -/
theorem acceptDisarm_channel {h : Header} (who : Slot) {s : State} (few : s.cfg.nChans ≤ 4) {i : Nat} (hi : i < s.cfg.nChans) :
    let t := acceptDisarm who (heard h s)
    (t.dlu.lines.get i).released = false ∧ (t.dlu.lines.get i).enable = (s.dlu.lines.get i).enable ∧
      ((s.dlu.lines.get i).enable = true → (s.chans.get i).mode ≠ .off → (t.chans.get i).mode = .stop) ∧
      (t.chans.get i).x = (s.chans.get i).x ∧ (t.chans.get i).v = (s.chans.get i).v := by
  intro t
  let u := reply who codeDisarm .accepted .none { heard h s with ss.disarmPending := some who }
  have line : t.dlu.lines.get i = { s.dlu.lines.get i with released := false } := by
    have set := enterSecuring_line (s := stopAll u) (by simpa [u] using few) (i := i) (by simpa [u] using hi)
    exact set.trans (by simp [u])
  have chan : t.chans.get i = if (s.dlu.lines.get i).enable = true ∧ (s.chans.get i).mode ≠ .off ∧
      (s.chans.get i).mode ≠ .stop then stopChan (s.chans.get i) else s.chans.get i := by
    have stopped := stopAll_chan i u (by simpa [u] using few) (by omega)
    have moved : t.chans = (stopAll u).chans := by simp only [t, u, acceptDisarm, enterSecuring_frame]
    rw [moved, stopped]
    simp [u, hi]
  refine ⟨by rw [line], by rw [line], fun on notOff => ?_, ?_, ?_⟩
  · rw [chan]
    by_cases stop : (s.chans.get i).mode = .stop <;> simp [on, notOff, stop, stopChan]
  · rw [chan, apply_ite Chan.x]
    exact ite_self _
  · rw [chan, apply_ite Chan.v]
    exact ite_self _

/-- Settles O35: the three branches of `disarmCommand`, and what the securing does to each channel. -/
theorem disarmIsTestedAndAccepted : Obligations.DisarmIsTestedAndAccepted := by
  intro h serial s taken
  have owner : exec (.disarm h serial) s = .next (disarmCommand (caller h serial) (heard h s)) :=
    command_of_obeys h serial codeDisarm 0 disarmCommand s taken rfl
  rw [owner]
  obtain ⟨_, open_, _⟩ := (obeys_iff h 0 s).1 taken
  refine ⟨fun armed idle rest few => ?accepted, fun armed busy => ?moving, fun securing pending => ?busy,
    fun elsewhere => ?refused⟩
  case accepted =>
    rw [disarmCommand_of_armed (by simpa), if_pos (by simp [idle, heard_allAtRest, rest])]
    refine ⟨_, rfl, by simp [acceptDisarm, enterSecuring], ?_, fun i hi => ?_, by simp [acceptDisarm, enterSecuring, onlyChanges_iff]⟩
    · simp only [acceptDisarm, enterSecuring_frame, stopAll_frame]
      exact reply_congr _ _ _ _ (by simpa using open_) (by simpa using open_) rfl rfl
    · exact acceptDisarm_channel (caller h serial) few hi
  case moving =>
    rw [disarmCommand_of_armed (by simpa), if_neg (by
      rintro ⟨idle, rest⟩
      simp only [heard_frame, heard_allAtRest] at idle rest
      exact busy.elim (fun other => other idle) (by simp [rest]))]
    rfl
  case busy =>
    rw [disarmCommand_elsewhere (by simp [securing])]
    simp [securing, Option.isSome_iff_ne_none, pending, codeDisarm]
  case refused =>
    have notArmed : s.ss.safety ≠ .armed ∧ ¬ (s.ss.safety = .securing ∧ s.ss.disarmPending.isSome = true) := by
      rcases elsewhere with at_ | at_ | at_ | ⟨at_, none⟩ <;> simp [*]
    rw [disarmCommand_elsewhere (by simpa using notArmed.1), if_neg (by simpa using notArmed.2)]
    rfl

/-! ### RELEASE (R96, R103) -/

@[simp] theorem withdrawOwn_claims (c : Cause) (s : State) :
    (withdrawOwn c s).ss.claims = removeClaim s.ss.claims s.cfg.station c := by
  unfold withdrawOwn
  cases found : findClaim s.ss.claims s.cfg.station c with
  | some e => simp
  | none =>
    have absent := (findClaim_none _ _ _).1 found
    exact (List.filter_eq_self.2 fun e he => by simp [absent e he]).symm

/-- Withdrawing leaves the claims list alone but for the entry, and every other value of the Safety Supervisor (R96). -/
theorem withdrawOwn_ss (c : Cause) (s : State) :
    (withdrawOwn c s).ss = { s.ss with claims := removeClaim s.ss.claims s.cfg.station c } := by
  rw [← withdrawOwn_claims]
  unfold withdrawOwn
  split <;> simp

/-- A change of the queues and of the count of dropped messages alone, in the LIF. -/
def SendsOnly (s t : State) : Prop :=
  t.lif = { s.lif with urgent := t.lif.urgent, ordinary := t.lif.ordinary, txDrops := t.lif.txDrops }

theorem SendsOnly.refl (s : State) : SendsOnly s s := rfl

theorem SendsOnly.of_eq {s t : State} (same : t.lif = s.lif) : SendsOnly s t := by
  unfold SendsOnly
  rw [same]

theorem SendsOnly.trans {s t u : State} (first : SendsOnly s t) (second : SendsOnly t u) : SendsOnly s u := by
  unfold SendsOnly at first second ⊢
  rw [second, first]

theorem SendsOnly.ite {s t u : State} {p : Prop} [Decidable p] (yes : SendsOnly s t) (no : SendsOnly s u) :
    SendsOnly s (if p then t else u) := by
  split
  next => exact yes
  next => exact no

theorem SendsOnly.quiet {s t : State} (sends : SendsOnly s t) : t.lif.quiet = s.lif.quiet := by rw [sends]

theorem SendsOnly.dupQuiet {s t : State} (sends : SendsOnly s t) : t.lif.dupQuiet = s.lif.dupQuiet := by rw [sends]

theorem SendsOnly.linkRelease {s t : State} (sends : SendsOnly s t) : t.lif.linkRelease = s.lif.linkRelease := by rw [sends]

theorem place_sends (m : Msg) (s : State) : SendsOnly s (place m s) := by
  unfold place
  refine .ite (.refl s) (.ite (.refl s) (.ite ?urgent ?ordinary))
  case urgent => cases enqueue s.lif.urgent m <;> rfl
  case ordinary => cases enqueue s.lif.ordinary m <;> rfl

theorem broadcast_sends (b : Body) (s : State) : SendsOnly s (broadcast b s) := place_sends _ s

theorem reply_sends (who : Slot) (code : Nat) (st : Status) (data : ReplyData) (s : State) :
    SendsOnly s (reply who code st data s) := place_sends _ s

theorem recomposeRoll_sends (s : State) : SendsOnly s (recomposeRoll s) := .ite (broadcast_sends _ s) (.refl s)

theorem withdrawOwn_sends (c : Cause) (s : State) : SendsOnly s (withdrawOwn c s) := by
  unfold withdrawOwn
  split
  next =>
    refine .trans ?_ (recomposeRoll_sends _)
    exact broadcast_sends _ { s with ss.claims := _ }
  next => exact .refl s

theorem withdrawOwn_releasable (c d : Cause) (s : State) : (withdrawOwn c s).releasable d = s.releasable d := by
  have quiet := (withdrawOwn_sends c s).dupQuiet
  have release := (withdrawOwn_sends c s).linkRelease
  cases d <;> simp [State.releasable, State.readingsReady, State.peersReady, State.channels, quiet, release]

/-- The own entry of a cause is one that RELEASE removes. -/
def State.releases (s : State) (c : Cause) : Bool :=
  (findClaim s.ss.claims s.cfg.station c).elim false fun e => e.latched && s.releasable c

theorem releaseCause_eq (c : Cause) (s : State) : releaseCause c s = if s.releases c then withdrawOwn c s else s := by
  unfold releaseCause State.releases
  cases findClaim s.ss.claims s.cfg.station c <;> simp

theorem findClaim_removeClaim {l : List Claim} {o : Nat} {c d : Cause} (ne : d ≠ c) :
    findClaim (removeClaim l o c) o d = findClaim l o d := by
  induction l with
  | nil => rfl
  | cons e l ih =>
    simp only [findClaim, removeClaim] at ih ⊢
    by_cases key : e.hasKey o d = true
    · have other : e.hasKey o c = false := by
        simp only [Claim.hasKey, Bool.and_eq_true, beq_iff_eq] at key
        simp [Claim.hasKey, key.2, ne]
      simp [other, key]
    · by_cases gone : e.hasKey o c = true <;> simp [gone, key, ih]

theorem withdrawOwn_releases {c d : Cause} (ne : d ≠ c) (s : State) : (withdrawOwn c s).releases d = s.releases d := by
  simp [State.releases, withdrawOwn_releasable, findClaim_removeClaim ne]

/-- RELEASE withdraws each own entry that it may, in the order of the causes. -/
theorem foldl_releaseCause {cs : List Cause} (each : cs.Nodup) (s : State) :
    cs.foldl (fun u c => releaseCause c u) s = (cs.filter s.releases).foldl (fun u c => withdrawOwn c u) s := by
  induction cs generalizing s with
  | nil => rfl
  | cons c cs ih =>
    obtain ⟨fresh, each⟩ := List.nodup_cons.1 each
    rw [List.foldl_cons, ih each, releaseCause_eq]
    by_cases may : s.releases c = true
    · have same : cs.filter (withdrawOwn c s).releases = cs.filter s.releases :=
        List.filter_congr fun d hd => withdrawOwn_releases (ne_of_mem_of_not_mem hd fresh) s
      rw [if_pos may, same, List.filter_cons_of_pos may, List.foldl_cons]
    · rw [if_neg may, List.filter_cons_of_neg may]

theorem foldl_withdrawOwn_ss (cs : List Cause) (s : State) : (cs.foldl (fun u c => withdrawOwn c u) s).ss =
    { s.ss with claims := s.ss.claims.filter fun k => !(k.origin == s.cfg.station && cs.contains k.cause) } := by
  induction cs generalizing s with
  | nil => simp
  | cons c cs ih =>
    rw [List.foldl_cons, ih, withdrawOwn_ss]
    simp only [removeClaim, List.filter_filter, withdrawOwn_frame, Claim.hasKey, List.contains_cons]
    congr 2
    funext k
    cases k.origin == s.cfg.station <;> simp [Bool.and_comm]

/-- In an ordered list an entry is the one found of its origin and cause. -/
theorem findClaim_of_mem {l : List Claim} (order : l.Pairwise fun a b => Claim.before a b = true) {k : Claim} (hk : k ∈ l) :
    findClaim l k.origin k.cause = some k := by
  induction l with
  | nil => cases hk
  | cons e l ih =>
    obtain ⟨above, order⟩ := List.pairwise_cons.1 order
    rcases List.mem_cons.1 hk with rfl | later
    · simp [findClaim, Claim.hasKey]
    · have other : e.hasKey k.origin k.cause = false := by
        have before := (before_iff e k).1 (above k later)
        simp only [Claim.hasKey, Bool.and_eq_false_iff, beq_eq_false_iff_ne]
        by_contra both
        push Not at both
        simp [both.1, both.2] at before
      simpa [findClaim, other] using ih order later

/-- The own entries that RELEASE removes, in the order of the list, have the causes that it withdraws in their order. -/
theorem causes_released {s : State} (ordered : ClaimsOrdered s) :
    (s.ss.claims.filter fun k => k.origin == s.cfg.station && k.latched && s.releasable k.cause).map (·.cause) =
      Cause.all.filter s.releases := by
  obtain ⟨_, order⟩ := ordered
  have coded : Function.Injective (List.map Cause.code) := List.map_injective_iff.2 fun a b => cause_code_injective a b
  apply coded
  refine List.Pairwise.eq_of_mem_iff (r := (· < ·)) ?listed ?named fun n => ?same
  case listed =>
    rw [List.map_map, List.pairwise_map, List.pairwise_filter]
    refine order.imp fun {a b} before ha hb => ?_
    simp only [Bool.and_eq_true, beq_iff_eq] at ha hb
    rcases (before_iff a b).1 before with below | ⟨_, below⟩
    · omega
    · exact below
  case named => exact List.pairwise_map.2 (List.Pairwise.filter _ (by decide))
  case same =>
    have all (c : Cause) : c ∈ Cause.all := by cases c <;> decide
    simp only [List.mem_map, List.mem_filter, Bool.and_eq_true, beq_iff_eq, all, true_and]
    constructor
    · rintro ⟨c, ⟨k, ⟨hk, ⟨own, latched⟩, may⟩, rfl⟩, rfl⟩
      refine ⟨k.cause, ?_, rfl⟩
      have found := findClaim_of_mem order hk
      rw [own] at found
      simp [State.releases, found, latched, may]
    · rintro ⟨c, may, rfl⟩
      unfold State.releases at may
      cases found : findClaim s.ss.claims s.cfg.station c with
      | none => simp [found] at may
      | some e =>
        have key := List.find?_some found
        simp only [Claim.hasKey, Bool.and_eq_true, beq_iff_eq] at key
        obtain ⟨own, rfl⟩ := key
        simp only [found, Option.elim_some, Bool.and_eq_true] at may
        exact ⟨e.cause, ⟨e, ⟨List.mem_of_find?_eq_some found, ⟨own, may.1⟩, may.2⟩, rfl⟩, rfl⟩

theorem foldl_onlyChanges {α : Type} {bs : List Block} {f : State → α → State} (round : ∀ u a, OnlyChanges bs u (f u a))
    (l : List α) (s : State) : OnlyChanges bs s (l.foldl f s) := by
  induction l generalizing s with
  | nil => exact fun b _ => by cases b <;> rfl
  | cons a l ih => exact .trans (round s a) (ih _)

theorem withdrawOwn_onlyChanges (c : Cause) (s : State) : OnlyChanges [.lif, .ss, .attention] s (withdrawOwn c s) := by
  simp [onlyChanges_iff]

/-- In an ordered list, an own entry has a cause that RELEASE withdraws when RELEASE removes it. -/
theorem released_iff {s : State} (ordered : ClaimsOrdered s) {k : Claim} (hk : k ∈ s.ss.claims) :
    (k.origin == s.cfg.station && (Cause.all.filter s.releases).contains k.cause) =
      (k.origin == s.cfg.station && k.latched && s.releasable k.cause) := by
  by_cases own : k.origin = s.cfg.station
  · have found := findClaim_of_mem ordered.2 hk
    rw [own] at found
    have all : k.cause ∈ Cause.all := by cases k.cause <;> decide
    have listed : (Cause.all.filter s.releases).contains k.cause = s.releases k.cause := by
      simp [all]
    rw [listed]
    simp [own, State.releases, found]
  · rw [beq_false_of_ne own]
    simp

/-- Settles O36: `foldl_releaseCause` with the causes read off the ordered list. -/
theorem releaseRemovesWhatIsReleasable : Obligations.ReleaseRemovesWhatIsReleasable := by
  refine ⟨fun h serial s taken ordered => ?release, fun c s stands => ?withdraw, fun c s absent => ?absent,
    fun c s always => ?always, fun s => ⟨rfl, rfl, rfl, rfl, ?drive⟩⟩
  case release =>
    have owner : exec (.release h serial) s = .next (releaseCommand (caller h serial) (heard h s)) :=
      command_of_obeys h serial codeRelease 0 releaseCommand s taken rfl
    have there : ClaimsOrdered (heard h s) := by simpa [ClaimsOrdered] using ordered
    let released := s.ss.claims.filter fun k => k.origin == s.cfg.station && k.latched && (heard h s).releasable k.cause
    have causes : released.map (·.cause) = Cause.all.filter (heard h s).releases := by
      simpa [released] using causes_released there
    let u := released.foldl (fun v k => withdrawOwn k.cause v) (heard h s)
    have folded : u = Cause.all.foldl (fun v c => releaseCause c v) (heard h s) := by
      rw [foldl_releaseCause (by decide), ← causes, List.foldl_map]
    have ss : u.ss = { s.ss with claims := s.ss.claims.filter fun k =>
        !(k.origin == s.cfg.station && k.latched && (heard h s).releasable k.cause) } := by
      rw [folded, foldl_releaseCause (by decide), foldl_withdrawOwn_ss, heard_ss]
      refine congrArg (fun l => { s.ss with claims := l }) (List.filter_congr fun k hk => congrArg (!·) ?_)
      have iff := released_iff there (k := k) (by simpa using hk)
      simpa only [heard_frame] using iff
    have cfg : u.cfg = s.cfg := by simp [u]
    have only : OnlyChanges [.lif, .ss, .attention] (heard h s) u :=
      foldl_onlyChanges (fun v (k : Claim) => withdrawOwn_onlyChanges k.cause v) _ _
    refine ⟨u, ?_, ss, rfl, ?_⟩
    · rw [owner, releaseCommand, ← folded, State.ownClaims, cfg]
      rfl
    · exact ((heard_onlyChanges h s).mono (by simp)).trans (only.mono (by simp))
  case withdraw =>
    obtain ⟨e, found⟩ := Option.ne_none_iff_exists'.1 stands
    simp [withdrawOwn, found, removeClaim, Claim.hasKey]
  case absent => simp [withdrawOwn, absent]
  case always => rcases always with rfl | rfl | rfl | rfl | rfl <;> rfl
  case drive => simp [State.releasable, State.channels]

end Sys2Proof.Machine
end

section
/-! The commands of the Take Store, and the items of STATUS-QUERY. -/

namespace Sys2Proof.Machine

open Sys2Proof

/-! ### Channel sets -/

theorem ne_zero_iff_exists : ∀ m : ChanSet, m ≠ 0 ↔ ∃ c < 4, m.getLsbD c = true := by decide

theorem eq_zero_iff_forall (m : ChanSet) : m = 0 ↔ ∀ c < 4, m.getLsbD c = false := by
  have some := not_congr (ne_zero_iff_exists m)
  simpa using some

theorem within_iff : ∀ a b : ChanSet, within a b = true ↔ ∀ c < 4, a.getLsbD c = true → b.getLsbD c = true := by decide

theorem mem_chanList {c : Nat} {m : ChanSet} : c ∈ chanList m ↔ c < 4 ∧ m.getLsbD c = true := by
  simp [chanList, Config.maxChans]

theorem chanSetBelow_iff {m : ChanSet} {n : Nat} : chanSetBelow m n = true ↔ ∀ c < 4, m.getLsbD c = true → c < n := by
  simp only [chanSetBelow, Config.maxChans, List.all_eq_true, List.mem_range, Bool.or_eq_true, Bool.not_eq_true',
    decide_eq_true_eq]
  refine forall₂_congr fun c _ => ?_
  cases m.getLsbD c <;> simp

/-! ### TAKE-OPEN (R134, R137, R138) -/

theorem openArgsGood_resident {a : TakeOpenArgs} {n : Nat} : openArgsGood a .resident n = true ↔
    a.id ≠ 0 ∧ (∃ c < 4, (chanSetOf a.chanSet).getLsbD c = true) ∧
    (∀ c < 4, (chanSetOf a.chanSet).getLsbD c = true → c < n) ∧
    (∀ c < 4, (chanSetOf a.editSet).getLsbD c = true → (chanSetOf a.chanSet).getLsbD c = true) ∧
    1 ≤ a.size.toNat ∧ a.size.toNat ≤ 8192 := by
  simp only [openArgsGood, Bool.and_eq_true, decide_eq_true_eq, ne_zero_iff_exists, chanSetBelow_iff, within_iff, and_assoc]
  exact Iff.rfl

theorem openArgsGood_stream {a : TakeOpenArgs} {n : Nat} : openArgsGood a .stream n = true ↔
    a.id ≠ 0 ∧ (∃ c < 4, (chanSetOf a.chanSet).getLsbD c = true) ∧
    (∀ c < 4, (chanSetOf a.chanSet).getLsbD c = true → c < n) ∧
    (∀ c < 4, (chanSetOf a.editSet).getLsbD c = true → (chanSetOf a.chanSet).getLsbD c = true) ∧
    64 ≤ a.size.toNat ∧ a.size.toNat ≤ 4096 ∧ a.low.toNat < a.high.toNat ∧ a.high.toNat < a.size.toNat := by
  simp only [openArgsGood, Bool.and_eq_true, decide_eq_true_eq, ne_zero_iff_exists, chanSetBelow_iff, within_iff, and_assoc]

/-- Every free run reaches down to position 0 or to the end of an extent. -/
theorem runFree_reaches_down {extents : List (Nat × Nat)} {n p : Nat} (free : runFree extents n p = true) :
    ∃ q ≤ p, q ∈ 0 :: extents.map (fun e => e.1 + e.2) ∧ runFree extents n q = true := by
  induction p with
  | zero => exact ⟨0, le_rfl, List.mem_cons_self, free⟩
  | succ p ih =>
    by_cases below : runFree extents n p = true
    · obtain ⟨q, le, listed, run⟩ := ih below
      exact ⟨q, by omega, listed, run⟩
    · refine ⟨p + 1, le_rfl, List.mem_cons_of_mem _ (List.mem_map.2 ?_), free⟩
      simp only [runFree, Bool.and_eq_true, decide_eq_true_eq, List.all_eq_true, Bool.or_eq_true] at free below
      obtain ⟨room, apart⟩ := free
      simp only [not_and, not_forall] at below
      obtain ⟨e, he, meets⟩ := below (by omega)
      exact ⟨e, he, by rcases apart e he with before | after <;> omega⟩

theorem firstFit_lowest {extents : List (Nat × Nat)} {n base : Nat} (fits : firstFit extents n = some base) {p : Nat}
    (below : p < base) : runFree extents n p = false := by
  rw [Bool.eq_false_iff]
  intro free
  obtain ⟨q, le, listed, run⟩ := runFree_reaches_down free
  obtain ⟨_, least⟩ := List.min?_eq_some_iff.1 fits
  exact absurd (least q (List.mem_filter.2 ⟨listed, run⟩)) (by omega)

theorem firstFit_none_iff {extents : List (Nat × Nat)} {n : Nat} :
    firstFit extents n = none ↔ ∀ p, runFree extents n p = false := by
  constructor
  · intro none p
    rw [Bool.eq_false_iff]
    intro free
    obtain ⟨q, _, listed, run⟩ := runFree_reaches_down free
    have empty := List.min?_eq_none_iff.1 none
    have inside : q ∈ (0 :: extents.map fun e => e.1 + e.2).filter (runFree extents n) := List.mem_filter.2 ⟨listed, run⟩
    rw [empty] at inside
    cases inside
  · intro full
    cases fits : firstFit extents n with
    | none => rfl
    | some base => exact absurd (runFree_of_firstFit fits) (by simp [full base])

theorem freeEntry_lowest {l : List (Option Take)} {e e' : Nat} (free : freeEntry l = some e) (below : e' < e) :
    l[e']? ≠ some none := by
  obtain ⟨he, _, used⟩ := List.findIdx?_eq_some_iff_getElem.mp free
  rw [List.getElem?_eq_getElem (by omega)]
  intro none
  have inUse := used e' below
  simp [Option.some.inj none] at inUse

theorem freeEntry_none_iff {l : List (Option Take)} : freeEntry l = none ↔ ∀ e ∈ l, e ≠ none := by
  simp [freeEntry, List.findIdx?_eq_none_iff, ← Option.isSome_iff_ne_none]

section
variable {a : TakeOpenArgs} {who : Slot} {k : TakeKind} {s : State}

theorem takeOpen_of_kind (unknown : TakeKind.ofCode a.kind = none) :
    takeOpenCommand a who s = reply who codeTakeOpen .badArg .none s := by
  simp [takeOpenCommand, unknown]

variable (kind : TakeKind.ofCode a.kind = some k)
include kind

theorem takeOpen_of_bad (bad : openArgsGood a k s.cfg.nChans = false) :
    takeOpenCommand a who s = reply who codeTakeOpen .badArg .none s := by
  simp [takeOpenCommand, kind, bad]

theorem takeOpen_of_known (good : openArgsGood a k s.cfg.nChans = true) (known : s.findTake a.id.toNat ≠ none) :
    takeOpenCommand a who s = reply who codeTakeOpen .exists_ .none s := by
  simp [takeOpenCommand, kind, good, Option.isSome_iff_ne_none, known]

theorem takeOpen_of_full (good : openArgsGood a k s.cfg.nChans = true) (new : s.findTake a.id.toNat = none)
    (full : freeEntry s.ts.dir = none) : takeOpenCommand a who s = reply who codeTakeOpen .dirFull .none s := by
  simp [takeOpenCommand, kind, good, new, full]

theorem takeOpen_of_noRoom {e : Nat} (good : openArgsGood a k s.cfg.nChans = true) (new : s.findTake a.id.toNat = none)
    (free : freeEntry s.ts.dir = some e) (noRoom : firstFit s.extents a.size.toNat = none) :
    takeOpenCommand a who s = reply who codeTakeOpen .noRoom .none s := by
  simp [takeOpenCommand, kind, good, new, free, noRoom]

theorem takeOpen_of_fit {e base : Nat} (good : openArgsGood a k s.cfg.nChans = true) (new : s.findTake a.id.toNat = none)
    (free : freeEntry s.ts.dir = some e) (fit : firstFit s.extents a.size.toNat = some base) :
    takeOpenCommand a who s = reply who codeTakeOpen .done (.opened e base)
      { s with ts := { s.ts with
          store := s.ts.store.clearRange base a.size.toNat
          dir := s.ts.dir.set e (some (openedTake a k base who.station)) } } := by
  simp [takeOpenCommand, kind, good, new, free, fit]

end

theorem heard_dir (h : Header) (s : State) : (heard h s).ts.dir = s.ts.dir := by simp

/-- A take changed after the report of a message. -/
theorem modTake_heard (h : Header) (id : Nat) (f : Take → Take) (s : State) : modTake id f (heard h s) =
    { heard h s with ts.dir := s.ts.dir.map (Option.map fun k => if k.id = id then f k else k) } := by
  unfold modTake
  rw [heard_dir]

theorem freeTake_heard (h : Header) (id : Nat) (s : State) : freeTake id (heard h s) =
    { heard h s with ts.dir := s.ts.dir.map fun e => match e with
        | some k => if k.id = id then none else some k
        | none => none } := by
  unfold freeTake
  rw [heard_dir]
  refine congrArg (fun d => { heard h s with ts.dir := d }) (List.map_congr_left fun e _ => ?_)
  cases e <;> rfl

theorem heard_extents (h : Header) (s : State) : (heard h s).extents = s.extents := by simp [State.extents]

/-- Settles O38: the branches of `takeOpenCommand`, with first fit as the lowest free run. -/
theorem takeOpenAllocatesFirstFit : Obligations.TakeOpenAllocatesFirstFit := by
  refine ⟨fun h serial a s taken => ?_, fun a n => openArgsGood_resident, fun a n => openArgsGood_stream⟩
  have owner : exec (.takeOpen h serial a) s = .next (takeOpenCommand a (caller h serial) (heard h s)) :=
    command_of_obeys h serial codeTakeOpen 10 (takeOpenCommand a) s taken rfl
  rw [owner]
  refine ⟨fun notResident notStream => ?kind, fun k kind => ⟨fun bad => ?bad, fun good known => ?known, fun good new full => ?full,
    fun good new free noRoom => ?noRoom, fun good new free room => ?fit⟩⟩
  case kind => exact congrArg _ (takeOpen_of_kind ((if_neg notResident).trans (if_neg notStream)))
  case bad => exact congrArg _ (takeOpen_of_bad kind (by simpa using bad))
  case known => exact congrArg _ (takeOpen_of_known kind (by simpa using good) (by simpa using known))
  case full =>
    exact congrArg _ (takeOpen_of_full kind (by simpa using good) (by simpa using new) (freeEntry_none_iff.2 (by simpa using full)))
  all_goals
    obtain ⟨e, entry⟩ : ∃ e, freeEntry s.ts.dir = some e := by
      refine Option.ne_none_iff_exists'.1 fun full => ?_
      obtain ⟨e, he, none⟩ := free
      exact freeEntry_none_iff.1 full e he none
  case noRoom =>
    exact congrArg _ (takeOpen_of_noRoom kind (by simpa using good) (by simpa using new) (by simpa using entry)
      (by simpa [heard_extents] using firstFit_none_iff.2 noRoom))
  case fit =>
    obtain ⟨base, fit⟩ : ∃ base, firstFit s.extents a.size.toNat = some base := by
      refine Option.ne_none_iff_exists'.1 fun none => ?_
      obtain ⟨p, free⟩ := room
      simp [firstFit_none_iff.1 none p] at free
    refine ⟨e, base, _, congrArg _ (takeOpen_of_fit kind (by simpa using good) (by simpa using new) (by simpa using entry)
      (by simpa only [heard_extents] using fit)), freeEntry_some entry, fun e' below => freeEntry_lowest entry below,
      runFree_of_firstFit fit, fun p below => firstFit_lowest fit below, rfl, by simp, ?_, fun p low high => ?_, fun p outside => ?_⟩
    · cases k <;> simp [openedTake, caller]
    · simp [Memory.read_clearRange, low, high]
    · simp [Memory.read_clearRange]
      omega

/-! ### TAKE-DELETE and TAKE-REWIND (R136, R139, R140) -/

theorem inUse_iff {s : State} {id : Nat} : s.inUse id = true ↔
    s.tpr.take = some id ∧ s.tpr.activity ≠ .idle ∧ s.tpr.activity ≠ .live := by
  cases activity : s.tpr.activity <;> simp [State.inUse, activity, Activity.hasTake]

theorem inUse_eq_false {s : State} {id : Nat} (not : s.tpr.take ≠ some id ∨ s.tpr.activity = .idle ∨ s.tpr.activity = .live) :
    s.inUse id = false := by
  rw [Bool.eq_false_iff, ne_eq, inUse_iff]
  tauto

theorem heard_inUse (h : Header) (s : State) (id : Nat) : (heard h s).inUse id = s.inUse id := by simp [State.inUse]

/-- Settles O39: the three branches of `takeDeleteCommand`. -/
theorem takeDeleteFreesTheEntry : Obligations.TakeDeleteFreesTheEntry := by
  intro h serial take s taken
  have owner : exec (.takeDelete h serial take) s = .next (takeDeleteCommand take.toNat (caller h serial) (heard h s)) :=
    command_of_obeys h serial codeTakeDelete 1 (takeDeleteCommand take.toNat) s taken rfl
  rw [owner, takeDeleteCommand, heard_findTake, heard_inUse]
  refine ⟨fun none => ?none, fun stands => ⟨fun used => ?used, fun unused => ?unused⟩⟩
  case none => rw [if_pos (by simp [none])]; rfl
  case used => rw [if_neg (by simpa using stands), if_pos (inUse_iff.2 used)]; rfl
  case unused =>
    rw [if_neg (by simpa using stands), if_neg (by simp [inUse_eq_false unused])]
    exact congrArg (fun u => Host.Outcome.next (reply (caller h serial) 6 .done .none u)) (freeTake_heard h _ s)

/-- Settles O40: the four branches of `takeRewindCommand`. -/
theorem takeRewindEmptiesTheRing : Obligations.TakeRewindEmptiesTheRing := by
  intro h serial take s taken
  have owner : exec (.takeRewind h serial take) s = .next (takeRewindCommand take.toNat (caller h serial) (heard h s)) :=
    command_of_obeys h serial codeTakeRewind 1 (takeRewindCommand take.toNat) s taken rfl
  rw [owner, takeRewindCommand, heard_findTake, heard_inUse]
  refine ⟨fun none => ?none, fun k found same busy notLive => ?used, fun k found unused => ⟨fun resident => ?resident, fun stream => ?stream⟩⟩
  case none => rw [none]; rfl
  case used => simp only [found, if_pos (inUse_iff.2 ⟨same, busy, notLive⟩)]; rfl
  case resident => simp only [found, inUse_eq_false unused, resident]; rfl
  case stream =>
    simp only [found, inUse_eq_false unused, stream, modTake_heard]
    rfl

/-! ### STATUS-QUERY (R192 to R196) -/

theorem attentionQuery_eq (clear : Bool) (who : Slot) (s : State) : attentionQuery clear who s =
    reply who 14 .done (.attention s.attention (if s.ss.safety = .faulted then s.cl.fault else 0)
      (if s.ss.safety = .faulted then s.cl.item else 0)) { s with attention := if clear then 0 else s.attention } := by
  cases clear <;> simp [attentionQuery, codeStatusQuery]

/-- Settles O46: each item's query, with its CLEAR. -/
theorem statusQueryShowsEachItem : Obligations.StatusQueryShowsEachItem := by
  refine ⟨fun h serial start clear s taken => ?open_, fun h serial start clear s received addressed length faulted may => ?faulted⟩
  case open_ =>
    have owner (query : Slot → State → State) : command h serial codeStatusQuery query s =
        .next (query (caller h serial) (heard h s)) := command_of_obeys h serial codeStatusQuery 3 query s taken rfl
    obtain ⟨_, open_, _⟩ := (obeys_iff h 3 s).1 taken
    have notFaulted := not_faulted_of_open open_
    refine ⟨fun keep => ?keep, fun remove => ?remove, ?counters, ?claims, ?roster, fun outside => ?outside, fun e inside entry => ?entry,
      fun none => ?noTake, fun k found keep => ?latch, fun k found remove => ?unlatch⟩
    case keep =>
      have flag : clearFlag clear = false := keep
      exact (owner _).trans (by simp [attentionQuery, notFaulted, flag, codeStatusQuery])
    case remove =>
      have flag : clearFlag clear = true := remove
      exact (owner _).trans (by simp [attentionQuery, notFaulted, flag, codeStatusQuery])
    case counters => exact (owner _).trans (by simp [countersQuery, codeStatusQuery])
    case claims => exact (owner _).trans (by simp [claimsQuery, codeStatusQuery])
    case roster => exact owner _
    case outside => exact (owner _).trans (congrArg _ (if_pos outside))
    case entry =>
      refine (owner _).trans (congrArg _ ((if_neg (not_le.2 inside)).trans ?_))
      simp [entry, codeStatusQuery]
    case noTake => exact (owner _).trans (by simp [latchQuery, none, codeStatusQuery])
    case latch =>
      have flag : clearFlag clear = false := keep
      exact (owner _).trans (by simp [latchQuery, found, flag, codeStatusQuery])
    case unlatch =>
      refine (owner _).trans ?_
      simp only [latchQuery, heard_findTake, found, clearFlag, remove, modTake_heard]
      rfl
  case faulted =>
    have passed : (heard h s).gate h.source.toNat codeStatusQuery = none := by
      rcases may with control | unknown <;>
        simp_all [State.gate, State.mayCommand, State.admits, argOctets, codeStatusQuery]
    refine (command_of_gate received addressed (n := 3) length passed rfl).trans ?_
    have attention : (heard h s).attention = s.attention := by rw [heard_of_closed (by simp [faulted, Safety.isOpen])]
    simp [attentionQuery_eq, faulted, attention, clearFlag]

end Sys2Proof.Machine
end

section
/-! Requests for a mode channel by channel, and what the passage to IDLE and the test of a cue do. -/

namespace Sys2Proof.Machine

open Sys2Proof

/-! ### Requests for a mode (R54, R109) -/

/-- A channel after a request for a mode, with its drive on or off. -/
def requested (on : Bool) (table : List (Nat × Int)) (m : Mode) (c : Chan) : Chan :=
  if on = false ∨ c.mode = m ∨ c.mode = c.modeFor m then c else c.enter table (c.modeFor m)

theorem requestMode_chan (m : Mode) {i j : Nat} (hi : i < 4) (hj : j < 4) (s : State) : (requestMode m i s).chans.get j =
    if j = i then requested (s.dlu.lines.get j).enable (s.cfg.chan.get j).table m (s.chans.get j) else s.chans.get j := by
  by_cases eq : j = i
  · subst eq
    rw [if_pos rfl, requestMode, requested]
    split
    next off => simp [off]
    next on =>
      split
      next there => rw [if_pos (.inr there)]
      next elsewhere => rw [if_neg (by simpa [on] using elsewhere), modChan_chans, quad_get_set _ _ _ _ hj hj, if_pos rfl]
  · rw [if_neg eq, requestMode]
    split
    next => rfl
    next =>
      split
      next => rfl
      next => rw [modChan_chans, quad_get_set _ _ _ _ hi hj, if_neg eq]

theorem requestByPlayer_of_free {s : State} (notStopping : s.ss.safety ≠ .stopping) (notSecuring : s.ss.safety ≠ .securing)
    (m : Mode) (i : Nat) : requestByPlayer m i s = requestMode m i s := by
  unfold requestByPlayer
  split <;> simp_all

theorem requestByPlayer_of_ending {s : State} (ending : s.ss.safety = .stopping ∨ s.ss.safety = .securing) (m : Mode) (i : Nat) :
    requestByPlayer m i s = s := by
  rcases ending with stopping | securing <;> simp [requestByPlayer, *]

/-- A channel whose drive is on is afterwards in the mode that was asked for, or in HALT where HOLD is asked of a channel that
moves (R54). -/
theorem requested_mode {table : List (Nat × Int)} {m : Mode} {c : Chan} (other : c.mode ≠ m) :
    (requested true table m c).mode = c.modeFor m := by
  unfold requested
  split
  next there => simp_all
  next => rfl

theorem requested_mode_of_ne_hold {table : List (Nat × Int)} {m : Mode} (ne : m ≠ .hold) (c : Chan) :
    (requested true table m c).mode = m := by
  by_cases there : c.mode = m
  · simp [requested, there]
  · rw [requested_mode there]
    simp [Chan.modeFor, ne]

theorem requested_hold_mode {table : List (Nat × Int)} {c : Chan} (other : c.mode ≠ .hold) :
    (requested true table .hold c).mode = if c.v = 0 then .hold else .halt := by
  rw [requested_mode other]
  by_cases still : c.v = 0 <;> simp [Chan.modeFor, still]

/-- What the requests of a round read beside the channels. -/
def SameOutputs (s u : State) : Prop := u.ss = s.ss ∧ u.dlu = s.dlu ∧ u.cfg = s.cfg

theorem SameOutputs.refl (s : State) : SameOutputs s s := ⟨rfl, rfl, rfl⟩

theorem SameOutputs.request {s u : State} (same : SameOutputs s u) (m : Mode) (i : Nat) :
    SameOutputs s (requestByPlayer m i u) := by
  obtain ⟨ss, dlu, cfg⟩ := same
  exact ⟨by simp [ss], by simp [dlu], by simp [cfg]⟩

/-- A request of the Take Player for each channel of a list, at an ARMED node. -/
theorem requestEach_chan {s : State} (armed : s.ss.safety = .armed) (m : Mode) {is : List Nat} (each : is.Nodup)
    (inside : ∀ i ∈ is, i < 4) :
    (∀ i ∈ is, (requestEach m is s).chans.get i =
      requested (s.dlu.lines.get i).enable (s.cfg.chan.get i).table m (s.chans.get i)) ∧
    ∀ j < 4, j ∉ is → (requestEach m is s).chans.get j = s.chans.get j := by
  have free {u : State} (same : SameOutputs s u) (i : Nat) : requestByPlayer m i u = requestMode m i u := by
    obtain ⟨ss, _, _⟩ := same
    exact requestByPlayer_of_free (by simp [ss, armed]) (by simp [ss, armed]) m i
  refine foldl_each (side := SameOutputs s) (view := fun u i => u.chans.get i)
    (change := fun i c d => d = requested (s.dlu.lines.get i).enable (s.cfg.chan.get i).table m c) each inside
    (fun u i _ same => same.request m i) (fun u i hi same => ?own) (fun u i hi j hj ne same => ?other) (.refl s)
  case own =>
    obtain ⟨_, dlu, cfg⟩ := id same
    rw [free same, requestMode_chan m (inside i hi) (inside i hi), if_pos rfl, dlu, cfg]
  case other => rw [free same, requestMode_chan m (inside i hi) hj, if_neg ne]

theorem chanList_nodup (m : ChanSet) : (chanList m).Nodup := List.nodup_range.filter _

theorem chanList_inside {m : ChanSet} {i : Nat} (hi : i ∈ chanList m) : i < 4 := (mem_chanList.1 hi).1

/-- HOLD requested for the channels not in HOLD, at an ARMED node (R154). -/
theorem holdAll_chan {s : State} (armed : s.ss.safety = .armed) (few : s.cfg.nChans ≤ 4) {i : Nat} (hi : i < s.cfg.nChans) :
    (holdAll s).chans.get i = if (s.chans.get i).mode = .hold then s.chans.get i else
      requested (s.dlu.lines.get i).enable (s.cfg.chan.get i).table .hold (s.chans.get i) := by
  have free {u : State} (same : SameOutputs s u) (i : Nat) : requestByPlayer .hold i u = requestMode .hold i u := by
    obtain ⟨ss, _, _⟩ := same
    exact requestByPlayer_of_free (by simp [ss, armed]) (by simp [ss, armed]) .hold i
  refine (foldl_channels (side := SameOutputs s) (view := fun u i => u.chans.get i)
    (change := fun i c d => d = if c.mode = .hold then c else
      requested (s.dlu.lines.get i).enable (s.cfg.chan.get i).table .hold c) few
    (fun u k _ same => ?side) (fun u k hk same => ?own) (fun u k hk j hj ne same => ?other) (.refl s)).1 i hi
  case side => split; exacts [same, same.request _ _]
  case own =>
    obtain ⟨_, dlu, cfg⟩ := id same
    split
    next => rfl
    next => rw [free same, requestMode_chan _ (by omega) (by omega), if_pos rfl, dlu, cfg]
  case other =>
    split
    next => rfl
    next => rw [free same, requestMode_chan _ (by omega) hj, if_neg ne]

/-! ### The passage to IDLE (R154, R187) -/

/-- What a message does to the queues and the attention set depends on these blocks alone. -/
theorem place_same (m : Msg) {s t : State} (ss : t.ss = s.ss) (cl : t.cl = s.cl) (lif : t.lif = s.lif)
    (attention : t.attention = s.attention) : (place m t).lif = (place m s).lif ∧ (place m t).attention = (place m s).attention := by
  have silent : t.silent = s.silent := by simp [State.silent, ss, cl]
  unfold place
  rw [silent, ss, lif]
  repeat' split
  all_goals simp [txDrop, raise, lif, attention]

theorem completeCue_same (st : Status) {s t : State} (ss : t.ss = s.ss) (cl : t.cl = s.cl) (lif : t.lif = s.lif)
    (attention : t.attention = s.attention) (tpr : t.tpr = s.tpr) :
    (completeCue st t).lif = (answered s.tpr.cueCompletion codeCue st s).lif ∧
      (completeCue st t).attention = (answered s.tpr.cueCompletion codeCue st s).attention := by
  unfold completeCue answered
  rw [tpr]
  cases s.tpr.cueCompletion with
  | none => exact ⟨lif, attention⟩
  | some w => exact place_same _ ss cl lif attention

/-- The ease flag cleared for the next frame, where it stands. -/
def easeOff (s : State) : State := if s.pu.ease then easeFor (s.ft.frame + 1) false s else s

theorem passageToIdle_eq (st : Status) (s : State) :
    passageToIdle st s = clearLive (clearPlay (easeOff (completeCue st (spendPlayed (holdAll s))))) := rfl

theorem passageToIdle_sends (st : Status) (s : State) :
    (passageToIdle st s).lif = (answered s.tpr.cueCompletion codeCue st s).lif ∧
      (passageToIdle st s).attention = (answered s.tpr.cueCompletion codeCue st s).attention := by
  have lif (u : State) : (easeOff u).lif = u.lif := by unfold easeOff; split <;> simp
  have attention (u : State) : (easeOff u).attention = u.attention := by unfold easeOff; split <;> simp
  simp only [passageToIdle_eq, clearLive_frame, clearPlay_frame, lif, attention]
  exact completeCue_same st (by simp) (by simp) (by simp) (by simp) (by simp)

theorem passageToIdle_chans (st : Status) (s : State) : (passageToIdle st s).chans = (holdAll s).chans := by
  simp only [passageToIdle_eq, clearLive_frame, clearPlay_frame]
  unfold easeOff
  split <;> simp

theorem passageToIdle_tpr (st : Status) (s : State) : (passageToIdle st s).tpr =
    { idled s.tpr with
      take := none, rate := none, override := 0, cueSet := 0, base := 0, cursor := 0, markIdx := none,
      cueCompletion := none } := by
  have eased (u : State) : (easeOff u).tpr = u.tpr := by unfold easeOff; split <;> simp
  rw [passageToIdle_eq]
  simp only [clearLive, clearPlay, eased, completeCue_tpr, spendPlayed_frame, holdAll_frame]
  rfl

theorem passageToIdle_pu (st : Status) (s : State) :
    (s.pu.ease = false → (passageToIdle st s).pu = s.pu) ∧
    (s.pu.ease = true → (passageToIdle st s).pu = { s.pu with easePend := setPend s.pu.easePend (s.ft.frame + 1) false }) := by
  simp only [passageToIdle_eq, clearLive_frame, clearPlay_frame, easeOff]
  constructor
  · intro off
    rw [if_neg (by simp [off])]
    simp
  · intro on
    rw [if_pos (by simp [on])]
    simp

theorem passageToIdle_ts (st : Status) (s : State) : (passageToIdle st s).ts = (spendPlayed (holdAll s)).ts := by
  simp only [passageToIdle_eq, clearLive_frame, clearPlay_frame]
  unfold easeOff
  split <;> simp

theorem passageToIdle_ts_of_not_plays {s : State} (st : Status) (still : s.tpr.activity.plays = false) :
    (passageToIdle st s).ts = s.ts := by
  rw [passageToIdle_ts, spendPlayed_inUse, if_neg (by simp [still])]
  simp

/-- What the passage to IDLE leaves of a channel whose drive is on and that is not in HOLD. -/
theorem passageToIdle_mode (st : Status) {s : State} (armed : s.ss.safety = .armed) (few : s.cfg.nChans ≤ 4) {i : Nat}
    (hi : i < s.cfg.nChans) (on : (s.dlu.lines.get i).enable = true) (other : (s.chans.get i).mode ≠ .hold) :
    ((passageToIdle st s).chans.get i).mode = if (s.chans.get i).v = 0 then .hold else .halt := by
  rw [passageToIdle_chans, holdAll_chan armed few hi, if_neg other, on, requested_hold_mode other]

/-! ### CUE-CANCEL and the test of a cue (R154, R157, R159) -/

theorem reply_same (who : Slot) (code : Nat) (st : Status) (data : ReplyData) {s t : State} (ss : t.ss = s.ss) (cl : t.cl = s.cl)
    (lif : t.lif = s.lif) (attention : t.attention = s.attention) :
    (reply who code st data t).lif = (reply who code st data s).lif := (place_same _ ss cl lif attention).1

theorem cueCancel_of_running {who : Slot} {s : State} (running : s.tpr.activity = .cueing ∨ s.tpr.activity = .cued) :
    cueCancelCommand who s = reply who codeCueCancel .done .none (passageToIdle .cancelled s) := by
  rcases running with cueing | cued <;> simp [cueCancelCommand, *]

theorem cueCancel_elsewhere {who : Slot} {s : State} (notCueing : s.tpr.activity ≠ .cueing) (notCued : s.tpr.activity ≠ .cued) :
    cueCancelCommand who s = reply who codeCueCancel .refused .none s := by
  unfold cueCancelCommand
  split <;> simp_all

theorem cueTest_of_other {s : State} (other : s.tpr.activity ≠ .cueing) : cueTest s = s := by
  unfold cueTest
  split
  next cueing _ => exact absurd cueing other
  next => rfl

theorem cueTest_of_cueing {s : State} {id : Nat} {k : Take} (cueing : s.tpr.activity = .cueing) (take : s.tpr.take = some id)
    (found : s.findTake id = some k) : cueTest s =
    if ((chanList s.tpr.cueSet).any fun i => (s.chans.get i).settled && (s.chans.get i).clamped) = true then
      passageToIdle .unreachable s
    else if (s.cueSettled && k.cueFilled) = true then
      completeCue .done (requestEach .hold (chanList s.tpr.cueSet) { s with tpr.activity := .cued })
    else s := by
  simp [cueTest, cueing, take, found]

theorem cueFilled_iff {k : Take} : k.cueFilled = true ↔ k.kind = .resident ∨ k.high ≤ k.fill - k.retired ∨ k.endReceived = true := by
  unfold Take.cueFilled Take.occupancy
  cases k.kind <;> simp

theorem cueSettled_iff {s : State} : s.cueSettled = true ↔ ∀ i < 4, s.tpr.cueSet.getLsbD i = true → (s.chans.get i).settled = true := by
  simp only [State.cueSettled, List.all_eq_true, mem_chanList, and_imp]

/-- Settles O42: `passageToIdle` for a cue that is cancelled or clamped, and the branches of `cueTest`. -/
theorem cueCancelEndsTheCue : Obligations.CueCancelEndsTheCue := by
  refine ⟨fun h serial s taken => ?cancel, fun s id k cueing take found => ⟨fun clamped => ?unreachable, fun settled filled => ?cued,
    fun free waits => ?waits⟩, fun s other => cueTest_of_other other⟩
  case cancel =>
    have owner : exec (.cueCancel h serial) s = .next (cueCancelCommand (caller h serial) (heard h s)) :=
      command_of_obeys h serial codeCueCancel 0 cueCancelCommand s taken rfl
    rw [owner]
    refine ⟨fun running => ?running, fun notCueing notCued => ?elsewhere⟩
    case running =>
      rw [cueCancel_of_running (by simpa using running)]
      obtain ⟨lif, attention⟩ := passageToIdle_sends .cancelled (heard h s)
      refine ⟨_, rfl, ?_⟩
      simp only [reply_frame, passageToIdle_tpr, heard_frame, idled, true_and]
      have tpr : (heard h s).tpr = s.tpr := by simp
      rw [tpr] at lif attention
      refine ⟨fun none => ?_, fun w pending => ?_, fun armed few i hi on other => ?_, ?_⟩
      · rw [none] at lif attention
        exact reply_same _ _ _ _ (by simp) (by simp) lif attention
      · rw [pending] at lif attention
        exact reply_same _ _ _ _ (by simp) (by simp) lif attention
      · have mode := passageToIdle_mode .cancelled (s := heard h s) (i := i) (by simpa using armed) (by simpa using few)
          (by simpa using hi) (by simpa using on) (by simpa using other)
        simpa using mode
      · have ts : (passageToIdle .cancelled (heard h s)).ts = s.ts := by
          rw [passageToIdle_ts_of_not_plays _ (by rcases running with at_ | at_ <;> simp [at_, Activity.plays])]
          simp
        simp [onlyChanges_iff, ts]
    case elsewhere => rw [cueCancel_elsewhere (by simpa using notCueing) (by simpa using notCued)]; rfl
  case unreachable =>
    have ended : cueTest s = passageToIdle .unreachable s := by
      rw [cueTest_of_cueing cueing take found, if_pos]
      obtain ⟨i, hi, inSet, settled, clamped⟩ := clamped
      simpa using ⟨i, mem_chanList.2 ⟨hi, inSet⟩, settled, clamped⟩
    obtain ⟨lif, _⟩ := passageToIdle_sends .unreachable s
    refine ⟨ended, ?_, ?_, ?_, fun w pending => ?_⟩
    · rw [ended, passageToIdle_tpr, idled]
    · rw [ended, passageToIdle_tpr]
    · rw [ended, passageToIdle_tpr]
    · rw [ended, lif, pending]
      rfl
  case cued =>
    have done : cueTest s =
        completeCue .done (requestEach .hold (chanList s.tpr.cueSet) { s with tpr.activity := .cued }) := by
      rw [cueTest_of_cueing cueing take found, if_neg, if_pos]
      · simp only [Bool.and_eq_true]
        exact ⟨cueSettled_iff.2 fun i hi inSet => (settled i hi inSet).1, cueFilled_iff.2 filled⟩
      · simp only [List.any_eq_true, mem_chanList, Bool.and_eq_true]
        rintro ⟨i, ⟨hi, inSet⟩, _, clamped⟩
        simp [(settled i hi inSet).2] at clamped
    refine ⟨?_, fun w pending => ?_, fun i hi inSet armed on mode still => ?_, by simp [done, onlyChanges_iff]⟩
    · rw [done, completeCue_tpr]
      simp
    · obtain ⟨lif, _⟩ := completeCue_same .done (s := { s with tpr.activity := .cued })
        (t := requestEach .hold (chanList s.tpr.cueSet) { s with tpr.activity := .cued })
        (by simp) (by simp) (by simp) (by simp) (by simp)
      rw [done, lif]
      simp only [pending, answered]
      exact reply_same _ _ _ _ rfl rfl rfl rfl
    · obtain ⟨listed, _⟩ := requestEach_chan (s := { s with tpr.activity := .cued }) armed .hold
        (chanList_nodup s.tpr.cueSet) (fun _ => chanList_inside)
      have other : (s.chans.get i).mode ≠ .hold := by simp [mode]
      have chan := listed i (mem_chanList.2 ⟨hi, inSet⟩)
      simp only [on] at chan
      simp only [done, completeCue_frame, chan]
      simp [requested, Chan.modeFor, Chan.enter, mode, still]
  case waits =>
    rw [cueTest_of_cueing cueing take found, if_neg, if_neg]
    · rw [Bool.and_eq_true, cueSettled_iff, cueFilled_iff]
      rintro ⟨all, filled⟩
      rcases waits with ⟨i, hi, inSet, unsettled⟩ | ⟨stream, low, more⟩
      · simp [all i hi inSet] at unsettled
      · rcases filled with resident | high | ended
        · simp [stream] at resident
        · omega
        · simp [more] at ended
    · simp only [List.any_eq_true, mem_chanList, Bool.and_eq_true]
      rintro ⟨i, ⟨hi, inSet⟩, settled, clamped⟩
      simp [free i hi inSet settled] at clamped

end Sys2Proof.Machine
end

section
/-! The commands of the Take Player and Recorder: CUE, RECORD, RECORD-END and PUNCH. -/

namespace Sys2Proof.Machine

open Sys2Proof

/-! ### Live control of a channel (R172) -/

/-- What a channel has in the blocks that its live control touches. -/
structure LiveView where
  chan : Chan
  live : LiveChan
  inSet : Bool

def State.liveView (s : State) (i : Nat) : LiveView :=
  { chan := s.chans.get i, live := s.tpr.live.get i, inSet := s.tpr.liveSet.getLsbD i }

theorem getLsbD_insert : ∀ m : ChanSet, ∀ i < 4, ∀ j < 4, (m ||| (1#4 <<< i)).getLsbD j = (m.getLsbD j || decide (j = i)) := by
  decide

theorem getLsbD_erase : ∀ m : ChanSet, ∀ i < 4, ∀ j < 4,
    (m &&& ~~~(1#4 <<< i)).getLsbD j = (m.getLsbD j && !decide (j = i)) := by
  decide

theorem enterLive_view {i j : Nat} (hi : i < 4) (hj : j < 4) {s : State} (armed : s.ss.safety = .armed) :
    (enterLive i s).liveView j = if j = i then
      { chan := requested (s.dlu.lines.get j).enable (s.cfg.chan.get j).table .live (s.chans.get j)
        live := { age := 0, pend := [] }, inSet := true }
    else s.liveView j := by
  unfold enterLive
  rw [requestByPlayer_of_free (by simp [armed]) (by simp [armed])]
  have set := getLsbD_insert s.tpr.liveSet i hi j hj
  by_cases eq : j = i
  · subst eq
    simp only [State.liveView, requestMode_chan _ hi hi, requestMode_frame, if_pos]
    simp only [modLive, quad_get_set _ _ _ _ hi hi, if_pos, set]
    simp [LiveChan.reset]
  · simp only [State.liveView, requestMode_chan _ hi hj, requestMode_frame, if_neg eq]
    simp only [modLive, quad_get_set _ _ _ _ hi hj, if_neg eq, set]
    simp [eq]

theorem SameOutputs.enterLive {s u : State} (same : SameOutputs s u) (i : Nat) : SameOutputs s (enterLive i u) := by
  obtain ⟨ss, dlu, cfg⟩ := same
  exact ⟨by simp [ss], by simp [dlu], by simp [cfg]⟩

/-- The live control of each channel of a list entered, at an ARMED node. -/
theorem enterLive_each {s : State} (armed : s.ss.safety = .armed) {is : List Nat} (each : is.Nodup) (inside : ∀ i ∈ is, i < 4) :
    (∀ i ∈ is, (is.foldl (fun u i => enterLive i u) s).liveView i =
      { chan := requested (s.dlu.lines.get i).enable (s.cfg.chan.get i).table .live (s.chans.get i)
        live := { age := 0, pend := [] }, inSet := true }) ∧
    ∀ j < 4, j ∉ is → (is.foldl (fun u i => enterLive i u) s).liveView j = s.liveView j := by
  have armedAt {u : State} (same : SameOutputs s u) : u.ss.safety = .armed := by rw [same.1, armed]
  refine foldl_each (side := SameOutputs s) (view := State.liveView)
    (change := fun i v w => w = { chan := requested (s.dlu.lines.get i).enable (s.cfg.chan.get i).table .live v.chan
                                  live := { age := 0, pend := [] }, inSet := true }) each inside
    (fun u i _ same => same.enterLive i) (fun u i hi same => ?own) (fun u i hi j hj ne same => ?other) (.refl s)
  case own =>
    rw [enterLive_view (inside i hi) (inside i hi) (armedAt same), if_pos rfl, same.2.1, same.2.2]
    rfl
  case other => rw [enterLive_view (inside i hi) hj (armedAt same), if_neg ne]

/-! ### CUE (R155, R156) -/

theorem getLsbD_without : ∀ a b : ChanSet, ∀ c < 4, (a &&& ~~~b).getLsbD c = (a.getLsbD c && !b.getLsbD c) := by decide

/-- The calibrated first sample of a take lies within the effective range of a channel. -/
theorem reaches_iff {s : State} {k : Take} {c : Nat} (first : k.position 0 = k.base) : s.reaches k c = true ↔
    (s.iu.ranges.get c).1 ≤ cal (s.cfg.chan.get c).table ((s.ts.store.read k.base).value c).toNat ∧
      cal (s.cfg.chan.get c).table ((s.ts.store.read k.base).value c).toNat ≤ (s.iu.ranges.get c).2 := by
  simp [State.reaches, State.sampleAt, first]

theorem position_zero (k : Take) : k.position 0 = k.base := by
  unfold Take.position
  split <;> simp

theorem cueRefusal_of_idle {s : State} {id rate : Nat} {mask : ChanSet} (armed : s.ss.safety = .armed)
    (idle : s.tpr.activity = .idle) (low : 1 ≤ rate) (high : rate ≤ 16) (below : chanSetBelow mask s.cfg.nChans = true) :
    s.cueRefusal id rate mask = (s.findTake id).elim (some .noTake) fun t =>
      if t.canCue = false then some .refused
      else if t.chanSet &&& ~~~mask = 0 then some .badArg
      else if (chanList (t.chanSet &&& ~~~mask)).all (s.reaches t) then none
      else some .unreachable := by
  unfold State.cueRefusal
  rw [if_neg (by simp [idle]), if_neg (by simp [armed, idle]), if_neg (by simp [below]; omega)]
  cases s.findTake id <;> rfl

theorem cueCommand_of_refusal {s : State} {id rate : Nat} {mask : ChanSet} {who : Slot} {st : Status}
    (refused : s.cueRefusal id rate mask = some st) : cueCommand id rate mask who s = reply who 8 st .none s := by
  simp [cueCommand, refused, codeCue]

/-- The node that a CUE takes into CUEING, before its requests. -/
def cueing (id rate : Nat) (mask cueSet : ChanSet) (who : Slot) (s : State) : State :=
  { s with tpr := { s.tpr with
      activity := .cueing, take := some id, rate := some rate, override := mask, cueSet := cueSet, base := 0, cursor := 0,
      markIdx := none, cueCompletion := some who } }

theorem acceptCue_eq {s : State} {id rate : Nat} {mask : ChanSet} {who : Slot} {k : Take} (found : s.findTake id = some k) :
    acceptCue id rate mask who s = reply who 8 .accepted .none ((chanList mask).foldl (fun s i => enterLive i s)
      (requestEach .cue (chanList (k.chanSet &&& ~~~mask)) (cueing id rate mask (k.chanSet &&& ~~~mask) who s))) := by
  simp only [acceptCue, found, Option.elim_some, cueing, codeCue]

/-- What live control entered leaves of the Take Player: its own columns alone change. -/
theorem enterLive_tpr (i : Nat) (s : State) : (enterLive i s).tpr =
    { s.tpr with liveSet := (enterLive i s).tpr.liveSet, live := (enterLive i s).tpr.live } := by
  simp [enterLive, modLive]

theorem foldl_enterLive_tpr (is : List Nat) (s : State) : (is.foldl (fun u i => enterLive i u) s).tpr =
    { s.tpr with
      liveSet := (is.foldl (fun u i => enterLive i u) s).tpr.liveSet
      live := (is.foldl (fun u i => enterLive i u) s).tpr.live } := by
  induction is generalizing s with
  | nil => rfl
  | cons i is ih =>
    rw [List.foldl_cons, ih, enterLive_tpr]

/-- The columns that an accepted CUE gives the Take Player, beside live control. -/
theorem acceptCue_tpr {s : State} {id rate : Nat} {mask : ChanSet} {who : Slot} {k : Take} (found : s.findTake id = some k) :
    (acceptCue id rate mask who s).tpr = { (cueing id rate mask (k.chanSet &&& ~~~mask) who s).tpr with
      liveSet := (acceptCue id rate mask who s).tpr.liveSet, live := (acceptCue id rate mask who s).tpr.live } := by
  rw [acceptCue_eq found]
  simp only [reply_frame]
  rw [foldl_enterLive_tpr]
  simp

/-- What an accepted CUE leaves of a channel whose drive is on. -/
theorem acceptCue_channel {s : State} {id rate : Nat} {mask : ChanSet} {who : Slot} {k : Take} (found : s.findTake id = some k)
    (armed : s.ss.safety = .armed) {c : Nat} (hc : c < 4) (on : (s.dlu.lines.get c).enable = true) :
    let t := acceptCue id rate mask who s
    let cueSet := k.chanSet &&& ~~~mask
    (cueSet.getLsbD c = true → (t.chans.get c).mode = .cue) ∧
    (mask.getLsbD c = true → (t.chans.get c).mode = .live ∧ t.tpr.liveSet.getLsbD c = true) ∧
    (cueSet.getLsbD c = false → mask.getLsbD c = false → t.chans.get c = s.chans.get c) := by
  intro t cueSet
  let w := cueing id rate mask cueSet who s
  let u := requestEach .cue (chanList cueSet) w
  obtain ⟨cued, uncued⟩ := requestEach_chan (s := w) armed .cue (chanList_nodup cueSet) fun _ => chanList_inside
  obtain ⟨live, notLive⟩ := enterLive_each (s := u) (by simpa [u, w, cueing] using armed) (chanList_nodup mask)
    fun _ => chanList_inside
  have view : t.liveView c = ((chanList mask).foldl (fun s i => enterLive i s) u).liveView c := by
    simp only [t, acceptCue_eq found, State.liveView, reply_frame]
    rfl
  have apart := getLsbD_without k.chanSet mask c hc
  have unmasked (not : mask.getLsbD c = false) : t.chans.get c = u.chans.get c :=
    congrArg LiveView.chan (view.trans (notLive c hc (by simp [mem_chanList, not])))
  refine ⟨fun inSet => ?_, fun masked => ?_, fun notCued not => ?_⟩
  · have not : mask.getLsbD c = false := by
      have both : cueSet.getLsbD c = true := inSet
      simp only [cueSet, apart, Bool.and_eq_true, Bool.not_eq_true'] at both
      exact both.2
    rw [unmasked not, cued c (mem_chanList.2 ⟨hc, inSet⟩)]
    have enabled : (w.dlu.lines.get c).enable = true := on
    rw [enabled, requested_mode_of_ne_hold (by decide)]
  · have entered := view.trans (live c (mem_chanList.2 ⟨hc, masked⟩))
    have enabled : (u.dlu.lines.get c).enable = true := by simpa [u, w, cueing] using on
    refine ⟨?_, congrArg LiveView.inSet entered⟩
    have chan : t.chans.get c = _ := congrArg LiveView.chan entered
    rw [chan, enabled, requested_mode_of_ne_hold (by decide)]
  · rw [unmasked not, uncued c hc (by simp [mem_chanList, notCued])]
    rfl

/-- Settles O41: the outcomes of `cueRefusal`, and the requests of an accepted CUE channel by channel. -/
theorem cueIsTestedAndAccepted : Obligations.CueIsTestedAndAccepted := by
  intro h serial take rate mask s taken
  have owner : exec (.cue h serial take rate mask) s =
      .next (cueCommand take.toNat rate.toNat (chanSetOf mask) (caller h serial) (heard h s)) :=
    command_of_obeys h serial codeCue 3 (cueCommand take.toNat rate.toNat (chanSetOf mask)) s taken rfl
  rw [owner]
  refine ⟨fun cueing => ?busy, fun notCueing elsewhere => ?refused, fun armed idle => ⟨fun bad => ?badArg,
    fun low high inside => ⟨fun none => ?noTake, fun k found => ⟨fun cannot => ?cannot, fun can empty => ?empty,
      fun can some outside => ?unreachable, fun can some reached => ?accepted⟩⟩⟩⟩
  case busy => exact congrArg _ (cueCommand_of_refusal (by simp [State.cueRefusal, cueing]))
  case refused => exact congrArg _ (cueCommand_of_refusal (by simp [State.cueRefusal, notCueing, elsewhere]))
  case badArg =>
    refine congrArg _ (cueCommand_of_refusal ?_)
    unfold State.cueRefusal
    rw [if_neg (by simp [idle]), if_neg (by simp [armed, idle]), if_pos]
    rcases bad with zero | high | ⟨c, hc, named, absent⟩
    · exact .inl (by rw [zero]; rfl)
    · exact .inr (.inl high)
    · refine .inr (.inr (Bool.eq_false_iff.2 fun below => ?_))
      have has := chanSetBelow_iff.1 below c hc named
      simp at has
      omega
  all_goals
    have refusal := cueRefusal_of_idle (s := heard h s) (id := take.toNat) (rate := rate.toNat) (mask := chanSetOf mask)
      (by simpa using armed) (by simpa using idle) low high (chanSetBelow_iff.2 (by simpa using inside))
  case noTake => exact congrArg _ (cueCommand_of_refusal (by simp [refusal, none]))
  all_goals simp only [heard_findTake, found, Option.elim_some] at refusal
  case cannot => exact congrArg _ (cueCommand_of_refusal (by simp [refusal, cannot]))
  case empty => exact congrArg _ (cueCommand_of_refusal (by simp [refusal, can, empty]))
  all_goals
    have reached_iff (c : Nat) := reaches_iff (s := heard h s) (c := c) (position_zero k)
    simp only [heard_frame] at reached_iff
  case unreachable =>
    obtain ⟨c, hc, inSet, away⟩ := outside
    refine congrArg _ (cueCommand_of_refusal ?_)
    rw [refusal, if_neg (by simp [can]), if_neg some, if_neg]
    intro all
    have reached := (reached_iff c).1 (List.all_eq_true.1 all c (mem_chanList.2 ⟨hc, inSet⟩))
    omega
  case accepted =>
    have passed : (heard h s).cueRefusal take.toNat rate.toNat (chanSetOf mask) = none := by
      rw [refusal, if_neg (by simp [can]), if_neg some, if_pos]
      exact List.all_eq_true.2 fun c hc => (reached_iff c).2 (reached c (mem_chanList.1 hc).1 (mem_chanList.1 hc).2)
    have foundHere : (heard h s).findTake take.toNat = Option.some k := by simpa using found
    have tpr := acceptCue_tpr (rate := rate.toNat) (mask := chanSetOf mask) (who := caller h serial) foundHere
    have channel {c : Nat} (hc : c < 4) (on : (s.dlu.lines.get c).enable = true) :=
      acceptCue_channel (rate := rate.toNat) (mask := chanSetOf mask) (who := caller h serial) foundHere
        (by simpa using armed) hc (by simpa using on)
    rw [cueCommand, passed]
    refine ⟨_, rfl, by rw [tpr]; rfl, by rw [tpr]; rfl, by rw [tpr]; rfl, by rw [tpr]; rfl, by rw [tpr]; rfl, by rw [tpr]; rfl,
      by rw [tpr]; rfl, by rw [tpr]; rfl, by rw [tpr]; rfl, ?_, fun c hc on => ?_, by simp [onlyChanges_iff]⟩
    · rw [acceptCue_eq foundHere]
      exact reply_same _ _ _ _ (by simp [cueing]) (by simp [cueing]) (by simp [cueing]) (by simp [cueing])
    · obtain ⟨cued, live, neither⟩ := channel hc on
      have cueSet : (acceptCue take.toNat rate.toNat (chanSetOf mask) (caller h serial) (heard h s)).tpr.cueSet =
        k.chanSet &&& ~~~chanSetOf mask := by rw [tpr]; rfl
      have override : (acceptCue take.toNat rate.toNat (chanSetOf mask) (caller h serial) (heard h s)).tpr.override =
        chanSetOf mask := by rw [tpr]; rfl
      simp only [cueSet, override]
      exact ⟨cued, live, fun notCued not => (neither notCued not).trans (by simp)⟩

end Sys2Proof.Machine
end

section
/-! Recording and punch-in. -/

namespace Sys2Proof.Machine

open Sys2Proof

/-! ### The take of an ID -/

theorem findSome?_map_take {f : Take → Take} (named : ∀ t, (f t).id = t.id) (id : Nat) (dir : List (Option Take)) :
    (dir.map (Option.map f)).findSome? (fun e => e.bind fun t => if t.id = id then some t else none) =
      (dir.findSome? fun e => e.bind fun t => if t.id = id then some t else none).map f := by
  induction dir with
  | nil => rfl
  | cons e dir ih =>
    cases e with
    | none => simpa using ih
    | some t => by_cases same : t.id = id <;> simp [named, same, ih]

/-- A take found after the takes of an ID have been changed. -/
theorem findTake_modTake {f : Take → Take} (named : ∀ t, (f t).id = t.id) {id : Nat} {s : State} {k : Take}
    (found : s.findTake id = some k) : (modTake id f s).findTake id = some (f k) := by
  have at_ := findSome?_map_take (f := fun t => if t.id = id then f t else t) (fun t => by split <;> simp [named]) id s.ts.dir
  obtain ⟨_, here⟩ := findTake_some found
  have taken : s.ts.dir.findSome? (fun e => e.bind fun t => if t.id = id then some t else none) = some k := found
  rw [taken] at at_
  exact at_.trans (by simp [here])

/-! ### RECORD and RECORD-END (R177, R180) -/

theorem recordCommand_of_refusal {id : Nat} {who : Slot} {st : Status} {s : State} (refused : s.recordRefusal id = some st) :
    recordCommand id who s = reply who 10 st .none s := by
  simp [recordCommand, refused, codeRecord]

theorem recordRefusal_of_free {s : State} {id : Nat} (armed : s.ss.safety = .armed)
    (free : s.tpr.activity = .idle ∨ s.tpr.activity = .live) : s.recordRefusal id =
    (s.findTake id).elim (some .noTake) fun t =>
      if t.kind = .resident ∧ t.state = .loading ∧ t.length = 0 then none else some .refused := by
  unfold State.recordRefusal
  rw [if_neg (by rcases free with at_ | at_ <;> simp [armed, at_])]
  cases s.findTake id <;> rfl

theorem acceptRecord_heard (h : Header) (id : Nat) (s : State) : acceptRecord id (heard h s) = { heard h s with
    ts.dir := s.ts.dir.map (Option.map fun k => if k.id = id then { k with state := .recording } else k)
    tpr.take := some id
    tpr.activity := .recording } := by
  unfold acceptRecord modTake
  rw [heard_dir]

theorem endRecording_eq {s : State} {id : Nat} (take : s.tpr.take = some id) : endRecording s =
    modTake id (fun t => { t with state := if t.length = 0 then .loading else .ready }) s := by
  simp [endRecording, take]

/-- The node after the end of its recording: the live control stands, the take is let go. -/
def recordingOver (s : State) : State :=
  { endRecording s with tpr := { (endRecording s).tpr with
      take := none, activity := .live, punch := false, punchMask := 0, punchIdx := none } }

theorem recordEndCommand_of_recording {who : Slot} {s : State} {id : Nat} {k : Take} (recording : s.tpr.activity = .recording)
    (take : s.tpr.take = some id) (found : s.findTake id = some k) :
    recordEndCommand who s = reply who 11 .done (.length k.length) (recordingOver s) := by
  unfold recordEndCommand
  rw [if_pos recording, take]
  simp only [Option.bind_some, found, Option.elim_some]
  rfl

theorem recordingOver_findTake {s : State} {id : Nat} {k : Take} (take : s.tpr.take = some id) (found : s.findTake id = some k) :
    (recordingOver s).findTake id = some { k with state := if k.length = 0 then .loading else .ready } := by
  have ended := findTake_modTake (f := fun t => { t with state := if t.length = 0 then .loading else .ready })
    (fun _ => rfl) found
  rw [← endRecording_eq take] at ended
  exact ended

/-- Settles O43: the tests of `recordRefusal`, and the end of the recording in use. -/
theorem recordingBeginsAndEnds : Obligations.RecordingBeginsAndEnds := by
  refine ⟨fun h serial take s taken => ?record, fun h serial s taken => ?recordEnd⟩
  case record =>
    have owner : exec (.record h serial take) s = .next (recordCommand take.toNat (caller h serial) (heard h s)) :=
      command_of_obeys h serial codeRecord 1 (recordCommand take.toNat) s taken rfl
    rw [owner]
    refine ⟨fun elsewhere => ?elsewhere, fun armed free => ⟨fun none => ?noTake, fun k found unfit => ?unfit,
      fun k found resident loading empty => ?accepted⟩⟩
    case elsewhere =>
      exact congrArg _ (recordCommand_of_refusal (if_pos (by simpa using elsewhere)))
    all_goals
      have refusal := recordRefusal_of_free (s := heard h s) (id := take.toNat) (by simpa using armed) (by simpa using free)
    case noTake => exact congrArg _ (recordCommand_of_refusal (by simp [refusal, none]))
    case unfit =>
      refine congrArg _ (recordCommand_of_refusal ?_)
      simp only [refusal, heard_findTake, found, Option.elim_some]
      rw [if_neg]
      rintro ⟨resident, loading, empty⟩
      simp [resident, loading, empty] at unfit
    case accepted =>
      simp only [heard_findTake, found, Option.elim_some, resident, loading, empty, and_self, if_true] at refusal
      rw [recordCommand, refusal, ← acceptRecord_heard]
      rfl
  case recordEnd =>
    have owner : exec (.recordEnd h serial) s = .next (recordEndCommand (caller h serial) (heard h s)) :=
      command_of_obeys h serial codeRecordEnd 0 recordEndCommand s taken rfl
    rw [owner]
    refine ⟨fun id k recording take found => ?ends, fun other => ?refused⟩
    case refused => exact congrArg _ (if_neg (by simpa using other))
    case ends =>
      have here : (heard h s).findTake id = some k := by simpa using found
      refine ⟨recordingOver (heard h s),
        congrArg _ (recordEndCommand_of_recording (by simpa using recording) (by simpa using take) here),
        rfl, rfl, ?_, ?_, ?_, ?_, ?_, ?_, ⟨_, recordingOver_findTake (by simpa using take) here, rfl⟩, ?_⟩
      all_goals simp [recordingOver, onlyChanges_iff]

/-! ### PUNCH (R144, R182, R184) -/

theorem punchCommand_of_refusal {id : Nat} {mask : ChanSet} {who : Slot} {st : Status} {s : State}
    (refused : s.punchRefusal id mask = some st) : punchCommand id mask who s = reply who 12 st .none s := by
  simp [punchCommand, refused, codePunch]

theorem punchRefusal_of_cued {s : State} {id : Nat} {mask : ChanSet} {k : Take} (cued : s.tpr.activity = .cued)
    (take : s.tpr.take = some id) (found : s.findTake id = some k) : s.punchRefusal id mask =
    if k.kind ≠ .resident then some .refused
    else if s.tpr.rate ≠ some 8 then some .badArg
    else if mask ≠ 0 ∧ within mask k.editSet = true ∧ mask &&& s.tpr.override = 0 then none
    else some .badArg := by
  simp [State.punchRefusal, cued, take, found]

theorem and_eq_zero_iff : ∀ a b : ChanSet, a &&& b = 0 ↔ ∀ c < 4, a.getLsbD c = true → b.getLsbD c = false := by decide

theorem value_withValue {c d : Nat} (hc : c < 4) (hd : d < 4) (r : Sample) (v : U16) :
    (r.withValue d v).value c = if c = d then v else r.value c := by
  interval_cases c <;> interval_cases d <;> rfl

theorem mark_withValue (d : Nat) (r : Sample) (v : U16) : (r.withValue d v).mark = r.mark := by
  unfold Sample.withValue
  split <;> rfl

/-- The values of a record after those of the channels of a list have been replaced. -/
theorem value_foldl_withValue {c : Nat} (hc : c < 4) (g : Nat → U16) {cs : List Nat} (inside : ∀ d ∈ cs, d < 4) (r : Sample) :
    (cs.foldl (fun r d => r.withValue d (g d)) r).value c = if c ∈ cs then g c else r.value c := by
  induction cs generalizing r with
  | nil => rfl
  | cons d cs ih =>
    rw [List.foldl_cons, ih fun e he => inside e (List.mem_cons_of_mem _ he),
      value_withValue hc (inside d List.mem_cons_self)]
    by_cases there : c ∈ cs
    · simp [there]
    · by_cases same : c = d <;> simp [there, same]

theorem mark_foldl_withValue (g : Nat → U16) (cs : List Nat) (r : Sample) :
    (cs.foldl (fun r d => r.withValue d (g d)) r).mark = r.mark := by
  induction cs generalizing r with
  | nil => rfl
  | cons d cs ih => rw [List.foldl_cons, ih, mark_withValue]

@[simp] theorem latchRange_store (id n : Nat) (s : State) : (latchRange id n s).ts.store = s.ts.store := by
  unfold latchRange
  repeat' split
  all_goals simp

/-- A record stored stands at its position, and every other record stands as it stood (R134). -/
theorem storeRecord_read {t : Take} {n : Nat} {w : ChanSet} {r : Sample} {s : State} (wf : StoreWf s)
    (inside : t.position n < 8192) (p : Nat) : (storeRecord t n w r s).ts.store.read p =
    if p = t.position n then r else s.ts.store.read p := by
  have store : (storeRecord t n w r s).ts.store = s.ts.store.write (t.position n) r := by
    unfold storeRecord
    dsimp only
    split <;> simp
  rw [store, Memory.read_write _ _ _ wf]
  simp [Config.storeSize, inside]

/-- The record of an index with the source values of the punch channels (R184). -/
def punched (s : State) (k : Take) (n : Nat) : Sample :=
  (chanList s.tpr.punchMask).foldl (fun r c => r.withValue c (BitVec.ofNat 16 (s.chans.get c).u)) (s.sampleAt k n)

theorem punchWrite_of_playing {s : State} {id : Nat} {k : Take} (playing : s.tpr.activity = .playing)
    (punch : s.tpr.punch = true) (take : s.tpr.take = some id) (found : s.findTake id = some k) (resident : k.kind = .resident)
    (inside : s.tpr.cursor / 4096 < k.length) : punchWrite s =
    if s.tpr.punchIdx.elim true (fun m => decide (m < s.tpr.cursor / 4096)) = true then
      { storeRecord k (s.tpr.cursor / 4096) s.tpr.punchMask (punched s k (s.tpr.cursor / 4096)) s with
        tpr.punchIdx := some (s.tpr.cursor / 4096) }
    else s := by
  simp [punchWrite, playing, punch, take, found, resident, inside, punched]

/-- Settles O44: the tests of `punchRefusal`, and the record that `punchWrite` stores. -/
theorem punchSetsItsMask : Obligations.PunchSetsItsMask := by
  refine ⟨fun h serial take mask s taken => ?command, fun s id n k playing punch take found resident index inside room wf =>
    ⟨fun fresh => ?write, fun m last reached => ?reached⟩, fun s other => ?other⟩
  case command =>
    have owner : exec (.punch h serial take mask) s =
        .next (punchCommand take.toNat (chanSetOf mask) (caller h serial) (heard h s)) :=
      command_of_obeys h serial codePunch 2 (punchCommand take.toNat (chanSetOf mask)) s taken rfl
    rw [owner]
    refine ⟨fun elsewhere => ?elsewhere, fun k cued same found => ?cued⟩
    case elsewhere => exact congrArg _ (punchCommand_of_refusal (if_pos (by simpa using elsewhere)))
    have refusal := punchRefusal_of_cued (s := heard h s) (mask := chanSetOf mask) (by simpa using cued) (by simpa using same)
      (by simpa using found)
    simp only [heard_frame] at refusal
    refine ⟨fun stream => ?stream, fun resident => ⟨fun otherRate => ?rate, fun rate => ⟨fun bad => ?mask, fun some good => ?done⟩⟩⟩
    case stream => exact congrArg _ (punchCommand_of_refusal (by simp [refusal, stream]))
    case rate => exact congrArg _ (punchCommand_of_refusal (by simp [refusal, resident, otherRate]))
    all_goals simp only [resident, rate, ne_eq, not_true_eq_false, if_false] at refusal
    case mask =>
      refine congrArg _ (punchCommand_of_refusal (refusal.trans (if_neg ?_)))
      rintro ⟨some, edits, free⟩
      rcases bad with zero | ⟨c, hc, inMask, outside | overridden⟩
      · exact some zero
      · simp [(within_iff _ _).1 edits c hc inMask] at outside
      · simp [(and_eq_zero_iff _ _).1 free c hc inMask] at overridden
    case done =>
      have passed := refusal.trans (if_pos ⟨some, (within_iff _ _).2 fun c hc inMask => (good c hc inMask).1,
        (and_eq_zero_iff _ _).2 fun c hc inMask => (good c hc inMask).2⟩)
      simp [punchCommand, passed, codePunch]
  case write =>
    subst index
    have written := punchWrite_of_playing playing punch take found resident inside
    rw [if_pos (by rcases fresh with none | ⟨m, last, below⟩ <;> simp [*])] at written
    have position : k.position (s.tpr.cursor / 4096) = k.base + s.tpr.cursor / 4096 := by simp [Take.position, resident]
    have read := storeRecord_read (w := s.tpr.punchMask) (r := punched s k (s.tpr.cursor / 4096)) wf
      (t := k) (n := s.tpr.cursor / 4096) (by rw [position]; omega)
    rw [position] at read
    have here : punched s k (s.tpr.cursor / 4096) = (chanList s.tpr.punchMask).foldl
        (fun r c => r.withValue c (BitVec.ofNat 16 (s.chans.get c).u)) (s.ts.store.read (k.base + s.tpr.cursor / 4096)) := by
      rw [punched, State.sampleAt, position]
    rw [written]
    refine ⟨by simp, fun c hc => ?_, ?_, fun p other => ?_, by simp [onlyChanges_iff]⟩
    · refine (congrArg (Sample.value · c) ((read _).trans (if_pos rfl))).trans ?_
      rw [here, value_foldl_withValue hc (fun c => BitVec.ofNat 16 (s.chans.get c).u) fun _ => chanList_inside]
      simp [mem_chanList, hc]
    · refine (congrArg Sample.mark ((read _).trans (if_pos rfl))).trans ?_
      rw [here, mark_foldl_withValue]
    · exact (read p).trans (if_neg other)
  case reached =>
    subst index
    rw [punchWrite_of_playing playing punch take found resident inside, if_neg (by simp [last, reached])]
  case other =>
    unfold punchWrite
    split
    next playing punch _ => rcases other with still | off <;> simp_all
    next => rfl

end Sys2Proof.Machine
end

section
/-! Own causes: how a raising ends, what it sends, and the stop or the cut that follows it. -/

namespace Sys2Proof.Machine

open Sys2Proof

/-! ### The urgent queue: no REPLY is placed in it (R10) -/

@[simp] theorem reply_urgent (who : Slot) (code : Nat) (st : Status) (data : ReplyData) (s : State) :
    (reply who code st data s).lif.urgent = s.lif.urgent := by
  unfold reply place
  repeat' split
  all_goals first | rfl | simp_all [Body.cls]

@[simp] theorem answered_urgent (p : Option Slot) (code : Nat) (st : Status) (s : State) :
    (answered p code st s).lif.urgent = s.lif.urgent := by
  cases p with
  | none => rfl
  | some w => exact reply_urgent w code st .none s

@[simp] theorem completeArm_urgent (st : Status) (s : State) : (completeArm st s).lif.urgent = s.lif.urgent := by
  simp [completeArm_answered]

@[simp] theorem completeDisarm_urgent (s : State) : (completeDisarm s).lif.urgent = s.lif.urgent := by
  simp [completeDisarm_answered]

@[simp] theorem completeCue_urgent (st : Status) (s : State) : (completeCue st s).lif.urgent = s.lif.urgent := by
  obtain ⟨lif, _⟩ := completeCue_same st (s := s) rfl rfl rfl rfl rfl
  simp [lif]

@[simp] theorem forceIdle_urgent (s : State) : (forceIdle s).lif.urgent = s.lif.urgent := by
  unfold forceIdle
  split <;> simp

@[simp] theorem enterStopping_urgent (s : State) : (enterStopping s).lif.urgent = s.lif.urgent := by simp [enterStopping]

@[simp] theorem enterDisarmed_urgent (s : State) : (enterDisarmed s).lif.urgent = s.lif.urgent := by simp [enterDisarmed]

@[simp] theorem stopIfMoving_urgent (s : State) : (stopIfMoving s).lif.urgent = s.lif.urgent := by
  unfold stopIfMoving
  split <;> simp

@[simp] theorem estopCut_urgent (s : State) : (estopCut s).lif.urgent = s.lif.urgent := by
  unfold estopCut
  split <;> simp

theorem recomposeRoll_urgent (s : State) : (recomposeRoll s).lif.urgent = s.lif.urgent := by
  unfold recomposeRoll broadcast place
  repeat' split
  all_goals first | rfl | simp_all [Body.cls, State.rollBody]

/-- A message placed where there is room stands in the queue, or is the successor of an entry in its attempt (R11, R13). -/
theorem mem_enqueue_of_room {q : List QEntry} (room : q.length < 16) (m : Msg) :
    ∃ u, enqueue q m = some u ∧ ∃ e ∈ u, e.msg = m ∨ e.active = true ∧ e.succ = some m := by
  have appended : ∃ e ∈ q ++ [{ msg := m, succ := none, active := false }], e.msg = m ∨ e.active = true ∧ e.succ = some m :=
    ⟨_, List.mem_append_right _ (List.mem_singleton_self _), .inl rfl⟩
  unfold enqueue
  split
  next k key =>
    by_cases there : (q.any (·.hasKey k)) = true
    · rw [if_pos there]
      obtain ⟨e, he, hasKey⟩ := List.any_eq_true.1 there
      refine ⟨_, rfl, e.renew m, List.mem_map.2 ⟨e, he, if_pos hasKey⟩, ?_⟩
      unfold QEntry.renew
      split
      next active => exact .inr ⟨active, rfl⟩
      next => exact .inl rfl
    · rw [if_neg there]
      exact ⟨_, if_pos room, appended⟩
  next => exact ⟨_, if_pos room, appended⟩

/-- A STOP of a node that may send stands in the urgent queue where there is room. -/
theorem mem_urgent_broadcast_stop {s : State} (open_ : s.ss.safety.isOpen = true) (room : s.lif.urgent.length < 16) (c : Cause)
    (d : Nat) : ∃ e ∈ (broadcast (.stop c d) s).lif.urgent,
      e.msg = { dest := 0, body := .stop c d } ∨ e.active = true ∧ e.succ = some { dest := 0, body := .stop c d } := by
  obtain ⟨u, placed, stands⟩ := mem_enqueue_of_room room { dest := 0, body := .stop c d }
  obtain ⟨urgent, _⟩ := place_of_taken { dest := 0, body := .stop c d } s (mayQueue_of_open _ s open_)
  rw [broadcast, urgent (by simp [Body.cls]), placed]
  exact stands

/-! ### The outcomes of a raising (R95, R102) -/

theorem raiseOwn_of_closed {s : State} (closed : s.ss.safety.isOpen = false) (c : Cause) (d : Nat) : raiseOwn c d s = s :=
  if_pos closed

section
variable {c : Cause} {d : Nat} {s : State}

theorem raiseOwn_of_same {e : Claim} (found : findClaim s.ss.claims s.cfg.station c = some e) (same : e.detail = d) :
    raiseOwn c d s = s := by
  unfold raiseOwn
  simp [found, same]

variable (open_ : s.ss.safety.isOpen = true)
include open_

theorem raiseOwn_of_standing {e : Claim} (found : findClaim s.ss.claims s.cfg.station c = some e) (other : e.detail ≠ d) :
    raiseOwn c d s = recomposeRoll (broadcast (.stop c d)
      { s with ss.claims := setDetail s.ss.claims s.cfg.station c d }) := by
  unfold raiseOwn
  simp [found, other, open_]

theorem raiseOwn_of_room (absent : findClaim s.ss.claims s.cfg.station c = none) (room : s.ss.claims.length < 32) :
    raiseOwn c d s = afterOwnClaim c (addOwn c d s) := by
  unfold raiseOwn
  simp only [absent]
  exact (if_neg (by simp [open_])).trans (if_pos room)

/-- The list with the entry of another station that stands last given up. -/
def trimmed (s : State) : State := { s with ss.claims := removeLastRemote s.cfg.station s.ss.claims }

theorem raiseOwn_of_trimmed (absent : findClaim s.ss.claims s.cfg.station c = none) (full : 32 ≤ s.ss.claims.length)
    (room : (trimmed s).ss.claims.length < 32) :
    raiseOwn c d s = afterOwnClaim c (refuseClaim (addOwn c d (trimmed s))) := by
  unfold raiseOwn
  simp only [absent]
  exact (if_neg (by simp [open_])).trans ((if_neg (not_lt.2 full)).trans (if_pos room))

end

theorem removeLastRemote_append {own : Nat} {pre post : List Claim} {k : Claim} (remote : k.origin ≠ own)
    (last : ∀ x ∈ post, x.origin = own) : removeLastRemote own (pre ++ k :: post) = pre ++ post := by
  induction pre with
  | nil => exact if_pos ⟨remote, by simpa using last⟩
  | cons e pre ih =>
    refine (if_neg ?_).trans (congrArg (e :: ·) ih)
    rintro ⟨_, all⟩
    exact remote (by simpa using List.all_eq_true.1 all k (by simp))

/-! ### What follows the raising (R108, R113) -/

theorem afterOwnClaim_of_ne {c : Cause} (ne : c ≠ .estop) (s : State) : afterOwnClaim c s = stopIfMoving s := if_neg ne

theorem afterOwnClaim_estop (s : State) : afterOwnClaim .estop s = estopCut s := if_pos rfl

theorem estopCut_of_driven {s : State} (driven : s.ss.safety.driven = true) : estopCut s = enterDisarmed s := if_pos driven

theorem estopCut_of_not_driven {s : State} (still : s.ss.safety.driven = false) : estopCut s = s := if_neg (by simp [still])

theorem enterDisarmed_ss (s : State) : (enterDisarmed s).ss =
    { s.ss with safety := .disarmed, timer := none, armPending := none, disarmPending := none } := by
  simp [enterDisarmed, completeArm_answered, completeDisarm_answered]

theorem enterDisarmed_onlyChanges (s : State) :
    OnlyChanges [.lif, .chans, .spl, .dlu, .ss, .pu, .ts, .tpr, .attention] s (enterDisarmed s) := by
  simp [onlyChanges_iff]

theorem estopCut_onlyChanges (s : State) :
    OnlyChanges [.lif, .chans, .spl, .dlu, .ss, .pu, .ts, .tpr, .attention] s (estopCut s) := by
  unfold estopCut
  split <;> simp [onlyChanges_iff]

theorem attentionHas_completeDisarm {s : State} {a : Attention} (present : attentionHas s.attention a = true) :
    attentionHas (completeDisarm s).attention a = true := by
  rw [completeDisarm_answered]
  exact attentionHas_answered present s.ss.disarmPending codeDisarm .done

theorem attentionHas_enterDisarmed {s : State} {a : Attention} (open_ : s.ss.safety.isOpen = true)
    (present : attentionHas s.attention a = true) : attentionHas (enterDisarmed s).attention a = true := by
  unfold enterDisarmed
  refine attentionHas_completeDisarm (attentionHas_completeArm (attentionHas_forceIdle ?_ ?_) .stopped)
  · simpa using open_
  · simpa using present

theorem attentionHas_estopCut {s : State} {a : Attention} (open_ : s.ss.safety.isOpen = true)
    (present : attentionHas s.attention a = true) : attentionHas (estopCut s).attention a = true := by
  unfold estopCut
  split
  next => exact attentionHas_enterDisarmed open_ present
  next => exact present

theorem isOpen_of_canStop {f : Safety} (moving : f.canStop = true) : f.isOpen = true := by
  cases f <;> simp_all [Safety.canStop, Safety.isOpen]

theorem isOpen_of_driven {f : Safety} (driven : f.driven = true) : f.isOpen = true := by
  cases f <;> simp_all [Safety.driven, Safety.isOpen]

theorem driven_of_canStop {f : Safety} (moving : f.canStop = true) : f.driven = true := by
  cases f <;> simp_all [Safety.canStop, Safety.driven]

/-- Every drive of the node is off and every brake set after the entry to DISARMED (R88, R114). -/
theorem enterDisarmed_line {s : State} {i : Nat} (hi : i < 4) (has : i < s.cfg.nChans) :
    ((enterDisarmed s).dlu.lines.get i).enable = false ∧ ((enterDisarmed s).dlu.lines.get i).released = false := by
  have off : ∀ (l : List Nat) (u : State), i ∈ l →
      ((l.foldl (fun u k => driveOff k u) u).dlu.lines.get i).enable = false ∧
        ((l.foldl (fun u k => driveOff k u) u).dlu.lines.get i).released = false := by
    intro l
    induction l using List.reverseRecOn with
    | nil => intro u absent; cases absent
    | append_singleton l k ih =>
      intro u listed
      rw [List.foldl_append, List.foldl_cons, List.foldl_nil, driveOff_line _ _ hi]
      by_cases last : i = k
      · simp [last, offLine]
      · rw [if_neg last]
        exact ih u (by simpa [last] using listed)
  have lines : (enterDisarmed s).dlu.lines.get i = { (allDrivesOff s).dlu.lines.get i with faultOff := false } := by
    simp [enterDisarmed, clearFaultOff]
  rw [lines]
  exact off _ s (by simpa [State.channels] using has)

/-! ### The added entry -/

theorem addOwn_ss (c : Cause) (d : Nat) (s : State) : (addOwn c d s).ss = { s.ss with
    claims := insertClaim { origin := s.cfg.station, cause := c, detail := d, latched := c.isLatched } s.ss.claims } := by
  simp [addOwn]

theorem addOwn_eq (c : Cause) (d : Nat) (s : State) : addOwn c d s =
    recomposeRoll (broadcast (.stop c d) { s with ss.claims := (addOwn c d s).ss.claims }) := by
  rw [addOwn_claims]
  rfl

theorem addOwn_urgent {s : State} (open_ : s.ss.safety.isOpen = true) (room : s.lif.urgent.length < 16) (c : Cause) (d : Nat) :
    ∃ e ∈ (addOwn c d s).lif.urgent,
      e.msg = { dest := 0, body := .stop c d } ∨ e.active = true ∧ e.succ = some { dest := 0, body := .stop c d } := by
  unfold addOwn
  dsimp only
  rw [recomposeRoll_urgent]
  refine mem_urgent_broadcast_stop ?_ ?_ c d
  · exact open_
  · exact room

theorem addOwn_onlyChanges (c : Cause) (d : Nat) (s : State) : OnlyChanges [.lif, .ss, .attention] s (addOwn c d s) := by
  simp [onlyChanges_iff]

theorem afterOwnClaim_urgent (c : Cause) (s : State) : (afterOwnClaim c s).lif.urgent = s.lif.urgent := by
  unfold afterOwnClaim
  split <;> simp

end Sys2Proof.Machine
end

section
/-! Own causes, as a whole: the statement of R95, R102, R108 and R113. -/

namespace Sys2Proof.Machine

open Sys2Proof

/-! ### What stands after a raising -/

theorem findClaim_setDetail (l : List Claim) (o : Nat) (c : Cause) (d : Nat) :
    findClaim (setDetail l o c d) o c = (findClaim l o c).map fun e => { e with detail := d } := by
  induction l with
  | nil => rfl
  | cons e l ih =>
    simp only [findClaim, setDetail, List.map_cons] at ih ⊢
    by_cases key : e.hasKey o c = true
    · have kept : Claim.hasKey { e with detail := d } o c = true := key
      simp [key, kept]
    · simp [key, ih]

section
variable {c : Cause} {d : Nat} {s : State}

theorem raiseOwn_room_claims (open_ : s.ss.safety.isOpen = true) (absent : findClaim s.ss.claims s.cfg.station c = none)
    (room : s.ss.claims.length < 32) : (raiseOwn c d s).ss.claims =
      insertClaim { origin := s.cfg.station, cause := c, detail := d, latched := c.isLatched } s.ss.claims := by
  rw [raiseOwn_of_room open_ absent room, afterOwnClaim_claims, addOwn_claims]

theorem raiseOwn_room_finds (open_ : s.ss.safety.isOpen = true) (absent : findClaim s.ss.claims s.cfg.station c = none)
    (room : s.ss.claims.length < 32) : findClaim (raiseOwn c d s).ss.claims s.cfg.station c =
      some { origin := s.cfg.station, cause := c, detail := d, latched := c.isLatched } := by
  rw [raiseOwn_room_claims open_ absent room]
  exact findClaim_insertClaim _ _ absent

/-- After a raising that the list takes, the own entry stands with the detail raised. -/
theorem raiseOwn_finds (open_ : s.ss.safety.isOpen = true)
    (taken : findClaim s.ss.claims s.cfg.station c ≠ none ∨ s.ss.claims.length < 32) :
    ∃ k, findClaim (raiseOwn c d s).ss.claims s.cfg.station c = some k ∧ k.detail = d := by
  cases found : findClaim s.ss.claims s.cfg.station c with
  | none => exact ⟨_, raiseOwn_room_finds open_ found (taken.resolve_left fun stands => stands found), rfl⟩
  | some e =>
    by_cases same : e.detail = d
    · rw [raiseOwn_of_same found same]
      exact ⟨e, found, same⟩
    · rw [raiseOwn_of_standing open_ found same]
      simp [findClaim_setDetail, found]

theorem raiseOwn_room_stops (ne : c ≠ .estop) (moving : s.ss.safety.canStop = true)
    (absent : findClaim s.ss.claims s.cfg.station c = none) (room : s.ss.claims.length < 32) :
    (raiseOwn c d s).ss.safety = .stopping := by
  rw [raiseOwn_of_room (isOpen_of_canStop moving) absent room, afterOwnClaim_of_ne ne,
    stopIfMoving_of_canStop (by simpa [addOwn_ss] using moving), enterStopping_ss]

theorem raiseOwn_room_cuts (driven : s.ss.safety.driven = true)
    (absent : findClaim s.ss.claims s.cfg.station .estop = none) (room : s.ss.claims.length < 32) :
    (raiseOwn .estop d s).ss.safety = .disarmed := by
  rw [raiseOwn_of_room (isOpen_of_driven driven) absent room, afterOwnClaim_estop,
    estopCut_of_driven (by simpa [addOwn_ss] using driven), enterDisarmed_ss]

theorem afterOwnClaim_onlyChanges :
    OnlyChanges [.lif, .chans, .spl, .dlu, .ss, .pu, .ts, .tpr, .attention] s (afterOwnClaim c s) := by
  unfold afterOwnClaim
  split
  next => exact estopCut_onlyChanges s
  next => exact (stopIfMoving_onlyChanges s).mono (by simp)

theorem raiseOwn_onlyChanges (c : Cause) (d : Nat) (s : State) :
    OnlyChanges [.lif, .chans, .spl, .dlu, .ss, .pu, .ts, .tpr, .attention] s (raiseOwn c d s) := by
  simp [onlyChanges_iff]

/-- No cause but ESTOP reaches the drives and the sensor line. -/
theorem raiseOwn_outputs (ne : c ≠ .estop) : (raiseOwn c d s).dlu = s.dlu ∧ (raiseOwn c d s).spl = s.spl := by
  unfold raiseOwn
  repeat' split
  all_goals simp [afterOwnClaim_of_ne ne]

end

/-! ### A full list (R95, R102) -/

/-- The node whose list is full, after the entry that stands last has given way and the new entry stands, with the overflow
condition, before the stop that may follow. -/
def overflowAdded (c : Cause) (d : Nat) (s : State) : State := overflowed (addOwn c d (trimmed s))

theorem trimmed_claims {s : State} {pre post : List Claim} {k : Claim} (list : s.ss.claims = pre ++ k :: post)
    (remote : k.origin ≠ s.cfg.station) (last : ∀ x ∈ post, x.origin = s.cfg.station) :
    (trimmed s).ss.claims = pre ++ post := by
  simp only [trimmed, list]
  exact removeLastRemote_append remote last

theorem raiseOwn_of_full {c : Cause} {d : Nat} {s : State} {pre post : List Claim} {k : Claim} (open_ : s.ss.safety.isOpen = true)
    (absent : findClaim s.ss.claims s.cfg.station c = none) (full : s.ss.claims.length = 32)
    (list : s.ss.claims = pre ++ k :: post) (remote : k.origin ≠ s.cfg.station) (last : ∀ x ∈ post, x.origin = s.cfg.station) :
    raiseOwn c d s = afterOwnClaim c (stopIfMoving (overflowAdded c d s)) := by
  have rest := trimmed_claims list remote last
  rw [raiseOwn_of_trimmed open_ absent full.ge, refuseClaim_eq]
  · rfl
  · rw [rest]
    rw [list] at full
    simp at full ⊢
    omega

@[simp] theorem overflowAdded_safety (c : Cause) (d : Nat) (s : State) : (overflowAdded c d s).ss.safety = s.ss.safety := by
  simp [overflowAdded, overflowed, addOwn_ss, trimmed]

theorem overflowAdded_claims (c : Cause) (d : Nat) (s : State) : (overflowAdded c d s).ss.claims =
    insertClaim { origin := s.cfg.station, cause := c, detail := d, latched := c.isLatched } (trimmed s).ss.claims :=
  addOwn_claims c d (trimmed s)

theorem overflowAdded_attention (c : Cause) (d : Nat) (s : State) :
    attentionHas (overflowAdded c d s).attention .claimOverflow = true :=
  attentionHas_attentionRaise_self _ _

theorem stopIfMoving_overflow {s : State} (overflow : s.ss.overflow = true) (quiet : s.ss.overflowQuiet = 0)
    (raised : attentionHas s.attention .claimOverflow = true) : (stopIfMoving s).ss.overflow = true ∧
      (stopIfMoving s).ss.overflowQuiet = 0 ∧ attentionHas (stopIfMoving s).attention .claimOverflow = true := by
  cases moves : s.ss.safety.canStop with
  | true =>
    rw [stopIfMoving_of_canStop moves, enterStopping_ss]
    exact ⟨overflow, quiet, attentionHas_enterStopping raised⟩
  | false =>
    rw [stopIfMoving_of_not_canStop moves]
    exact ⟨overflow, quiet, raised⟩

/-- What a stop and a cut leave of the overflow condition. -/
theorem afterOwnClaim_overflow {s : State} (overflow : s.ss.overflow = true) (quiet : s.ss.overflowQuiet = 0)
    (open_ : s.ss.safety.isOpen = true) (raised : attentionHas s.attention .claimOverflow = true) (c : Cause) :
    (afterOwnClaim c s).ss.overflow = true ∧ (afterOwnClaim c s).ss.overflowQuiet = 0 ∧
      attentionHas (afterOwnClaim c s).attention .claimOverflow = true := by
  by_cases estop : c = .estop
  · subst estop
    rw [afterOwnClaim_estop]
    refine ⟨?_, ?_, attentionHas_estopCut open_ raised⟩ <;>
    cases driven : s.ss.safety.driven <;>
    simp [estopCut_of_driven, estopCut_of_not_driven, driven, enterDisarmed_ss, overflow, quiet]
  · rw [afterOwnClaim_of_ne estop]
    exact stopIfMoving_overflow overflow quiet raised

theorem stopIfMoving_driven {s : State} (driven : s.ss.safety.driven = true) : (stopIfMoving s).ss.safety.driven = true := by
  cases moves : s.ss.safety.canStop with
  | true => rw [stopIfMoving_of_canStop moves, enterStopping_ss]; rfl
  | false => rwa [stopIfMoving_of_not_canStop moves]

theorem stopIfMoving_isOpen {s : State} (open_ : s.ss.safety.isOpen = true) : (stopIfMoving s).ss.safety.isOpen = true := by
  cases moves : s.ss.safety.canStop with
  | true => rw [stopIfMoving_of_canStop moves, enterStopping_ss]; rfl
  | false => rwa [stopIfMoving_of_not_canStop moves]

theorem stopIfMoving_twice (s : State) : stopIfMoving (stopIfMoving s) = stopIfMoving s := by
  cases moves : s.ss.safety.canStop with
  | true =>
    refine stopIfMoving_of_not_canStop ?_
    rw [stopIfMoving_of_canStop moves, enterStopping_ss]
    rfl
  | false => rw [stopIfMoving_of_not_canStop moves, stopIfMoving_of_not_canStop moves]

/-- Settles O11, by the outcomes of a raising and by what entering STOPPING and DISARMED does. -/
theorem ownCauseIsEnteredAndStopsTheNode : Obligations.OwnCauseIsEnteredAndStopsTheNode := by
  refine ⟨fun c d s u open_ absent room added => ?added, fun s => ⟨stopIfMoving_of_not_canStop, estopCut_of_not_driven,
    fun moving few => ?stops, fun driven few => ?cuts⟩, fun c d s ne moving few absent room => ?moving,
    fun c d s ne open_ still absent room => ?still, fun c d e s open_ found other => ?standing,
    fun c d e s found same => raiseOwn_of_same found same, fun c d s closed => raiseOwn_of_closed closed c d,
    fun d s driven few absent room => ?estop, fun c d s pre post k open_ absent full list remote last => ?full,
    fun c d s => ⟨fun absent => ?handed, fun e found => ⟨fun lower => ?lower, fun notLower => ?notLower⟩⟩,
    fun s => ⟨fun i hi play two first => ?deviation, fun nowhere => ?noDeviation⟩⟩
  case added =>
    have eq : u = addOwn c d s := added
    have raised := raiseOwn_of_room (d := d) open_ absent room
    rw [← eq] at raised
    refine ⟨fun ne => raised.trans (afterOwnClaim_of_ne ne u), fun estop => ?_, ?_, fun urgent => ?_⟩
    · subst estop
      exact raised.trans (afterOwnClaim_estop u)
    · rw [raised, afterOwnClaim_urgent]
    · rw [raised, afterOwnClaim_urgent, eq]
      exact addOwn_urgent open_ urgent c d
  case stops =>
    rw [stopIfMoving_of_canStop moving]
    exact enterStopping_enters s moving few
  case cuts =>
    rw [estopCut_of_driven driven]
    exact enterDisarmed_enters s driven few
  case moving =>
    have open_ := isOpen_of_canStop moving
    have ss := addOwn_ss c d s
    have raised : raiseOwn c d s = enterStopping (addOwn c d s) := by
      rw [raiseOwn_of_room open_ absent room, afterOwnClaim_of_ne ne, stopIfMoving_of_canStop (by simpa [ss] using moving)]
    have claims := raiseOwn_room_claims (d := d) open_ absent room
    have enters := enterStopping_enters (addOwn c d s) (by simpa [ss] using moving) (by simpa using few)
    rw [← raised] at enters
    obtain ⟨after, idle, _, _, chans, _⟩ := id enters
    refine ⟨⟨_, rfl, ?_⟩, forcedIdle_of_same idle (by simp) (by simp) (by simp) (by simp), by rw [after], by rw [after],
      by rw [after], by rw [raised, enterStopping_activity], claims, ?_, fun i hi on notOff => ?_⟩
    · rw [claims, ← addOwn_claims c d s, ← addOwn_eq]
      exact enters
    · rw [raised]
      exact ((addOwn_onlyChanges c d s).mono (by simp)).trans (enterStopping_onlyChanges _)
    · have chan := chans i (by omega)
      simp only [addOwn_frame, hi, on, notOff, true_and, ne_eq, not_false_eq_true] at chan
      rw [chan]
      by_cases stop : (s.chans.get i).mode = .stop <;> simp [stop, stopChan]
  case still =>
    rw [raiseOwn_of_room open_ absent room, afterOwnClaim_of_ne ne, stopIfMoving_of_not_canStop (by simpa [addOwn_ss] using still)]
    rfl
  case standing => rw [raiseOwn_of_standing open_ found other, setDetail_eq_map]
  case estop =>
    have open_ := isOpen_of_driven driven
    have ss := addOwn_ss .estop d s
    have raised : raiseOwn .estop d s = enterDisarmed (addOwn .estop d s) := by
      rw [raiseOwn_of_room open_ absent room, afterOwnClaim_estop, estopCut_of_driven (by simpa [ss] using driven)]
    have claims := raiseOwn_room_claims (d := d) open_ absent room
    have enters := enterDisarmed_enters (addOwn .estop d s) (by simpa [ss] using driven) (by simpa using few)
    rw [← raised] at enters
    obtain ⟨after, idle, _, _, channels, _⟩ := id enters
    refine ⟨⟨_, rfl, ?_⟩, forcedIdle_of_same idle (by simp) (by simp) (by simp) (by simp), by rw [after], by rw [after],
      by rw [after], by rw [after], by rw [raised, enterDisarmed_activity], claims, raiseOwn_onlyChanges _ _ _, fun i hi => ?_⟩
    · rw [claims, ← addOwn_claims .estop d s, ← addOwn_eq]
      exact enters
    · obtain ⟨line, off, notOff⟩ := channels i (by simpa using hi)
      simp only [addOwn_frame] at line off notOff
      refine ⟨by rw [line]; rfl, by rw [line]; rfl, by rw [line], ?_, fun other => ?_⟩
      · by_cases there : (s.chans.get i).mode = .off
        · rw [(off there).1, there]
        · rw [(notOff there).1]; rfl
      · rw [(notOff other).1]; rfl
  case full =>
    have raised := raiseOwn_of_full (d := d) open_ absent full list remote last
    have openAdded : (overflowAdded c d s).ss.safety.isOpen = true := by simpa using open_
    have claims : (raiseOwn c d s).ss.claims =
        insertClaim { origin := s.cfg.station, cause := c, detail := d, latched := c.isLatched } (pre ++ post) := by
      rw [raised, afterOwnClaim_claims, stopIfMoving_claims, overflowAdded_claims, trimmed_claims list remote last]
    obtain ⟨stands, quiet, attention⟩ :=
      stopIfMoving_overflow (s := overflowAdded c d s) rfl rfl (overflowAdded_attention c d s)
    have sends : addOwn c d (trimmed s) =
        recomposeRoll (broadcast (.stop c d) { s with ss.claims := (raiseOwn c d s).ss.claims }) := by
      rw [claims, ← trimmed_claims list remote last]
      rfl
    have urgent : (raiseOwn c d s).lif.urgent = (addOwn c d (trimmed s)).lif.urgent := by
      rw [raised, afterOwnClaim_urgent, stopIfMoving_urgent]
      rfl
    have stopped : c ≠ .estop → raiseOwn c d s = stopIfMoving (overflowAdded c d s) := fun ne => by
      rw [raised, afterOwnClaim_of_ne ne, stopIfMoving_twice]
    have cut : c = .estop → raiseOwn c d s = estopCut (stopIfMoving (overflowAdded c d s)) := fun estop => by
      rw [raised, estop, afterOwnClaim_estop]
    refine ⟨claims, ?_, ?_, ?_, ⟨_, _, sends, rfl, stopped, cut, urgent, fun room => ?_⟩, fun ne moving => ?_, fun ne still => ?_,
      fun estop driven => ?_, raiseOwn_onlyChanges _ _ _⟩
    · rw [raised]
      exact (afterOwnClaim_overflow stands quiet (stopIfMoving_isOpen openAdded) attention c).1
    · rw [raised]
      exact (afterOwnClaim_overflow stands quiet (stopIfMoving_isOpen openAdded) attention c).2.1
    · rw [raised]
      exact (afterOwnClaim_overflow stands quiet (stopIfMoving_isOpen openAdded) attention c).2.2
    · rw [urgent]
      exact addOwn_urgent (s := trimmed s) open_ room c d
    · rw [stopped ne, stopIfMoving_of_canStop (by simpa using moving), enterStopping_ss]
      exact ⟨rfl, enterStopping_activity _⟩
    · have eq : raiseOwn c d s = overflowAdded c d s := by
        rw [stopped ne, stopIfMoving_of_not_canStop (by simpa using still)]
      exact ⟨by rw [eq, overflowAdded_safety], _, sends, eq⟩
    · have enters : raiseOwn c d s = enterDisarmed (stopIfMoving (overflowAdded c d s)) := by
        rw [cut estop, estopCut_of_driven (stopIfMoving_driven (by simpa using driven))]
      rw [enters]
      exact ⟨enterDisarmed_safety _, enterDisarmed_activity _, fun i hi has =>
        enterDisarmed_line hi (by simpa [overflowAdded, overflowed, trimmed] using has)⟩
  case handed => simp [raiseFiltered, absent]
  case lower => simp [raiseFiltered, found, lower]
  case notLower => simp [raiseFiltered, found, notLower]
  case deviation =>
    have found : (s.channels.find? fun i => (s.chans.get i).dev == 2 && (s.chans.get i).mode == .play) = some i := by
      rw [State.channels, List.find?_range_eq_some]
      refine ⟨by simp [two, play], List.mem_range.2 hi, fun k below => ?_⟩
      by_cases playing : (s.chans.get k).mode = .play
      · simp [first k below playing]
      · simp [playing]
    unfold raiseDeviation
    rw [found]
  case noDeviation =>
    have absent : (s.channels.find? fun i => (s.chans.get i).dev == 2 && (s.chans.get i).mode == .play) = none := by
      rw [State.channels, List.find?_range_eq_none]
      intro k hk
      by_cases playing : (s.chans.get k).mode = .play
      · simp [nowhere k hk playing]
      · simp [playing]
    unfold raiseDeviation
    rw [absent]

end Sys2Proof.Machine
end

section
/-! A lost peer (R38) and the explicit read of a sensor (R83 to R85). -/

namespace Sys2Proof.Machine

open Sys2Proof

/-! ### A lost peer (R38, R94) -/

theorem peerJustLost_of_entry {s : State} {e : RosterEntry} (stands : e ∈ s.ru.roster) (pinned : e.pinned = true)
    (known : e.heard = true) (late : e.age = s.cfg.lossTimeout + 1) : s.peerJustLost = true :=
  List.any_eq_true.2 ⟨e, stands, by simp [pinned, known, late]⟩

theorem raisePeer_of_least {s : State} {d : Nat} (lost : d ∈ s.lostSet) (least : ∀ x ∈ s.lostSet, d ≤ x) :
    raisePeer s = raiseOwn .peer d s := by
  unfold raisePeer
  rw [List.min?_eq_some_iff.2 ⟨lost, least⟩]

/-- Settles O10, with the outcome of a raising that finds room. -/
theorem peerLostRaisesPeer : Obligations.PeerLostRaisesPeer := by
  rintro s d open_ ⟨e, stands, pinned, known, late⟩ lost least
  have owner : exec .peerLost s = .next (raiseOwn .peer d s) := by
    refine (whenOpen_eq open_ losePeers).trans ?_
    rw [losePeers, if_pos (peerJustLost_of_entry stands pinned known late), raisePeer_of_least lost least]
  exact ⟨owner, fun absent room => ⟨_, owner, raiseOwn_room_finds open_ absent room⟩⟩

/-! ### The explicit read (R83 to R85) -/

theorem readTakesLineNow_of_waiting {s : State} (waits : s.spl.read ≠ none) (still : s.spl.readActive = false)
    (free : s.spl.round = none) : readTakesLineNow s = { s with spl.readActive := true } := by
  have waits' : s.spl.read.isSome = true := Option.isSome_iff_ne_none.2 waits
  exact if_pos (by simp [waits', still, free])

/-- The line of a waiting read is active exactly when no round is in progress. -/
theorem readTakesLineNow_spl {s : State} (waits : s.spl.read ≠ none) (still : s.spl.readActive = false) :
    (readTakesLineNow s).spl = { s.spl with readActive := s.spl.round.isNone } := by
  cases round : s.spl.round with
  | none => rw [readTakesLineNow_of_waiting waits still round]; rfl
  | some r =>
    have kept : readTakesLineNow s = s := if_neg (by simp [round])
    rw [kept, Option.isNone_some, ← still]

theorem sensorReadCommand_of_free {channel item : Nat} {who : Slot} {s : State} (free : s.spl.read = none)
    (known : channel < s.cfg.nChans) (low : item ≤ 15) : sensorReadCommand channel item who s =
      readTakesLineNow (reply who codeSensorRead .accepted .none
        { s with spl.read := some { slot := who, channel := channel, item := item } }) := by
  unfold sensorReadCommand
  simp [free, known, low]

theorem freeSensorLine_of_deferred {s : State} (deferred : s.spl.deferred = true) : (freeSensorLine s).spl = { s.spl with
    read := none
    readActive := false
    deferred := false
    readings := s.spl.readings.map fun r => { r with received := false }
    round := some { channel := 0, late := true } } := by
  simp [freeSensorLine, beginRound, deferred]

theorem freeSensorLine_of_not_deferred {s : State} (free : s.spl.deferred = false) :
    (freeSensorLine s).spl = { s.spl with read := none, readActive := false } := by
  simp [freeSensorLine, free]

/-- What a placement does to the queues rests on the queues and on whether the node may send. -/
theorem place_lif (m : Msg) {s t : State} (ss : t.ss = s.ss) (cl : t.cl = s.cl) (lif : t.lif = s.lif) :
    (place m t).lif = (place m s).lif := by
  have silent : t.silent = s.silent := by simp [State.silent, ss, cl]
  unfold place
  rw [silent, ss, lif]
  repeat' split
  all_goals simp [txDrop, raise, lif]

/-- A read has ended: its slot is empty, and a deferred round has begun (R84, R85). -/
structure ReadEnded (s t : State) : Prop where
  slot : t.spl.read = none
  line : t.spl.readActive = false
  begun : t.spl.deferred = false
  round : s.spl.deferred = true → t.spl.round = some { channel := 0, late := true }
  kept : s.spl.deferred = false → t.spl.round = s.spl.round ∧ t.spl.readings = s.spl.readings

theorem freeSensorLine_ended (s : State) : ReadEnded s (freeSensorLine s) := by
  cases deferred : s.spl.deferred with
  | true =>
    have spl := freeSensorLine_of_deferred deferred
    exact ⟨by rw [spl], by rw [spl], by rw [spl], fun _ => by rw [spl], fun no => by simp [deferred] at no⟩
  | false =>
    have spl := freeSensorLine_of_not_deferred deferred
    exact ⟨by rw [spl], by rw [spl], by rw [spl, deferred], fun yes => by simp [deferred] at yes, fun _ => by rw [spl]; exact ⟨rfl, rfl⟩⟩

theorem completeRead_of_standing {w : ReadSlot} {s : State} (stands : s.spl.read = some w) (st : Status) (data : ReplyData) :
    completeRead st data s = freeSensorLine (reply w.slot codeSensorRead st data s) := by
  unfold completeRead
  rw [stands]

theorem completeRead_ended {w : ReadSlot} {s : State} (stands : s.spl.read = some w) (st : Status) (data : ReplyData) :
    ReadEnded s (completeRead st data s) := by
  rw [completeRead_of_standing stands]
  have ended := freeSensorLine_ended (reply w.slot codeSensorRead st data s)
  have spl : (reply w.slot codeSensorRead st data s).spl = s.spl := by simp
  exact ⟨ended.slot, ended.line, ended.begun, fun deferred => ended.round (by rw [spl, deferred]),
    fun free => by simpa only [spl] using ended.kept (by rw [spl, free])⟩

theorem completeRead_lif {w : ReadSlot} {s : State} (stands : s.spl.read = some w) (st : Status) (data : ReplyData) :
    (completeRead st data s).lif = (reply w.slot codeSensorRead st data s).lif := by
  rw [completeRead_of_standing stands]
  simp

theorem completeRead_onlyChanges (st : Status) (data : ReplyData) (s : State) :
    OnlyChanges [.lif, .spl, .attention] s (completeRead st data s) := by
  simp [onlyChanges_iff]

theorem completeRead_attention {w : ReadSlot} {s : State} (stands : s.spl.read = some w) (st : Status) (data : ReplyData)
    {a : Attention} (present : attentionHas s.attention a = true) : attentionHas (completeRead st data s).attention a = true := by
  have same : (completeRead st data s).attention = (reply w.slot codeSensorRead st data s).attention := by
    rw [completeRead_of_standing stands]
    simp
  rw [same]
  exact attentionHas_place present _

theorem readResponse_of_awaited {address : Byte} {w : ReadSlot} {s : State} (active : s.spl.readActive = true)
    (stands : s.spl.read = some w) (same : address.toNat = w.channel) (status : Byte) (v : BitVec 32) :
    exec (.readResponse .good address status v) s = .next (if status = 0 then completeRead .done (.value v) s
      else if status = 2 then completeRead .refused (.value 0) s else s) := by
  change execReadResponse .good address status v s = _
  unfold execReadResponse
  simp only [active, stands]
  rw [if_pos same]

theorem readResponse_of_ignored {answer : Answer} {address status : Byte} {v : BitVec 32} {s : State}
    (ignored : answer ≠ .good ∨ s.spl.readActive = false ∨ (status ≠ 0 ∧ status ≠ 2) ∨
      ∃ w, s.spl.read = some w ∧ address.toNat ≠ w.channel) :
    exec (.readResponse answer address status v) s = .next s := by
  change execReadResponse answer address status v s = _
  unfold execReadResponse
  refine congrArg Host.Outcome.next ?_
  split
  next w active stands =>
    obtain bad | still | ⟨zero, two⟩ | ⟨k, there, other⟩ := ignored
    · exact absurd rfl bad
    · rw [active] at still
      cases still
    · rw [if_neg zero, if_neg two, ite_self]
    · rw [stands] at there
      obtain rfl := Option.some.inj there
      exact if_neg other
  next => rfl

/-- Settles O45: SENSOR-READ, the taking of the line, and the three ends of a read. -/
theorem explicitReadBeginsAndEnds : Obligations.ExplicitReadBeginsAndEnds := by
  refine ⟨fun h serial channel item s taken => ?command, fun s waits still free => congrArg _ (readTakesLineNow_of_waiting waits still free),
    fun address v s w active stands same => ⟨⟨completeRead .done (.value v) s, ?good, ?done⟩,
      ⟨completeRead .refused (.value 0) s, ?fail, ?refused⟩⟩, fun s w active stands =>
      ⟨completeRead .timeout (.value 0) (raise .sensorTimeout s), ?late, ?timeout⟩,
    fun answer address status v s ignored => readResponse_of_ignored ignored⟩
  case command =>
    have owner : exec (.sensorRead h serial channel item) s =
        .next (sensorReadCommand channel.toNat item.toNat (caller h serial) (heard h s)) :=
      command_of_obeys h serial codeSensorRead 2 _ s taken rfl
    rw [owner]
    refine ⟨fun busy => ?_, fun free outside => ?_, fun free known low still => ⟨_, rfl, ?_⟩⟩
    · exact congrArg _ (if_pos (by simpa [Option.isSome_iff_ne_none] using busy))
    · refine congrArg _ ((if_neg (by simp [free])).trans (if_pos ?_))
      simpa using outside
    · rw [sensorReadCommand_of_free (by simpa using free) (by simpa using known) low]
      refine ⟨?_, ?_, by simp [onlyChanges_iff]⟩
      · rw [readTakesLineNow_spl (by simp) (by simpa using still)]
        simp
      · rw [(readTakesLineNow_frame _).1]
        unfold reply
        exact place_lif _ rfl rfl rfl
  case good =>
    rw [readResponse_of_awaited active stands same, if_pos rfl]
  case done =>
    have ended := completeRead_ended stands .done (.value v)
    exact ⟨completeRead_lif stands _ _, ended.slot, ended.line, ended.begun, ended.round, ended.kept, completeRead_onlyChanges _ _ _⟩
  case fail =>
    rw [readResponse_of_awaited active stands same, if_neg (by decide), if_pos rfl]
  case refused =>
    have ended := completeRead_ended stands .refused (.value 0)
    exact ⟨completeRead_lif stands _ _, ended.slot, ended.line, ended.begun, ended.round, completeRead_onlyChanges _ _ _⟩
  case late => exact congrArg _ (if_pos active)
  case timeout =>
    have there : (raise .sensorTimeout s).spl.read = some w := stands
    have ended := completeRead_ended there .timeout (.value 0)
    refine ⟨?_, completeRead_attention there _ _ (attentionHas_attentionRaise_self _ _), ended.slot, ended.line, ended.begun,
      ended.round, by simp [onlyChanges_iff]⟩
    rw [completeRead_lif there]
    exact place_lif _ rfl rfl rfl

end Sys2Proof.Machine
end

section
/-! The end of an attempt (R3, R13 to R16): what an unsuccessful one keeps, and what a successful one sends. -/

namespace Sys2Proof.Machine

open Sys2Proof

/-! ### A raising sends and does no more to the link -/

theorem SendsOnly.same {s t u : State} (sends : SendsOnly s t) (same : u.lif = t.lif) : SendsOnly s u := sends.trans (.of_eq same)

theorem answered_sends (p : Option Slot) (code : Nat) (st : Status) (s : State) : SendsOnly s (answered p code st s) := by
  cases p with
  | none => exact .refl s
  | some w => exact reply_sends w code st .none s

theorem completeArm_sends (st : Status) (s : State) : SendsOnly s (completeArm st s) := by
  rw [completeArm_answered]
  exact (answered_sends s.ss.armPending codeArm st s).same rfl

theorem completeDisarm_sends (s : State) : SendsOnly s (completeDisarm s) := by
  rw [completeDisarm_answered]
  exact (answered_sends s.ss.disarmPending codeDisarm .done s).same rfl

theorem completeCue_answered (st : Status) (s : State) : SendsOnly s (completeCue st s) :=
  (answered_sends s.tpr.cueCompletion codeCue st s).same (completeCue_same st rfl rfl rfl rfl rfl).1

theorem forceIdle_onlySends (s : State) : SendsOnly s (forceIdle s) := by
  unfold forceIdle
  split
  case h_1 => exact .refl s
  case h_2 => exact .of_eq (by simp)
  case h_3 => exact .of_eq (by simp)
  all_goals
    exact ((SendsOnly.of_eq (t := spendPlayed s) (by simp)).trans (completeCue_answered .stopped (spendPlayed s))).same (by simp)

theorem enterStopping_onlySends (s : State) : SendsOnly s (enterStopping s) := by
  have stopped : SendsOnly s (completeArm .stopped { s with ss.safety := .stopping, ss.timer := none }) :=
    completeArm_sends .stopped { s with ss.safety := .stopping, ss.timer := none }
  exact (stopped.trans (forceIdle_onlySends _)).same (by simp [enterStopping])

theorem enterDisarmed_onlySends (s : State) : SendsOnly s (enterDisarmed s) := by
  have cut : SendsOnly s { allDrivesOff s with ss.timer := none } := .of_eq (by simp)
  exact (((cut.trans (forceIdle_onlySends _)).trans (completeArm_sends .stopped _)).trans (completeDisarm_sends _)).same
    (by simp [enterDisarmed])

theorem stopIfMoving_onlySends (s : State) : SendsOnly s (stopIfMoving s) := .ite (enterStopping_onlySends s) (.refl s)

theorem estopCut_onlySends (s : State) : SendsOnly s (estopCut s) := .ite (enterDisarmed_onlySends s) (.refl s)

theorem addOwn_onlySends (c : Cause) (d : Nat) (s : State) : SendsOnly s (addOwn c d s) := by
  refine .trans ?_ (recomposeRoll_sends _)
  exact broadcast_sends (.stop c d) { s with ss.claims := _ }

theorem raiseOwn_onlySends (c : Cause) (d : Nat) (s : State) : SendsOnly s (raiseOwn c d s) := by
  unfold raiseOwn
  split
  next => exact .refl s
  next =>
    have finish (u : State) : SendsOnly u (afterOwnClaim c u) := .ite (estopCut_onlySends u) (stopIfMoving_onlySends u)
    split
    next e _ =>
      refine .ite (.refl s) (.trans ?_ (recomposeRoll_sends _))
      exact broadcast_sends (.stop c d) { s with ss.claims := _ }
    next =>
      refine .ite ((addOwn_onlySends c d s).trans (finish _)) (.ite ?_ (.refl s))
      have added : SendsOnly s (overflowAdded c d s) := addOwn_onlySends c d (trimmed s)
      exact (added.trans (stopIfMoving_onlySends _)).trans (finish _)

theorem raiseOwn_onlyChanges_of_ne {c : Cause} (ne : c ≠ .estop) (d : Nat) (s : State) :
    OnlyChanges [.lif, .chans, .ss, .pu, .ts, .tpr, .attention] s (raiseOwn c d s) := by
  obtain ⟨dlu, spl⟩ := raiseOwn_outputs (d := d) (s := s) ne
  simp [onlyChanges_iff, dlu, spl]

/-! ### Without success (R3, R13, R15, R16) -/

theorem arbitrationLost_of_busy {s : State} (busy : s.lif.busy = true) :
    exec .arbitrationLost s = .next { s with lif := s.lif.attemptLost } := congrArg Host.Outcome.next (if_pos busy)

/-- The node after a failed attempt that has not brought the consecutive count to 16. -/
def failedAttempt (s : State) : State :=
  { s with lif := { s.lif.attemptLost with
      failRun := satSucc 255 s.lif.failRun, txFailures := satSucc 65535 s.lif.txFailures } }

theorem transmitFailure_of_busy {s : State} (busy : s.lif.busy = true) : exec .transmitFailure s =
    .next (if satSucc 255 s.lif.failRun = 16 then linkLost (failedAttempt s) else failedAttempt s) :=
  congrArg Host.Outcome.next (if_pos busy)

/-- Settles O20, with the outcome of a raising that finds room for LINK. -/
theorem unsuccessfulAttemptsKeepTheEntry : Obligations.UnsuccessfulAttemptsKeepTheEntry := by
  refine ⟨fun s busy => ⟨_, arbitrationLost_of_busy busy, rfl, rfl, rfl, rfl, rfl, by simp [onlyChanges_iff]⟩,
    fun s busy notLost => ⟨failedAttempt s, ?below, rfl, rfl, rfl, rfl, rfl, rfl, by simp [onlyChanges_iff, failedAttempt]⟩,
    fun s busy fifteen open_ absent room => ?lost⟩
  case below => exact (transmitFailure_of_busy busy).trans (congrArg _ (if_neg notLost))
  case lost =>
    have run : satSucc 255 s.lif.failRun = 16 := by rw [fifteen]; rfl
    have owner : exec .transmitFailure s = .next (linkLost (failedAttempt s)) :=
      (transmitFailure_of_busy busy).trans (congrArg _ (if_pos run))
    have sends : (linkLost (failedAttempt s)).lif = _ :=
      raiseOwn_onlySends .link s.cfg.station { failedAttempt s with lif.linkRelease := false }
    refine ⟨_, { failedAttempt s with lif.linkRelease := false }, owner, ?_, ?_, ?_, rfl, ?_,
      raiseOwn_room_finds open_ absent room, fun moving => raiseOwn_room_stops (by decide) moving absent room,
      ?_⟩
    · rw [sends]
      exact run
    · rw [sends]
    · rw [sends]
      rfl
    · rw [← run]
      rfl
    · have fails : OnlyChanges [.lif] s { failedAttempt s with lif.linkRelease := false } := by
        simp [onlyChanges_iff, failedAttempt]
      exact (fails.mono (by simp)).trans (raiseOwn_onlyChanges_of_ne (by decide) _ _)

/-! ### With success (R13, R15, R45, R124, R202) -/

theorem attemptSuccess_of_entry {s : State} {e : QEntry} (busy : s.lif.busy = true) (sends : s.lif.inAttempt = some e) :
    exec .attemptSuccess s = .next (afterSuccess e.msg.body { s with lif := s.lif.attemptWon }) := by
  refine congrArg Host.Outcome.next ((if_pos busy).trans ?_)
  rw [sends]
  rfl

theorem afterSuccess_of_plain {b : Body} (factor : b.factorCarried = none) (notPark : b.isDone codePark = false)
    (notRestart : b.isDone codeRestart = false) (s : State) : afterSuccess b s = s := by
  simp [afterSuccess, factor, notPark, notRestart]

theorem isDone_of_factorCarried {b : Body} {f : Nat} (factor : b.factorCarried = some f) (code : Nat) : b.isDone code = false := by
  cases b with
  | pace | roll => rfl
  | _ => cases factor

theorem factorCarried_of_isDone {b : Body} {code : Nat} (done : b.isDone code = true) : b.factorCarried = none := by
  cases b with
  | reply => rfl
  | _ => cases done

theorem afterSuccess_of_factor {b : Body} {f : Nat} (factor : b.factorCarried = some f) (s : State) :
    afterSuccess b s = takeFactor s.cfg.station f s.dateNow s := by
  simp [afterSuccess, factor, isDone_of_factorCarried factor]

theorem takeFactor_withLif (o v : Nat) (d : FrameNo) (s : State) (l : Lif) :
    takeFactor o v d { s with lif := l } = { takeFactor o v d s with lif := l } := by
  unfold takeFactor
  repeat' split
  all_goals rfl

theorem afterSuccess_of_park {b : Body} {s : State} (done : b.isDone codePark = true) (pending : s.ru.parkPending = true) :
    afterSuccess b s = enterParked s := by
  simp [afterSuccess, factorCarried_of_isDone done, done, pending]

theorem not_isDone_park_of_restart {b : Body} (done : b.isDone codeRestart = true) : b.isDone codePark = false := by
  unfold Body.isDone at done ⊢
  split
  next c _ =>
    have code : c = codeRestart := by simpa using done
    rw [code]
    rfl
  next => rfl

theorem afterSuccess_of_restart {b : Body} {s : State} (done : b.isDone codeRestart = true)
    (pending : s.cl.restartPending = true) : afterSuccess b s = enterLoading s := by
  simp [afterSuccess, factorCarried_of_isDone done, done, pending, not_isDone_park_of_restart done]

/-- Settles O21: by what the message sent carries. -/
theorem successfulAttemptSendsTheEntry : Obligations.SuccessfulAttemptSendsTheEntry := by
  refine ⟨fun s e busy sends factor notPark notRestart => ?plain, fun s e f busy sends factor => ?factor,
    fun s e busy sends done pending => ?park, fun s e busy sends done pending => ?restart⟩
  case plain =>
    rw [attemptSuccess_of_entry busy sends, afterSuccess_of_plain factor notPark notRestart]
    rfl
  case factor =>
    refine ⟨_, attemptSuccess_of_entry busy sends, ?_⟩
    rw [afterSuccess_of_factor factor]
    have kept := takeFactor_withLif s.cfg.station f s.dateNow s s.lif.attemptWon
    have dated : State.dateNow { s with lif := s.lif.attemptWon } = s.dateNow := rfl
    rw [dated, kept]
    exact ⟨rfl, rfl, rfl, rfl, by simp [onlyChanges_iff]⟩
  case park =>
    refine ⟨_, attemptSuccess_of_entry busy sends, ?_⟩
    rw [afterSuccess_of_park (s := { s with lif := s.lif.attemptWon }) done pending]
    exact ⟨rfl, rfl, by simp [onlyChanges_iff]⟩
  case restart =>
    refine ⟨_, attemptSuccess_of_entry busy sends, ?_⟩
    rw [afterSuccess_of_restart (s := { s with lif := s.lif.attemptWon }) done pending]
    exact ⟨rfl, rfl, rfl, rfl, rfl⟩

end Sys2Proof.Machine
end

section
/-! The live timeout (R175, R176) and the brake timer (R107, R110, R111, R112, R114). -/

namespace Sys2Proof.Machine

open Sys2Proof

/-! ### The live timeout (R175) -/

/-- A channel without live control, with its pending goals emptied and HALT requested. -/
def unlive (s : State) (i : Nat) (v : LiveView) : LiveView :=
  { chan := requested (s.dlu.lines.get i).enable (s.cfg.chan.get i).table .halt v.chan
    live := { v.live with pend := [] }, inSet := false }

theorem leaveLive_view {i j : Nat} (hi : i < 4) (hj : j < 4) {s : State} (armed : s.ss.safety = .armed) :
    (leaveLive i s).liveView j = if j = i then unlive s j (s.liveView j) else s.liveView j := by
  unfold leaveLive
  rw [requestByPlayer_of_free (by simp [armed]) (by simp [armed])]
  have set := getLsbD_erase s.tpr.liveSet i hi j hj
  by_cases eq : j = i
  · subst eq
    simp only [unlive, State.liveView, requestMode_chan _ hi hi, requestMode_frame, if_pos]
    simp only [modLive, quad_get_set _ _ _ _ hi hi, if_pos, set]
    simp
  · simp only [State.liveView, requestMode_chan _ hi hj, requestMode_frame, if_neg eq]
    simp only [modLive, quad_get_set _ _ _ _ hi hj, if_neg eq, set]
    simp [eq]

theorem SameOutputs.leaveLive {s u : State} (same : SameOutputs s u) (i : Nat) : SameOutputs s (leaveLive i u) := by
  obtain ⟨ss, dlu, cfg⟩ := same
  exact ⟨by simp [ss], by simp [dlu], by simp [cfg]⟩

/-- The live control of a channel has timed out. -/
def LiveView.late (limit : Nat) (v : LiveView) : Prop := v.inSet = true ∧ limit ≤ v.live.age

/-- One round of the test. -/
def timeOutChan (u : State) (i : Nat) : State :=
  if u.tpr.liveSet.getLsbD i = true ∧ u.cfg.liveTimeout ≤ (u.tpr.live.get i).age then raise .liveStale (leaveLive i u) else u

theorem timeOutChan_same {s u : State} (same : SameOutputs s u) (i : Nat) : SameOutputs s (timeOutChan u i) := by
  unfold timeOutChan
  split
  next => exact same.leaveLive i
  next => exact same

theorem timeOutLive_view {s : State} (armed : s.ss.safety = .armed) (few : s.cfg.nChans ≤ 4) {i : Nat} (hi : i < s.cfg.nChans) :
    ((s.liveView i).late s.cfg.liveTimeout → (timeOutLive s).liveView i = unlive s i (s.liveView i)) ∧
    (¬ (s.liveView i).late s.cfg.liveTimeout → (timeOutLive s).liveView i = s.liveView i) := by
  have armedAt {u : State} (same : SameOutputs s u) : u.ss.safety = .armed := by rw [same.1, armed]
  refine (foldl_channels (f := timeOutChan) (side := SameOutputs s) (view := State.liveView)
    (change := fun i v w => (v.late s.cfg.liveTimeout → w = unlive s i v) ∧ (¬ v.late s.cfg.liveTimeout → w = v)) few
    (fun u i _ same => timeOutChan_same same i) (fun u i hi same => ?own) (fun u i hi j hj ne same => ?other) (.refl s)).1 i hi
  case own =>
    have four : i < 4 := by omega
    unfold timeOutChan
    rw [same.2.2]
    have left : (raise .liveStale (leaveLive i u)).liveView i = unlive s i (u.liveView i) := by
      refine (leaveLive_view four four (armedAt same)).trans ((if_pos rfl).trans ?_)
      simp only [unlive, same.2.1, same.2.2]
    split
    next late => exact ⟨fun _ => left, fun not => absurd late not⟩
    next early => exact ⟨fun late => absurd late early, fun _ => rfl⟩
  case other =>
    unfold timeOutChan
    split
    next => exact (leaveLive_view (by omega) hj (armedAt same)).trans (if_neg ne)
    next => rfl

/-- The LIVE SET changes in this test with LIVE-STALE raised, and not otherwise. -/
theorem timeOutLive_stale (s : State) :
    (timeOutLive s).tpr.liveSet = s.tpr.liveSet ∨ attentionHas (timeOutLive s).attention .liveStale = true := by
  refine List.foldlRecOn (motive := fun u => u.tpr.liveSet = s.tpr.liveSet ∨ attentionHas u.attention .liveStale = true)
    s.channels timeOutChan (.inl rfl) fun u kept i _ => ?_
  unfold timeOutChan
  split
  next => exact .inr (attentionHas_attentionRaise_self _ _)
  next => exact kept

theorem endOfLive_of_ended {s : State} (live : s.tpr.activity = .live) (empty : s.tpr.liveSet = 0)
    (hold : ∀ i < s.cfg.nChans, (s.chans.get i).mode = .hold) : endOfLive s = clearLive { s with tpr.activity := .idle } :=
  if_pos ⟨live, empty, by simpa [State.channels] using hold⟩

/-- Settles O13: the round of each channel, and the test of R176. -/
theorem liveTimeoutHaltsTheChannel : Obligations.LiveTimeoutHaltsTheChannel := by
  refine ⟨fun s i armed few hi => ⟨timeOutLive s, whenOpen_eq (by rw [armed]; rfl) timeOutLive, fun live late => ?late,
    fun early => ?early, by simp [onlyChanges_iff]⟩, fun s live empty hold => endOfLive_of_ended live empty hold,
    fun s not => if_neg ?not⟩
  case late =>
    have view := (timeOutLive_view armed few hi).1 ⟨live, late⟩
    have out : (timeOutLive s).tpr.liveSet.getLsbD i = false := congrArg LiveView.inSet view
    have goals : (timeOutLive s).tpr.live.get i = { s.tpr.live.get i with pend := [] } := congrArg LiveView.live view
    have chan : (timeOutLive s).chans.get i = _ := congrArg LiveView.chan view
    refine ⟨out, by rw [goals], (timeOutLive_stale s).resolve_left fun same => ?_, fun on => ?_⟩
    · rw [same, live] at out
      cases out
    · rw [chan]
      simp only [unlive, on]
      exact requested_mode_of_ne_hold (by decide) _
  case early =>
    have still : ¬ (s.liveView i).late s.cfg.liveTimeout := by
      rintro ⟨live, late⟩
      rcases early with out | early
      · exact Bool.false_ne_true (out.symm.trans live)
      · exact absurd late (not_le.2 early)
    have view := (timeOutLive_view armed few hi).2 still
    exact ⟨congrArg LiveView.inSet view, congrArg LiveView.live view, congrArg LiveView.chan view⟩
  case not =>
    rintro ⟨live, empty, hold⟩
    rcases not with other | other | ⟨i, hi, other⟩
    · exact other live
    · exact other empty
    · exact other (by simpa using List.all_eq_true.1 hold i (List.mem_range.2 hi))

/-! ### The ends of the brake timer (R107, R111) -/

theorem timerEnded_iff (s : State) (p : BrakePhase) : s.timerEnded p = true ↔ s.ss.timer = some { phase := p, frames := 0 } := by
  simp [State.timerEnded]

theorem endEnable_of_not_ended {s : State} (not : s.ss.timer ≠ some { phase := .enable, frames := 0 }) : endEnable s = s :=
  if_neg fun ended => not ((timerEnded_iff s _).1 ended.2)

theorem endRelease_of_not_ended {s : State} (not : s.ss.timer ≠ some { phase := .release, frames := 0 }) : endRelease s = s :=
  if_neg fun ended => not ((timerEnded_iff s _).1 ended.2)

theorem endBrakeSet_of_not_ended {s : State} (not : s.ss.timer ≠ some { phase := .set, frames := 0 }) : endBrakeSet s = s :=
  if_neg fun ended => not ((timerEnded_iff s _).1 ended.2)

theorem releaseBrakes_line {s : State} (few : s.cfg.nChans ≤ 4) {i : Nat} (hi : i < s.cfg.nChans) :
    (releaseBrakes s).dlu.lines.get i =
      { s.dlu.lines.get i with
        released := (s.dlu.lines.get i).released || ((s.cfg.chan.get i).brake && (s.dlu.lines.get i).enable) } :=
  (foldl_channels (f := fun u i => releaseBrake i u) (side := fun u => u.cfg = s.cfg) (view := fun u i => u.dlu.lines.get i)
    (change := fun i l m => m = { l with released := l.released || ((s.cfg.chan.get i).brake && l.enable) }) few
    (fun u k _ same => by simp [same])
    (fun u k hk same => by
      rw [releaseBrake, modLine_chan_line k k (by omega) (by omega), if_pos rfl, same])
    (fun u k hk j hj ne same => by rw [releaseBrake, modLine_chan_line k j (by omega) hj, if_neg ne]) rfl).1 i hi

theorem endEnable_of_ended {s : State} (arming : s.ss.safety = .arming) (ended : s.ss.timer = some { phase := .enable, frames := 0 }) :
    endEnable s = releaseBrakes { s with ss.timer := some { phase := .release, frames := s.cfg.brakeRelease } } :=
  if_pos ⟨arming, (timerEnded_iff s _).2 ended⟩

theorem endRelease_of_ended {s : State} (arming : s.ss.safety = .arming)
    (ended : s.ss.timer = some { phase := .release, frames := 0 }) :
    endRelease s = completeArm .done { s with ss := { s.ss with safety := .armed, timer := none } } :=
  if_pos ⟨arming, (timerEnded_iff s _).2 ended⟩

theorem endBrakeSet_of_ended {s : State} (secures : s.ss.safety = .securing)
    (ended : s.ss.timer = some { phase := .set, frames := 0 }) : endBrakeSet s = enterDisarmed s :=
  if_pos ⟨secures, (timerEnded_iff s _).2 ended⟩

/-- Where an end of a phase does something, the timer no longer stands where it stood. -/
theorem endRelease_timer_ne {s : State} (not : s.ss.timer ≠ some { phase := .enable, frames := 0 }) :
    (endRelease s).ss.timer ≠ some { phase := .enable, frames := 0 } := by
  unfold endRelease
  split
  next => simp [completeArm_answered]
  next => exact not

theorem endBrakeSet_timer (s : State) : (endBrakeSet s).ss.timer = none ∨ endBrakeSet s = s := by
  unfold endBrakeSet
  split
  next => exact .inl (by rw [enterDisarmed_ss])
  next => exact .inr rfl

/-! ### The brake timer at a frame tick -/

/-- The end that the count of a phase comes to. -/
def endPhase : BrakePhase → State → State
  | .enable => endEnable
  | .release => endRelease
  | .set => endBrakeSet

theorem ends_of_timer {s : State} {k : BrakeTimer} (timer : s.ss.timer = some k) (frames : k.frames = 0) :
    endEnable (endRelease (endBrakeSet s)) = endPhase k.phase s := by
  obtain ⟨phase, n⟩ := k
  obtain rfl : n = 0 := frames
  cases phase with
  | enable =>
    rw [endBrakeSet_of_not_ended (by simp [timer]), endRelease_of_not_ended (by simp [timer])]
    rfl
  | release =>
    rw [endBrakeSet_of_not_ended (by simp [timer]), endEnable_of_not_ended (endRelease_timer_ne (by simp [timer]))]
    rfl
  | set =>
    have still : (endBrakeSet s).ss.timer = none ∨ (endBrakeSet s).ss.timer = some { phase := .set, frames := 0 } :=
      (endBrakeSet_timer s).imp_right fun same => by rw [same, timer]
    have release : endRelease (endBrakeSet s) = endBrakeSet s :=
      endRelease_of_not_ended (by rcases still with none | same <;> simp [*])
    rw [release]
    exact endEnable_of_not_ended (by rcases still with none | same <;> simp [*])

theorem ends_of_running {s : State} {k : BrakeTimer} (timer : s.ss.timer = some k) (frames : k.frames ≠ 0) :
    endEnable (endRelease (endBrakeSet s)) = s := by
  have runs (p : BrakePhase) : s.ss.timer ≠ some { phase := p, frames := 0 } := fun ended => by
    rw [timer] at ended
    exact frames (congrArg BrakeTimer.frames (Option.some.inj ended))
  rw [endBrakeSet_of_not_ended (runs .set), endRelease_of_not_ended (runs .release), endEnable_of_not_ended (runs .enable)]

/-- The brake timer with one frame taken from it. -/
def countedDown (k : BrakeTimer) (s : State) : State := { s with ss.timer := some { phase := k.phase, frames := k.frames - 1 } }

theorem tickWork_brake {b : TickStart} {l : LineLevels} {j : Nat} {k : BrakeTimer} {s : State} (open_ : s.ss.safety.isOpen = true)
    (timer : s.ss.timer = some k) (begun : b.phase = some k.phase) :
    tickWork b l j .brake s = endEnable (endRelease (endBrakeSet (countedDown k s))) := by
  have counts : tickWork b l j .brake s = brakeTick s :=
    (if_pos open_).trans (if_pos (by rw [timer, begun]; rfl))
  rw [counts, brakeTick, timer]
  rfl

theorem tickWork_brake_of_later {b : TickStart} {l : LineLevels} {j : Nat} {s : State} (open_ : s.ss.safety.isOpen = true)
    (later : b.phase ≠ s.ss.timer.map (·.phase)) : tickWork b l j .brake s = s :=
  (if_pos open_).trans (if_neg (Ne.symm later))

theorem tickWork_brake_of_stopped {b : TickStart} {l : LineLevels} {j : Nat} {s : State} (stopped : s.ss.timer = none) :
    tickWork b l j .brake s = s := by
  have stands : brakeIfBegun b s = s := by
    unfold brakeIfBegun
    split
    next => simp [brakeTick, stopped]
    next => rfl
  change inOpen (brakeIfBegun b) s = s
  rw [inOpen, stands, ite_self]

theorem stoppingTest_of_rest {s : State} (stopping : s.ss.safety = .stopping)
    (rest : ∀ i < s.cfg.nChans, (s.chans.get i).atRest = true ∨ (s.chans.get i).mode = .off) :
    stoppingTest s = enterSecuring s :=
  if_pos ⟨stopping, by simpa [State.allAtRest, State.channels, Chan.resting] using rest⟩

/-- Settles O14: the three ends, the count at a frame tick, and the test of R110. -/
theorem brakeTimerEnds : Obligations.BrakeTimerEnds := by
  refine ⟨fun s arming ended few => ⟨_, congrArg Host.Outcome.next (endEnable_of_ended arming ended), ?enable⟩,
    fun s w arming ended pending => ⟨_, congrArg Host.Outcome.next (endRelease_of_ended arming ended), ?release⟩,
    fun s secures ended few => ⟨_, congrArg Host.Outcome.next (endBrakeSet_of_ended secures ended), ?set⟩,
    fun b l j k s open_ timer => ⟨fun later => ?later, fun begun two => ?counts, fun begun one => ?ends⟩,
    fun b l j s stopped => tickWork_brake_of_stopped stopped, fun s stopping few => ⟨fun rest => ?rest, fun moves => ?moves⟩⟩
  case enable =>
    refine ⟨by simp, fun i hi => ?_, by simp [onlyChanges_iff]⟩
    rw [releaseBrakes_line (s := { s with ss.timer := some { phase := .release, frames := s.cfg.brakeRelease } }) few hi]
    exact ⟨rfl, rfl⟩
  case release =>
    refine ⟨by simp [completeArm_answered], ?_, by simp [onlyChanges_iff]⟩
    rw [completeArm_answered]
    simp only [pending, answered]
    exact reply_congr _ _ _ _ (by rw [arming]; rfl) rfl rfl rfl
  case set =>
    have enters := enterDisarmed_enters s (by rw [secures]; rfl) few
    obtain ⟨ss, _, lif, _, channels, _⟩ := id enters
    refine ⟨enters, fun w pending noArm idle => ?_, by rw [ss], by rw [ss], by rw [ss], by rw [ss], by rw [ss],
      enterDisarmed_activity s, enterDisarmed_onlyChanges s, fun i hi => ?_⟩
    · rw [lif, pending, noArm]
      simp [pendingCue, idle, Activity.hasTake, answered]
    · obtain ⟨line, off, notOff⟩ := channels i hi
      refine ⟨by rw [line]; rfl, by rw [line]; rfl, by rw [line], ?_⟩
      by_cases there : (s.chans.get i).mode = .off
      · rw [(off there).1, there]
      · rw [(notOff there).1]; rfl
  case later => exact tickWork_brake_of_later open_ (by rw [timer]; exact later)
  case counts =>
    rw [tickWork_brake open_ timer begun]
    exact ends_of_running (k := { phase := k.phase, frames := k.frames - 1 }) rfl (by simp; omega)
  case ends =>
    have zero : k.frames - 1 = 0 := by omega
    rw [tickWork_brake open_ timer begun, ends_of_timer (k := { phase := k.phase, frames := k.frames - 1 }) rfl zero, countedDown, zero]
    cases k.phase <;> rfl
  case rest =>
    rw [stoppingTest_of_rest stopping rest]
    refine ⟨by simp [enterSecuring], fun i hi => ?_, by simp [onlyChanges_iff]⟩
    rw [enterSecuring_line few hi]
    exact ⟨rfl, rfl⟩
  case moves =>
    obtain ⟨i, hi, moving, notOff⟩ := moves
    refine if_neg fun both => ?_
    have resting := List.all_eq_true.1 both.2 i (List.mem_range.2 hi)
    simp [Chan.resting, moving, notOff] at resting

end Sys2Proof.Machine
end

section
/-! The Zone Unit: its filters, its two conditions, the own pace factor, and what a change of them brings (R116 to R120). -/

namespace Sys2Proof.Machine

open Sys2Proof

/-! ### Filters (R116, R117) -/

theorem LineFilter.sample_of_active {f : LineFilter} (active : f.active = true) (a : Bool) :
    f.sample a = if a then { f with seen := true, clear := 0 } else f := by
  simp [LineFilter.sample, active]

theorem LineFilter.sample_of_inactive {f : LineFilter} (inactive : f.active = false) (a : Bool) :
    f.sample a = if a then
      if 1 ≤ f.run then { active := true, run := 0, seen := true, clear := 0 } else { f with run := f.run + 1 }
    else { f with run := 0 } := by
  simp [LineFilter.sample, inactive]

theorem LineFilter.count_of_inactive {f : LineFilter} (inactive : f.active = false) (n : Nat) : f.count n = f := by
  simp [LineFilter.count, inactive]

theorem LineFilter.count_of_active {f : LineFilter} (active : f.active = true) (n : Nat) :
    f.count n = { f with clear := if f.seen then 0 else satSucc n f.clear, seen := false } := by
  simp [LineFilter.count, active]

/-- Two filters of a kind agree on whether a line is active; past the end of the list none is. -/
theorem getD_active_iff {l : List LineFilter} {n : Nat} :
    (l.getD n LineFilter.reset).active = true ↔ ∃ f, l[n]? = some f ∧ f.active = true := by
  cases entry : l[n]? with
  | none => simp [List.getD_eq_getElem?_getD, entry, LineFilter.reset]
  | some f => simp [List.getD_eq_getElem?_getD, entry]

/-! ### The conditions (R118, R120) -/

theorem zoneCondition_iff (s : State) (d : Nat) : s.zoneCondition = some d ↔
    d < 8 ∧ (∃ f, s.zu.lines[d]? = some f ∧ f.active = true) ∧ (NodeCfg.zone s.cfg d).cls = .stop ∧
      ∀ k < d, ∀ f, s.zu.lines[k]? = some f → f.active = true → (NodeCfg.zone s.cfg k).cls ≠ .stop := by
  have stops (n : Nat) : ((s.zu.lines.getD n LineFilter.reset).active && (NodeCfg.zone s.cfg n).cls == .stop) = true ↔
      (∃ f, s.zu.lines[n]? = some f ∧ f.active = true) ∧ (NodeCfg.zone s.cfg n).cls = .stop := by
    rw [Bool.and_eq_true, getD_active_iff, beq_iff_eq]
  unfold State.zoneCondition
  rw [List.find?_range_eq_some, List.mem_range, stops]
  have below : (∀ k < d, (!((s.zu.lines.getD k LineFilter.reset).active && (NodeCfg.zone s.cfg k).cls == .stop)) = true) ↔
      ∀ k < d, ∀ f, s.zu.lines[k]? = some f → f.active = true → (NodeCfg.zone s.cfg k).cls ≠ .stop := by
    refine forall₂_congr fun k _ => ?_
    rw [Bool.not_eq_true', ← Bool.not_eq_true, stops]
    exact ⟨fun not f entry active stop => not ⟨⟨f, entry, active⟩, stop⟩,
      fun not ⟨⟨f, entry, active⟩, stop⟩ => not f entry active stop⟩
  rw [below]
  exact ⟨fun ⟨⟨active, stop⟩, range, low⟩ => ⟨range, active, stop, low⟩, fun ⟨range, active, stop, low⟩ => ⟨⟨active, stop⟩, range, low⟩⟩

theorem estopCondition_iff (s : State) (d : Nat) : s.estopCondition = some d ↔
    d < 2 ∧ (∃ f, s.zu.estop[d]? = some f ∧ f.active = true) ∧
      ∀ k < d, ∀ f, s.zu.estop[k]? = some f → f.active = false := by
  unfold State.estopCondition
  rw [List.find?_range_eq_some, List.mem_range, getD_active_iff]
  have below : (∀ k < d, (!(s.zu.estop.getD k LineFilter.reset).active) = true) ↔
      ∀ k < d, ∀ f, s.zu.estop[k]? = some f → f.active = false := by
    refine forall₂_congr fun k _ => ?_
    rw [Bool.not_eq_true', ← Bool.not_eq_true, getD_active_iff]
    simp
  rw [below]
  exact ⟨fun ⟨active, range, low⟩ => ⟨range, active, low⟩, fun ⟨range, active, low⟩ => ⟨active, range, low⟩⟩

/-! ### The own pace factor (R119) -/

theorem foldl_min_le_of_mem {l : List Nat} {a : Nat} (ha : a ∈ l) (n : Nat) : l.foldl min n ≤ a := by
  induction l generalizing n with
  | nil => cases ha
  | cons b l ih =>
    rcases List.mem_cons.1 ha with rfl | later
    · exact (foldl_min_le l _).trans (min_le_right n a)
    · exact ih later _

theorem foldl_min_mem (l : List Nat) (n : Nat) : l.foldl min n = n ∨ l.foldl min n ∈ l := by
  induction l generalizing n with
  | nil => exact .inl rfl
  | cons b l ih =>
    rw [List.foldl_cons]
    rcases ih (min n b) with eq | later
    · rcases min_choice n b with left | right
      · exact .inl (eq.trans left)
      · exact .inr (by rw [eq, right]; exact List.mem_cons_self)
    · exact .inr (List.mem_cons_of_mem b later)

/-- The factors that the active SLOW lines ask for. -/
def State.slowFactors (s : State) : List Nat :=
  (List.range Config.zoneLines).filterMap fun n =>
    let z := NodeCfg.zone s.cfg n
    if (s.zu.lines.getD n LineFilter.reset).active ∧ z.cls = .slow then some z.factor else none

theorem slowFactor_eq (s : State) : s.slowFactor = s.slowFactors.foldl min 16 := rfl

theorem mem_slowFactors (s : State) (v : Nat) : v ∈ s.slowFactors ↔ ∃ n < 8, ∃ f, s.zu.lines[n]? = some f ∧ f.active = true ∧
    (NodeCfg.zone s.cfg n).cls = .slow ∧ v = (NodeCfg.zone s.cfg n).factor := by
  simp only [State.slowFactors, List.mem_filterMap, List.mem_range, Config.zoneLines]
  refine exists_congr fun n => and_congr_right fun _ => ?_
  by_cases slows : (s.zu.lines.getD n LineFilter.reset).active = true ∧ (NodeCfg.zone s.cfg n).cls = .slow
  · rw [if_pos slows]
    obtain ⟨f, entry, active⟩ := getD_active_iff.1 slows.1
    exact ⟨fun eq => ⟨f, entry, active, slows.2, (Option.some.inj eq).symm⟩, fun ⟨_, _, _, _, eq⟩ => by rw [eq]⟩
  · rw [if_neg slows]
    refine ⟨fun eq => by simp at eq, fun ⟨f, entry, active, slow, _⟩ => ?_⟩
    exact absurd ⟨getD_active_iff.2 ⟨f, entry, active⟩, slow⟩ slows

theorem reportFactor_of_same {s : State} (same : s.slowFactor = s.zu.ownFactor) : reportFactor s = s := if_pos same

theorem reportFactor_of_changed {s : State} (changed : s.slowFactor ≠ s.zu.ownFactor) :
    reportFactor s = recomposeRoll (broadcast (.pace s.slowFactor) { s with zu.ownFactor := s.slowFactor }) := if_neg changed

theorem reportFactor_zu (s : State) : (reportFactor s).zu = { s.zu with ownFactor := s.slowFactor } := by
  by_cases same : s.slowFactor = s.zu.ownFactor
  · rw [reportFactor_of_same same, same]
  · rw [reportFactor_of_changed same]
    simp

theorem reportFactor_ss (s : State) : (reportFactor s).ss = s.ss := by
  unfold reportFactor
  dsimp only
  split <;> simp

theorem reportFactor_onlyChanges (s : State) : OnlyChanges [.lif, .zu, .attention] s (reportFactor s) := by
  simp [onlyChanges_iff]

/-! ### A condition reported (R118, R120) -/

section
variable {c : Cause} {s : State}

theorem reportCondition_of_same (condition : Option Nat) : reportCondition c condition condition s = s := by
  cases condition with
  | none => simp [reportCondition]
  | some d => simp [reportCondition]

theorem reportCondition_of_raised {before : Option Nat} {d : Nat} (changed : before ≠ some d) :
    reportCondition c before (some d) s = raiseOwn c d s := if_neg changed

theorem reportCondition_of_ended {before : Option Nat} (stood : before ≠ none) :
    reportCondition c before none s = withdrawOwn c s := if_neg stood

theorem findClaim_removeClaim_self (l : List Claim) (o : Nat) (c : Cause) : findClaim (removeClaim l o c) o c = none :=
  (findClaim_none _ _ _).2 fun e he => by simpa using (List.mem_filter.1 he).2

theorem withdrawOwn_finds (c : Cause) (s : State) : findClaim (withdrawOwn c s).ss.claims s.cfg.station c = none := by
  rw [withdrawOwn_claims]
  exact findClaim_removeClaim_self _ _ _

theorem reportCondition_ended_finds {before : Option Nat} (stood : before ≠ none) :
    findClaim (reportCondition c before none s).ss.claims s.cfg.station c = none := by
  rw [reportCondition_of_ended stood]
  exact withdrawOwn_finds c s

theorem reportCondition_onlyChanges_of_ne (ne : c ≠ .estop) (before after : Option Nat) :
    OnlyChanges [.lif, .chans, .ss, .pu, .ts, .tpr, .attention] s (reportCondition c before after s) := by
  cases after with
  | none =>
    by_cases stood : before = none
    · rw [stood, reportCondition_of_same]
      simp [onlyChanges_iff]
    · rw [reportCondition_of_ended stood]
      exact (withdrawOwn_onlyChanges c s).mono (by simp)
  | some d =>
    by_cases same : before = some d
    · rw [same, reportCondition_of_same]
      simp [onlyChanges_iff]
    · rw [reportCondition_of_raised same]
      exact raiseOwn_onlyChanges_of_ne ne d s

end

theorem reportCondition_zu (c : Cause) (before after : Option Nat) (s : State) : (reportCondition c before after s).zu = s.zu := by
  unfold reportCondition
  split <;> split <;> simp

theorem reportCondition_cfg (c : Cause) (before after : Option Nat) (s : State) :
    (reportCondition c before after s).cfg = s.cfg := by
  unfold reportCondition
  split <;> split <;> simp

theorem raiseOwn_isOpen {s : State} (open_ : s.ss.safety.isOpen = true) (c : Cause) (d : Nat) :
    (raiseOwn c d s).ss.safety.isOpen = true := by
  have after (u : State) (openU : u.ss.safety.isOpen = true) : (afterOwnClaim c u).ss.safety.isOpen = true := by
    unfold afterOwnClaim
    split
    next =>
      unfold estopCut
      split
      next => simp [enterDisarmed_ss, Safety.isOpen]
      next => exact openU
    next => exact stopIfMoving_isOpen openU
  unfold raiseOwn
  repeat' split
  case isTrue => exact open_
  case h_1.isTrue => exact open_
  case h_1.isFalse => simpa using open_
  case h_2.isTrue => exact after _ (by simpa [addOwn_ss] using open_)
  case h_2.isFalse =>
    dsimp only
    split
    next => exact after _ (stopIfMoving_isOpen (s := overflowAdded c d s) (by simpa using open_))
    next => exact open_

end Sys2Proof.Machine
end

section
/-! The samples of the drive lines (R89, R90, R91), and the statement of the Zone Unit and the drive lines as a whole. -/

namespace Sys2Proof.Machine

open Sys2Proof

/-! ### Work with a count of the channels done -/

/-- Work on the channels in order, with a statement about how far it has come. -/
theorem foldl_range_rec {α : Type} {f : α → Nat → α} {motive : Nat → α → Prop} {n : Nat} {a : α} (start : motive 0 a)
    (round : ∀ k < n, ∀ u, motive k u → motive (k + 1) (f u k)) : motive n ((List.range n).foldl f a) := by
  induction n with
  | zero => exact start
  | succ n ih =>
    rw [List.range_succ, List.foldl_append]
    exact round n (Nat.lt_succ_self n) _ (ih fun k hk => round k (by omega))

/-! ### What a raising leaves of the channels in OFF -/

/-- Each channel stands in OFF in both states or in neither. -/
def SameOff (s t : State) : Prop := ∀ j < 4, (t.chans.get j).mode = .off ↔ (s.chans.get j).mode = .off

theorem SameOff.of_eq {s t : State} (same : t.chans = s.chans) : SameOff s t := fun j _ => by rw [same]

theorem SameOff.trans {s t u : State} (first : SameOff s t) (second : SameOff t u) : SameOff s u :=
  fun j hj => (second j hj).trans (first j hj)

theorem enterStopping_sameOff {s : State} (moving : s.ss.safety.canStop = true) (few : s.cfg.nChans ≤ 4) :
    SameOff s (enterStopping s) := by
  intro j hj
  obtain ⟨_, _, _, _, chans, _⟩ := enterStopping_enters s moving few
  rw [chans j hj]
  split
  next on => simp [stopChan, on.2.2.1]
  next => exact Iff.rfl

theorem stopIfMoving_sameOff {s : State} (few : s.cfg.nChans ≤ 4) : SameOff s (stopIfMoving s) := by
  cases moves : s.ss.safety.canStop with
  | true =>
    rw [stopIfMoving_of_canStop moves]
    exact enterStopping_sameOff moves few
  | false =>
    rw [stopIfMoving_of_not_canStop moves]
    exact .of_eq rfl

theorem raiseOwn_sameOff {c : Cause} (ne : c ≠ .estop) (d : Nat) {s : State} (few : s.cfg.nChans ≤ 4) :
    SameOff s (raiseOwn c d s) := by
  have after {u : State} (chans : u.chans = s.chans) (cfg : u.cfg = s.cfg) : SameOff s (afterOwnClaim c u) := by
    rw [afterOwnClaim_of_ne ne]
    exact (SameOff.of_eq chans).trans (stopIfMoving_sameOff (by rwa [cfg]))
  unfold raiseOwn
  repeat' split
  case isTrue => exact .of_eq rfl
  case h_1.isTrue => exact .of_eq rfl
  case h_1.isFalse => exact .of_eq (by simp)
  case h_2.isTrue => exact after (by simp) (by simp)
  case h_2.isFalse =>
    dsimp only
    split
    next =>
      have added : SameOff s (overflowAdded c d s) := .of_eq (by simp [overflowAdded, overflowed, trimmed])
      have cfg : (overflowAdded c d s).cfg = s.cfg := by simp [overflowAdded, overflowed, trimmed]
      have stops := added.trans (stopIfMoving_sameOff (s := overflowAdded c d s) (by rwa [cfg]))
      rw [afterOwnClaim_of_ne ne]
      refine stops.trans (stopIfMoving_sameOff ?_)
      simpa [cfg] using few
    next => exact .of_eq rfl

theorem raiseFiltered_sameOff {c : Cause} (ne : c ≠ .estop) (d : Nat) {s : State} (few : s.cfg.nChans ≤ 4) :
    SameOff s (raiseFiltered c d s) := by
  unfold raiseFiltered
  repeat' split
  · exact raiseOwn_sameOff ne d few
  · exact .of_eq rfl
  · exact raiseOwn_sameOff ne d few

theorem raiseFiltered_of_absent {c : Cause} {d : Nat} {s : State} (absent : findClaim s.ss.claims s.cfg.station c = none) :
    raiseFiltered c d s = raiseOwn c d s := by simp [raiseFiltered, absent]

theorem raiseFiltered_of_stronger {c : Cause} {d : Nat} {e : Claim} {s : State}
    (found : findClaim s.ss.claims s.cfg.station c = some e) (low : e.detail ≤ d) : raiseFiltered c d s = s := by
  simp [raiseFiltered, found, low]

theorem raiseFiltered_of_closed {s : State} (closed : s.ss.safety.isOpen = false) (c : Cause) (d : Nat) : raiseFiltered c d s = s := by
  unfold raiseFiltered
  repeat' split
  · exact raiseOwn_of_closed closed c d
  · rfl
  · exact raiseOwn_of_closed closed c d

theorem raiseFiltered_dlu {c : Cause} (ne : c ≠ .estop) (d : Nat) (s : State) : (raiseFiltered c d s).dlu = s.dlu := by
  unfold raiseFiltered
  repeat' split
  all_goals first | rfl | exact (raiseOwn_outputs ne).1

theorem raiseFiltered_onlyChanges {c : Cause} (ne : c ≠ .estop) (d : Nat) (s : State) :
    OnlyChanges [.lif, .chans, .ss, .pu, .ts, .tpr, .attention] s (raiseFiltered c d s) := by
  unfold raiseFiltered
  repeat' split
  · exact raiseOwn_onlyChanges_of_ne ne d s
  · simp [onlyChanges_iff]
  · exact raiseOwn_onlyChanges_of_ne ne d s

/-! ### The drive-fault lines (R89) -/

/-- A drive line after a sample of its fault line. -/
def faultLine (active : Bool) (l : DriveLine) : DriveLine :=
  if active = true ∧ l.enable = true then { offLine l with fault := true, faultOff := true } else { l with fault := active }

/-- The work of one sample, before the claim. -/
def sampledFault (active : Bool) (i : Nat) (s : State) : State :=
  if active = true ∧ (s.dlu.lines.get i).enable = true then
    modLine i (fun l => { l with faultOff := true }) (driveOff i (modLine i (fun l => { l with fault := active }) s))
  else modLine i (fun l => { l with fault := active }) s

theorem sampleFault_eq (active : Bool) {i : Nat} (hi : i < 4) (s : State) : sampleFault active i s =
    if active then raiseFiltered .drive i (sampledFault active i s) else sampledFault active i s := by
  have enable : ((modLine i (fun l => { l with fault := active }) s).dlu.lines.get i).enable = (s.dlu.lines.get i).enable := by
    rw [modLine_line _ _ _ hi, if_pos rfl]
  cases active with
  | true =>
    unfold sampleFault sampledFault
    simp only [enable, if_true, true_and]
  | false => rfl

theorem sampledFault_frame (active : Bool) (i : Nat) (s : State) :
    (sampledFault active i s).ss = s.ss ∧ (sampledFault active i s).cfg = s.cfg := by
  unfold sampledFault
  split <;> simp

theorem sampledFault_line (active : Bool) {i j : Nat} (hj : j < 4) (s : State) : (sampledFault active i s).dlu.lines.get j =
    if j = i then faultLine active (s.dlu.lines.get j) else s.dlu.lines.get j := by
  unfold sampledFault faultLine
  by_cases eq : j = i
  · subst eq
    rw [if_pos rfl]
    split
    next on =>
      rw [modLine_line _ _ _ hj, if_pos rfl, driveOff_line _ _ hj, if_pos rfl, modLine_line _ _ _ hj, if_pos rfl, on.1]
      rfl
    next => rw [modLine_line _ _ _ hj, if_pos rfl]
  · rw [if_neg eq]
    split
    next => rw [modLine_line _ _ _ hj, if_neg eq, driveOff_line _ _ hj, if_neg eq, modLine_line _ _ _ hj, if_neg eq]
    next => rw [modLine_line _ _ _ hj, if_neg eq]

/-- The channel whose drive the sample turns off stands in OFF, and every other channel as it stood. -/
theorem sampledFault_chan (active : Bool) {i j : Nat} (hi : i < 4) (hj : j < 4) (s : State) :
    (sampledFault active i s).chans.get j =
      if j = i ∧ active = true ∧ (s.dlu.lines.get i).enable = true ∧ (s.chans.get j).mode ≠ .off then offChan (s.chans.get j)
      else s.chans.get j := by
  unfold sampledFault
  split
  next on =>
    rw [(modLine_frame _ _ _).2.2.2.1, (driveOff_chan i j _ hi hj).2.1]
    simp [on]
  next not =>
    rw [(modLine_frame _ _ _).2.2.2.1, if_neg]
    rintro ⟨_, active, on, _⟩
    exact not ⟨active, on⟩

theorem sampledFault_onlyChanges (active : Bool) (i : Nat) (s : State) :
    OnlyChanges [.chans, .spl, .dlu] s (sampledFault active i s) := by
  unfold sampledFault
  split <;> simp [onlyChanges_iff]

/-- What the samples of the fault lines do to a channel. -/
structure FaultView where
  line : DriveLine
  off : Bool

def State.faultView (s : State) (i : Nat) : FaultView :=
  { line := s.dlu.lines.get i, off := decide ((s.chans.get i).mode = .off) }

theorem faultView_of_raised {s : State} (few : s.cfg.nChans ≤ 4) (d : Nat) {j : Nat} (hj : j < 4) :
    (raiseFiltered .drive d s).faultView j = s.faultView j := by
  have off := raiseFiltered_sameOff (c := .drive) (by decide) d few j hj
  simp only [State.faultView, raiseFiltered_dlu (c := .drive) (by decide), off]

theorem sampleFault_view {active : Bool} {i j : Nat} (hi : i < 4) (hj : j < 4) {s : State} (few : s.cfg.nChans ≤ 4) :
    (sampleFault active i s).faultView j = (sampledFault active i s).faultView j := by
  rw [sampleFault_eq active hi]
  split
  next => exact faultView_of_raised (by rw [(sampledFault_frame active i s).2]; exact few) i hj
  next => rfl

theorem sampleFaults_of_sampled {l : LineLevels} {s : State} (notLoading : s.ss.safety ≠ .loading)
    (notFaulted : s.ss.safety ≠ .faulted) :
    sampleFaults l s = s.channels.foldl (fun s i => sampleFault (l.fault.getLsbD i) i s) s := by
  unfold sampleFaults
  split <;> simp_all

theorem sampleFaults_view {l : LineLevels} {s : State} (notLoading : s.ss.safety ≠ .loading)
    (notFaulted : s.ss.safety ≠ .faulted) (few : s.cfg.nChans ≤ 4) {i : Nat} (hi : i < s.cfg.nChans) :
    (sampleFaults l s).dlu.lines.get i = faultLine (l.fault.getLsbD i) (s.dlu.lines.get i) ∧
    (l.fault.getLsbD i = true → (s.dlu.lines.get i).enable = true → ((sampleFaults l s).chans.get i).mode = .off) := by
  rw [sampleFaults_of_sampled notLoading notFaulted]
  have fold := (foldl_channels (f := fun u i => sampleFault (l.fault.getLsbD i) i u) (side := fun u => u.cfg = s.cfg)
    (view := State.faultView)
    (change := fun i v w => w.line = faultLine (l.fault.getLsbD i) v.line ∧
      (l.fault.getLsbD i = true → v.line.enable = true → w.off = true)) few
    (fun u k _ same => by simp [same]) (fun u k hk same => ?own) (fun u k hk j hj ne same => ?other) rfl).1 i hi
  · exact ⟨fold.1, fun active on => of_decide_eq_true (fold.2 active on)⟩
  case own =>
    rw [sampleFault_view (by omega) (by omega) (by rw [same]; exact few)]
    refine ⟨(sampledFault_line _ (by omega) u).trans (if_pos rfl), fun active on => decide_eq_true ?_⟩
    have on' : (u.dlu.lines.get k).enable = true := on
    rw [sampledFault_chan _ (by omega) (by omega)]
    by_cases there : (u.chans.get k).mode = .off
    · simp [there]
    · simp [active, on', there, offChan]
  case other =>
    rw [sampleFault_view (by omega) hj (by rw [same]; exact few)]
    simp only [State.faultView, sampledFault_line _ hj, sampledFault_chan _ (show k < 4 by omega) hj, ne, false_and, if_false]

/-- The lowest active fault line of a channel is the detail of DRIVE. -/
theorem sampleFaults_drive {l : LineLevels} {s : State} (open_ : s.ss.safety.isOpen = true) (few : s.cfg.nChans ≤ 4) {i : Nat}
    (hi : i < s.cfg.nChans) (active : l.fault.getLsbD i = true) (lowest : ∀ k < i, l.fault.getLsbD k = false)
    (absent : findClaim s.ss.claims s.cfg.station .drive = none) (room : s.ss.claims.length < 32) :
    findClaim (sampleFaults l s).ss.claims s.cfg.station .drive =
        some { origin := s.cfg.station, cause := .drive, detail := i, latched := true } ∧
      (s.ss.safety.canStop = true → (sampleFaults l s).ss.safety = .stopping) := by
  have sampled : sampleFaults l s = _ := sampleFaults_of_sampled
    (fun loading => by simp [loading, Safety.isOpen] at open_) (fun faulted => by simp [faulted, Safety.isOpen] at open_)
  rw [sampled]
  have fold := foldl_range_rec (f := fun u k => sampleFault (l.fault.getLsbD k) k u) (n := s.cfg.nChans) (a := s)
    (motive := fun k u => u.cfg = s.cfg ∧ (k ≤ i → u.ss = s.ss) ∧ (i < k →
      findClaim u.ss.claims s.cfg.station .drive =
        some { origin := s.cfg.station, cause := .drive, detail := i, latched := true } ∧
      (s.ss.safety.canStop = true → u.ss.safety = .stopping)))
    ⟨rfl, fun _ => rfl, fun no => absurd no (Nat.not_lt_zero _)⟩ fun k hk u ⟨cfg, before, after⟩ => ?round
  · exact fold.2.2 hi
  case round =>
    refine ⟨by simp [cfg], fun below => ?below, fun reached => ?reached⟩
    case below =>
      rw [lowest k (by omega), sampleFault_eq false (by omega), if_neg Bool.false_ne_true, (sampledFault_frame false k u).1,
        before (by omega)]
    case reached =>
      obtain ⟨ss, cfg'⟩ := sampledFault_frame (l.fault.getLsbD k) k u
      rw [sampleFault_eq _ (by omega)]
      rcases Nat.lt_or_eq_of_le (Nat.le_of_lt_succ reached) with later | rfl
      · obtain ⟨found, stops⟩ := after later
        have kept : raiseFiltered .drive k (sampledFault (l.fault.getLsbD k) k u) = sampledFault (l.fault.getLsbD k) k u :=
          raiseFiltered_of_stronger (e := { origin := s.cfg.station, cause := .drive, detail := i, latched := true })
            (by rw [ss, cfg', cfg, found]) (by exact later.le)
        rw [kept, ite_self, ss]
        exact ⟨found, stops⟩
      · have same : (sampledFault (l.fault.getLsbD i) i u).ss = s.ss := ss.trans (before le_rfl)
        have station : (sampledFault (l.fault.getLsbD i) i u).cfg = s.cfg := cfg'.trans cfg
        have absent' : findClaim (sampledFault (l.fault.getLsbD i) i u).ss.claims
            (sampledFault (l.fault.getLsbD i) i u).cfg.station .drive = none := by rw [same, station, absent]
        rw [if_pos active, raiseFiltered_of_absent absent']
        refine ⟨?_, fun moving => raiseOwn_room_stops (by decide) (by rw [same, moving]) absent' (by rw [same]; exact room)⟩
        have finds := raiseOwn_room_finds (d := i) (by rw [same]; exact open_) absent' (by rw [same]; exact room)
        rw [station] at finds
        exact finds

theorem sampleFaults_eq (l : LineLevels) (s : State) :
    sampleFaults l s = s ∨ sampleFaults l s = s.channels.foldl (fun s i => sampleFault (l.fault.getLsbD i) i s) s := by
  unfold sampleFaults
  split
  · exact .inl rfl
  · exact .inl rfl
  · exact .inr rfl

theorem sampleFault_onlyChanges (active : Bool) {i : Nat} (hi : i < 4) (s : State) :
    OnlyChanges [.lif, .chans, .spl, .dlu, .ss, .pu, .ts, .tpr, .attention] s (sampleFault active i s) := by
  have sampled := (sampledFault_onlyChanges active i s).mono (cs := [.lif, .chans, .spl, .dlu, .ss, .pu, .ts, .tpr, .attention]) (by simp)
  rw [sampleFault_eq active hi]
  split
  next => exact sampled.trans ((raiseFiltered_onlyChanges (by decide) _ _).mono (by simp))
  next => exact sampled

theorem sampleFaults_onlyChanges (l : LineLevels) {s : State} (few : s.cfg.nChans ≤ 4) :
    OnlyChanges [.lif, .chans, .spl, .dlu, .ss, .pu, .ts, .tpr, .attention] s (sampleFaults l s) := by
  have same : OnlyChanges [.lif, .chans, .spl, .dlu, .ss, .pu, .ts, .tpr, .attention] s s := fun b _ => by cases b <;> rfl
  rcases sampleFaults_eq l s with still | sampled
  · rwa [still]
  · rw [sampled]
    exact foldl_range_rec (motive := fun _ u => OnlyChanges _ s u) same fun k hk u only =>
      only.trans (sampleFault_onlyChanges _ (by omega) u)

/-- Without a fault, and outside the five open states, a sample raises nothing. -/
theorem sampleFaults_quiet {l : LineLevels} {s : State} {bs : List Block}
    (quiet : ∀ k < s.cfg.nChans, ∀ u, u.ss = s.ss → OnlyChanges bs u (sampleFault (l.fault.getLsbD k) k u) ∧
      (sampleFault (l.fault.getLsbD k) k u).ss = u.ss) : OnlyChanges bs s (sampleFaults l s) := by
  have same : OnlyChanges bs s s := fun b _ => by cases b <;> rfl
  rcases sampleFaults_eq l s with still | sampled
  · rwa [still]
  · rw [sampled]
    refine (foldl_range_rec (motive := fun _ u => u.ss = s.ss ∧ OnlyChanges bs s u) ⟨rfl, same⟩ fun k hk u ⟨ss, only⟩ => ?_).2
    obtain ⟨changes, kept⟩ := quiet k hk u ss
    exact ⟨kept.trans ss, only.trans changes⟩

theorem sampleFaults_onlyChanges_of_inactive {l : LineLevels} {s : State}
    (inactive : ∀ i < s.cfg.nChans, l.fault.getLsbD i = false) : OnlyChanges [.dlu] s (sampleFaults l s) := by
  refine sampleFaults_quiet fun k hk u _ => ?_
  rw [inactive k hk]
  exact ⟨by simp [onlyChanges_iff, sampleFault], rfl⟩

theorem sampleFaults_onlyChanges_of_closed {l : LineLevels} {s : State} (few : s.cfg.nChans ≤ 4)
    (closed : s.ss.safety.isOpen = false) : OnlyChanges [.chans, .spl, .dlu] s (sampleFaults l s) := by
  refine sampleFaults_quiet fun k hk u ss => ?_
  have same := (sampledFault_frame (l.fault.getLsbD k) k u).1
  rw [sampleFault_eq _ (by omega), raiseFiltered_of_closed (by rw [same, ss, closed]), ite_self]
  exact ⟨sampledFault_onlyChanges _ _ _, same⟩

/-! ### The limit lines (R90, R91) -/

theorem LimitLine.sample_same (l : LimitLine) : l.sample l.active = { l with run := 0 } := if_pos rfl

theorem LimitLine.sample_turns {l : LimitLine} {a : Bool} (other : l.active ≠ a) (second : 1 ≤ l.run) :
    l.sample a = { active := a, run := 0 } := (if_neg other.symm).trans (if_pos second)

theorem LimitLine.sample_first {l : LimitLine} {a : Bool} (other : l.active ≠ a) (first : l.run = 0) :
    l.sample a = { l with run := 1 } := (if_neg other.symm).trans ((if_neg (by simp [first])).trans (by rw [first]))

theorem sampleLow_of_present {a : Bool} {i : Nat} (hi : i < 4) {s : State} (has : (s.cfg.chan.get i).lowLimit = true) :
    sampleLow a i s =
      if ((s.dlu.lines.get i).low.sample a).active = true ∧ (s.dlu.lines.get i).low.active = false ∧
          ((s.dlu.lines.get i).lowHeld && a) = false then raiseFiltered .limit (2 * i) (modLine i (DriveLine.sampleLow a) s)
      else modLine i (DriveLine.sampleLow a) s := by
  unfold sampleLow
  rw [if_pos has]
  simp only [modLine_line _ _ _ hi, if_pos, DriveLine.sampleLow]
  cases (s.dlu.lines.get i).lowHeld <;> simp [and_assoc]

theorem sampleHigh_of_present {a : Bool} {i : Nat} (hi : i < 4) {s : State} (has : (s.cfg.chan.get i).highLimit = true) :
    sampleHigh a i s =
      if ((s.dlu.lines.get i).high.sample a).active = true ∧ (s.dlu.lines.get i).high.active = false ∧
          ((s.dlu.lines.get i).highHeld && a) = false then raiseFiltered .limit (2 * i + 1) (modLine i (DriveLine.sampleHigh a) s)
      else modLine i (DriveLine.sampleHigh a) s := by
  unfold sampleHigh
  rw [if_pos has]
  simp only [modLine_line _ _ _ hi, if_pos, DriveLine.sampleHigh]
  cases (s.dlu.lines.get i).highHeld <;> simp [and_assoc]

/-- A line becomes active at an active sample. -/
theorem LimitLine.active_of_turned {l : LimitLine} {a : Bool} (was : l.active = false) (turned : (l.sample a).active = true) :
    a = true := by
  cases a with
  | true => rfl
  | false =>
    rw [show false = l.active from was.symm, LimitLine.sample_same] at turned
    exact absurd turned (by simp [was])

/-! ### A velocity toward an active limit line (R91) -/

/-- The channel does not move toward an active limit line. -/
def State.clearOfLimits (s : State) (k : Nat) : Prop :=
  ((s.dlu.lines.get k).low.active = true → 0 ≤ (s.chans.get k).v) ∧
    ((s.dlu.lines.get k).high.active = true → (s.chans.get k).v ≤ 0)

/-- One round of the check. -/
def raiseLimit (s : State) (i : Nat) : State :=
  let l := s.dlu.lines.get i
  let v := (s.chans.get i).v
  let s := if l.low.active ∧ v < 0 then raiseFiltered .limit (2 * i) s else s
  if l.high.active ∧ 0 < v then raiseFiltered .limit (2 * i + 1) s else s

theorem raiseLimits_eq (s : State) : raiseLimits s = (List.range s.cfg.nChans).foldl raiseLimit s := rfl

theorem raiseLimit_of_clear {s : State} {k : Nat} (clear : s.clearOfLimits k) : raiseLimit s k = s := by
  obtain ⟨low, high⟩ := clear
  unfold raiseLimit
  have down : ¬ ((s.dlu.lines.get k).low.active = true ∧ (s.chans.get k).v < 0) := fun both => not_le.2 both.2 (low both.1)
  have up : ¬ ((s.dlu.lines.get k).high.active = true ∧ 0 < (s.chans.get k).v) := fun both => not_le.2 both.2 (high both.1)
  simp only [if_neg down, if_neg up]

theorem raiseLimit_of_toward {s : State} {i d : Nat}
    (toward : (s.dlu.lines.get i).low.active = true ∧ (s.chans.get i).v < 0 ∧ d = 2 * i ∨
      (s.dlu.lines.get i).high.active = true ∧ 0 < (s.chans.get i).v ∧ d = 2 * i + 1) :
    raiseLimit s i = raiseFiltered .limit d s := by
  unfold raiseLimit
  rcases toward with ⟨active, down, rfl⟩ | ⟨active, up, rfl⟩
  · have notUp : ¬ ((s.dlu.lines.get i).high.active = true ∧ 0 < (s.chans.get i).v) := fun both => not_lt.2 down.le both.2
    simp only [if_pos (And.intro active down), if_neg notUp]
  · have notDown : ¬ ((s.dlu.lines.get i).low.active = true ∧ (s.chans.get i).v < 0) := fun both => not_lt.2 up.le both.2
    simp only [if_neg notDown, if_pos (And.intro active up)]

theorem raiseLimit_of_raised {s : State} {e : Claim} (found : findClaim s.ss.claims s.cfg.station .limit = some e) {k : Nat}
    (low : e.detail ≤ 2 * k) : raiseLimit s k = s := by
  unfold raiseLimit
  simp only [raiseFiltered_of_stronger found low, raiseFiltered_of_stronger found (low.trans (Nat.le_succ _)), ite_self]

theorem raiseLimits_of_clear {s : State} (clear : ∀ i < s.cfg.nChans, s.clearOfLimits i) : raiseLimits s = s := by
  rw [raiseLimits_eq]
  refine foldl_range_rec (motive := fun _ u => u = s) rfl fun k hk u same => ?_
  rw [same, raiseLimit_of_clear (clear k hk)]

theorem raiseLimits_of_lowest {s : State} {i d : Nat} (open_ : s.ss.safety.isOpen = true) (hi : i < s.cfg.nChans)
    (toward : (s.dlu.lines.get i).low.active = true ∧ (s.chans.get i).v < 0 ∧ d = 2 * i ∨
      (s.dlu.lines.get i).high.active = true ∧ 0 < (s.chans.get i).v ∧ d = 2 * i + 1)
    (lowest : ∀ k < i, s.clearOfLimits k) (absent : findClaim s.ss.claims s.cfg.station .limit = none)
    (room : s.ss.claims.length < 32) : raiseLimits s = raiseOwn .limit d s := by
  have finds := raiseOwn_room_finds (d := d) open_ absent room
  have detail : d ≤ 2 * i + 1 := by omega
  rw [raiseLimits_eq]
  refine (foldl_range_rec (motive := fun k u => (k ≤ i → u = s) ∧ (i < k → u = raiseOwn .limit d s))
    ⟨fun _ => rfl, fun no => absurd no (Nat.not_lt_zero _)⟩ fun k hk u ⟨before, after⟩ => ⟨fun below => ?below, fun reached => ?reached⟩).2 hi
  case below => rw [before (by omega), raiseLimit_of_clear (lowest k (by omega))]
  case reached =>
    rcases Nat.lt_or_eq_of_le (Nat.le_of_lt_succ reached) with later | rfl
    · rw [after later]
      refine raiseLimit_of_raised (e := { origin := s.cfg.station, cause := .limit, detail := d, latched := true }) ?_ ?_
      · simpa [Cause.isLatched] using finds
      · change d ≤ 2 * k
        omega
    · rw [before le_rfl, raiseLimit_of_toward toward, raiseFiltered_of_absent absent]

end Sys2Proof.Machine
end

section
/-! The Zone Unit and the drive lines: the statement of R88 to R91 and R116 to R120 as a whole. -/

namespace Sys2Proof.Machine

open Sys2Proof

/-! ### A change of the filters (R118, R119, R120) -/

/-- The node with the filters of its zone lines replaced. -/
def withZones (l : List LineFilter) (s : State) : State := { s with zu.lines := l }

/-- The node with the filters of its E-stop inputs replaced. -/
def withEstop (l : List LineFilter) (s : State) : State := { s with zu.estop := l }

section
variable (g : State → List LineFilter) (s : State)

theorem changeZones_eq : changeZones g s = reportFactor
    (reportCondition .zone s.zoneCondition (withZones (g s) s).zoneCondition (withZones (g s) s)) := rfl

theorem changeEstop_eq : changeEstop g s =
    reportCondition .estop s.estopCondition (withEstop (g s) s).estopCondition (withEstop (g s) s) := rfl

theorem zoneCondition_congr {s t : State} (lines : t.zu.lines = s.zu.lines) (cfg : t.cfg = s.cfg) :
    t.zoneCondition = s.zoneCondition := by
  unfold State.zoneCondition
  rw [lines, cfg]

theorem estopCondition_congr {s t : State} (estop : t.zu.estop = s.zu.estop) : t.estopCondition = s.estopCondition := by
  unfold State.estopCondition
  rw [estop]

theorem slowFactor_congr {s t : State} (lines : t.zu.lines = s.zu.lines) (cfg : t.cfg = s.cfg) : t.slowFactor = s.slowFactor := by
  unfold State.slowFactor
  rw [lines, cfg]

theorem changeZones_lines : (changeZones g s).zu.lines = g s := by
  rw [changeZones_eq, reportFactor_zu, reportCondition_zu]
  rfl

theorem changeZones_estop : (changeZones g s).zu.estop = s.zu.estop := by
  rw [changeZones_eq, reportFactor_zu, reportCondition_zu]
  rfl

theorem changeZones_ownFactor : (changeZones g s).zu.ownFactor = (changeZones g s).slowFactor := by
  rw [changeZones_eq, reportFactor_zu]
  refine (slowFactor_congr ?_ ?_).symm
  · rw [reportFactor_zu]
  · simp

theorem changeZones_zoneCondition : (changeZones g s).zoneCondition = (withZones (g s) s).zoneCondition :=
  zoneCondition_congr (changeZones_lines g s) (by simp [withZones])

theorem changeZones_finds (stood : s.zoneCondition ≠ none) (ends : (withZones (g s) s).zoneCondition = none) :
    findClaim (changeZones g s).ss.claims s.cfg.station .zone = none := by
  rw [changeZones_eq, reportFactor_ss, ends]
  exact reportCondition_ended_finds (s := withZones (g s) s) stood

theorem changeZones_onlyChanges : OnlyChanges [.lif, .chans, .ss, .pu, .zu, .ts, .tpr, .attention] s (changeZones g s) := by
  have filters : OnlyChanges [.zu] s (withZones (g s) s) := by simp [onlyChanges_iff, withZones]
  rw [changeZones_eq]
  exact ((filters.mono (by simp)).trans ((reportCondition_onlyChanges_of_ne (by decide) _ _).mono (by simp))).trans
    ((reportFactor_onlyChanges _).mono (by simp))

theorem changeEstop_zu : (changeEstop g s).zu = { s.zu with estop := g s } := by
  rw [changeEstop_eq, reportCondition_zu]
  rfl

theorem changeEstop_estopCondition : (changeEstop g s).estopCondition = (withEstop (g s) s).estopCondition :=
  estopCondition_congr (by rw [changeEstop_zu]; rfl)

theorem changeEstop_finds (stood : s.estopCondition ≠ none) (ends : (withEstop (g s) s).estopCondition = none) :
    findClaim (changeEstop g s).ss.claims s.cfg.station .estop = none := by
  rw [changeEstop_eq, ends]
  exact reportCondition_ended_finds (s := withEstop (g s) s) stood

theorem reportCondition_onlyChanges (c : Cause) (before after : Option Nat) :
    OnlyChanges [.lif, .chans, .spl, .dlu, .ss, .pu, .ts, .tpr, .attention] s (reportCondition c before after s) := by
  unfold reportCondition
  split <;> split <;> simp [onlyChanges_iff]

theorem changeEstop_onlyChanges :
    OnlyChanges [.lif, .chans, .spl, .dlu, .ss, .pu, .zu, .ts, .tpr, .attention] s (changeEstop g s) := by
  have filters : OnlyChanges [.zu] s (withEstop (g s) s) := by simp [onlyChanges_iff, withEstop]
  rw [changeEstop_eq]
  exact (filters.mono (by simp)).trans ((reportCondition_onlyChanges _ _ _ _).mono (by simp))

theorem changeEstop_isOpen (open_ : s.ss.safety.isOpen = true) : (changeEstop g s).ss.safety.isOpen = true := by
  rw [changeEstop_eq]
  unfold reportCondition
  split <;> split
  · exact open_
  · exact raiseOwn_isOpen (s := withEstop (g s) s) open_ _ _
  · exact open_
  · rw [withdrawOwn_ss]
    exact open_

end

/-- An entry that a raising finds or makes room for. -/
theorem changeZones_raises {g : State → List LineFilter} {s : State} {d : Nat}
    (now : (withZones (g s) s).zoneCondition = some d) (before : s.zoneCondition ≠ some d) :
    changeZones g s = reportFactor (raiseOwn .zone d (withZones (g s) s)) := by
  rw [changeZones_eq, now, reportCondition_of_raised before]

theorem changeEstop_raises {g : State → List LineFilter} {s : State} {d : Nat}
    (now : (withEstop (g s) s).estopCondition = some d) (before : s.estopCondition ≠ some d) :
    changeEstop g s = raiseOwn .estop d (withEstop (g s) s) := by
  rw [changeEstop_eq, now, reportCondition_of_raised before]

theorem clearZones_eq (s : State) : clearZones s = changeZones (fun s => s.zu.lines.map fun f =>
    if f.active = true ∧ s.cfg.zoneClearTime ≤ f.clear then { f with active := false, run := 0 } else f) s := rfl

/-- Settles O12: the filters, the two conditions with the factor, the changes, the fault lines and the limit lines. -/
theorem zoneAndEstopLinesClear : Obligations.ZoneAndEstopLinesClear := by
  refine ⟨fun s open_ => ⟨clearZones s, whenOpen_eq open_ clearZones, ?zoneClear⟩,
    fun s open_ => ⟨clearEstop s, whenOpen_eq open_ clearEstop, ?estopClear⟩,
    fun f inactive => ?inactive, fun n f => ?count, fun s w open_ counted => ?tick, fun f active => ?active,
    fun a l => ⟨l.sample_same, LimitLine.sample_turns, LimitLine.sample_first⟩,
    fun s d => ⟨zoneCondition_iff s d, estopCondition_iff s d⟩, fun s => ?factor,
    fun l s => ⟨rfl, rfl, fun open_ => whenOpen_eq open_ clearZones⟩, fun g s w filters => ?zones, fun g s w filters => ?estop,
    fun l s notLoading notFaulted few => ⟨fun i hi => ?fault, sampleFaults_onlyChanges_of_inactive,
      sampleFaults_onlyChanges_of_closed few, sampleFaults_onlyChanges l few⟩,
    fun a i s hi => ⟨fun no => if_neg (by simp [no]), fun no => if_neg (by simp [no]), fun has => ⟨_, rfl, ?low⟩,
      fun has => ⟨_, rfl, ?high⟩⟩,
    fun s clear => raiseLimits_of_clear clear, fun s i d open_ few hi toward lowest absent room => ?limits⟩
  case zoneClear =>
    refine ⟨changeZones_lines _ s, changeZones_ownFactor _ s, fun stood ends => ?_, changeZones_estop _ s, changeZones_onlyChanges _ s⟩
    rw [clearZones, changeZones_zoneCondition] at ends
    exact changeZones_finds _ s stood ends
  case estopClear =>
    have zu : (clearEstop s).zu = _ := changeEstop_zu _ s
    refine ⟨by rw [zu]; rfl, fun stood ends => ?_, by rw [zu], by rw [zu], changeEstop_onlyChanges _ s⟩
    rw [clearEstop, changeEstop_estopCondition] at ends
    exact changeEstop_finds _ s stood ends
  case inactive =>
    refine ⟨fun first => ?_, fun second => ?_, ?_⟩
    · rw [LineFilter.sample_of_inactive inactive, if_pos rfl, if_neg (by omega), first]
    · rw [LineFilter.sample_of_inactive inactive, if_pos rfl, if_pos second]
    · rw [LineFilter.sample_of_inactive inactive]
      rfl
  case count =>
    refine ⟨fun inactive => LineFilter.count_of_inactive inactive n, fun active seen => ?_, fun active unseen => ?_⟩
    · rw [LineFilter.count_of_active active, seen]
      rfl
    · rw [LineFilter.count_of_active active, unseen]
      rfl
  case tick =>
    have openW : w.ss.safety.isOpen = true := by rw [counted]; exact open_
    have ticks : zoneFrameTick s = clearZones (clearEstop w) := by rw [counted]; rfl
    rw [ticks]
    exact ⟨clearEstop w, whenOpen_eq openW clearEstop, whenOpen_eq (changeEstop_isOpen _ w openW) clearZones⟩
  case active => exact ⟨f.sample_of_active active true, f.sample_of_active active false⟩
  case factor =>
    refine ⟨?_, fun n hn f entry active slow => ?_, ?_, reportFactor_of_same, reportFactor_of_changed⟩
    · exact foldl_min_le _ _
    · exact foldl_min_le_of_mem ((mem_slowFactors s _).2 ⟨n, hn, f, entry, active, slow, rfl⟩) 16
    · exact (foldl_min_mem s.slowFactors 16).imp_right (mem_slowFactors s _).1
  case zones =>
    obtain rfl : w = withZones (g s) s := filters
    refine ⟨fun same => ?_, fun d now before => ⟨changeZones_raises now before, fun open_ taken => ?_⟩, fun ends stood => ⟨?_, ?_⟩⟩
    · rw [changeZones_eq, same, reportCondition_of_same]
    · rw [changeZones_raises now before, reportFactor_ss]
      refine ⟨raiseOwn_finds (s := withZones (g s) s) open_ taken, fun absent moving => ?_⟩
      exact raiseOwn_room_stops (s := withZones (g s) s) (by decide) moving absent (taken.resolve_left fun stands => stands absent)
    · rw [changeZones_eq, ends, reportCondition_of_ended stood]
    · exact changeZones_finds g s stood ends
  case estop =>
    obtain rfl : w = withEstop (g s) s := filters
    refine ⟨fun same => ?_, fun d now before => ⟨changeEstop_raises now before, fun open_ taken => ?_⟩, fun ends stood => ⟨?_, ?_⟩⟩
    · rw [changeEstop_eq, same, reportCondition_of_same]
    · rw [changeEstop_raises now before]
      refine ⟨raiseOwn_finds (s := withEstop (g s) s) open_ taken, fun absent driven => ?_⟩
      exact raiseOwn_room_cuts (s := withEstop (g s) s) driven absent (taken.resolve_left fun stands => stands absent)
    · rw [changeEstop_eq, ends, reportCondition_of_ended stood]
    · exact changeEstop_finds g s stood ends
  case fault =>
    obtain ⟨line, off⟩ := sampleFaults_view (l := l) notLoading notFaulted few hi
    rw [line]
    refine ⟨?_, fun inactive => ?_, fun active on => ?_, fun active still => ?_, fun active lowest open_ absent room =>
      sampleFaults_drive open_ few hi active lowest absent room⟩
    · unfold faultLine
      split
      next on => rw [on.1]
      next => rfl
    · simp [faultLine, inactive]
    · rw [faultLine, if_pos ⟨active, on⟩]
      exact ⟨rfl, rfl, rfl, off active on⟩
    · simp [faultLine, active, still]
  case low =>
    rw [sampleLow_of_present hi has]
    refine ⟨fun was now held => if_pos ⟨now, was, by simp [held]⟩, fun either => if_neg ?_⟩
    rintro ⟨now, was, held⟩
    have a' : a = true := LimitLine.active_of_turned was now
    rcases either with standing | not | held'
    · simp [was] at standing
    · simp [now] at not
    · simp [held', a'] at held
  case high =>
    rw [sampleHigh_of_present hi has]
    refine ⟨fun was now held => if_pos ⟨now, was, by simp [held]⟩, fun either => if_neg ?_⟩
    rintro ⟨now, was, held⟩
    have a' : a = true := LimitLine.active_of_turned was now
    rcases either with standing | not | held'
    · simp [was] at standing
    · simp [now] at not
    · simp [held', a'] at held
  case limits =>
    have raised := raiseLimits_of_lowest open_ hi toward lowest absent room
    rw [raised]
    exact ⟨rfl, raiseOwn_room_finds open_ absent room, fun moving => raiseOwn_room_stops (by decide) moving absent room⟩

end Sys2Proof.Machine
end

section
/-! The sensor line: POLL responses, the following-error check and the servo tick's rounds (R77 to R79, R81, R84, R86, R87). -/

namespace Sys2Proof.Machine

open Sys2Proof

/-! ### What a raising keeps -/

theorem attentionHas_recomposeRoll {s : State} {a : Attention} (present : attentionHas s.attention a = true) :
    attentionHas (recomposeRoll s).attention a = true := by
  unfold recomposeRoll
  split
  next => exact attentionHas_place present _
  next => exact present

theorem attentionHas_addOwn {s : State} {a : Attention} (present : attentionHas s.attention a = true) (c : Cause) (d : Nat) :
    attentionHas (addOwn c d s).attention a = true := by
  refine attentionHas_recomposeRoll (attentionHas_place ?_ _)
  exact present

theorem attentionHas_stopIfMoving {s : State} {a : Attention} (present : attentionHas s.attention a = true) :
    attentionHas (stopIfMoving s).attention a = true := by
  unfold stopIfMoving
  split
  next => exact attentionHas_enterStopping present
  next => exact present

theorem attentionHas_afterOwnClaim {s : State} {a : Attention} (open_ : s.ss.safety.isOpen = true)
    (present : attentionHas s.attention a = true) (c : Cause) : attentionHas (afterOwnClaim c s).attention a = true := by
  unfold afterOwnClaim
  split
  next => exact attentionHas_estopCut open_ present
  next => exact attentionHas_stopIfMoving present

theorem attentionHas_raiseOwn {s : State} {a : Attention} (present : attentionHas s.attention a = true) (c : Cause) (d : Nat) :
    attentionHas (raiseOwn c d s).attention a = true := by
  cases open_ : s.ss.safety.isOpen with
  | false => rwa [raiseOwn_of_closed open_]
  | true =>
    unfold raiseOwn
    repeat' split
    case isTrue => exact present
    case h_1.isTrue => exact present
    case h_1.isFalse =>
      refine attentionHas_recomposeRoll (attentionHas_place ?_ _)
      exact present
    case h_2.isTrue =>
      exact attentionHas_afterOwnClaim (by simpa [addOwn_ss] using open_) (attentionHas_addOwn present c d) c
    case h_2.isFalse =>
      dsimp only
      split
      next =>
        have added : attentionHas (overflowAdded c d s).attention a = true :=
          attentionHas_attentionRaise (attentionHas_addOwn (s := trimmed s) present c d) _
        exact attentionHas_afterOwnClaim (stopIfMoving_isOpen (s := overflowAdded c d s) (by simpa using open_))
          (attentionHas_stopIfMoving added) c
      next => exact present

theorem attentionHas_raiseFiltered {s : State} {a : Attention} (present : attentionHas s.attention a = true) (c : Cause) (d : Nat) :
    attentionHas (raiseFiltered c d s).attention a = true := by
  unfold raiseFiltered
  repeat' split
  · exact attentionHas_raiseOwn present c d
  · exact present
  · exact attentionHas_raiseOwn present c d

theorem raiseFiltered_spl {c : Cause} (ne : c ≠ .estop) (d : Nat) (s : State) : (raiseFiltered c d s).spl = s.spl := by
  unfold raiseFiltered
  repeat' split
  · exact (raiseOwn_outputs ne).2
  · rfl
  · exact (raiseOwn_outputs ne).2

theorem raiseFiltered_isOpen {s : State} (open_ : s.ss.safety.isOpen = true) (c : Cause) (d : Nat) :
    (raiseFiltered c d s).ss.safety.isOpen = true := by
  unfold raiseFiltered
  repeat' split
  · exact raiseOwn_isOpen open_ c d
  · exact open_
  · exact raiseOwn_isOpen open_ c d

/-- No raising takes a node into PARKED. -/
theorem raiseFiltered_not_parked {s : State} (not : s.ss.safety ≠ .parked) (c : Cause) (d : Nat) :
    (raiseFiltered c d s).ss.safety ≠ .parked := by
  cases open_ : s.ss.safety.isOpen with
  | false => rwa [raiseFiltered_of_closed open_]
  | true =>
    have after := raiseFiltered_isOpen open_ c d
    intro parked
    rw [parked] at after
    cases after

/-! ### Readings -/

theorem quad_set_self {α : Type} (q : Quad α) {i : Nat} (hi : i < 4) : q.set i (q.get i) = q := by
  rcases i with _ | _ | _ | _ | i
  · rfl
  · rfl
  · rfl
  · rfl
  · omega

theorem modReading_reading (i : Nat) (f : Reading → Reading) (s : State) {j : Nat} (hj : j < 4) :
    (modReading i f s).spl.readings.get j = if j = i then f (s.spl.readings.get j) else s.spl.readings.get j := by
  simp only [modReading, quad_get_set_of_lt _ _ _ hj]
  split
  next eq => rw [eq]
  next => rfl

/-! ### The following-error check (R86, R87) -/

/-- The FERR COUNT of channel `i` checked. -/
def followed (i : Nat) (s : State) : State := modReading i (fun r => { r with ferr := r.checkedFerr (s.cfg.chan.get i) }) s

theorem followCheck_of_not_driven {s : State} (still : s.ss.safety.driven = false) (i : Nat) : followCheck i s = s :=
  if_neg (by simp [still])

theorem followCheck_of_driven {s : State} (driven : s.ss.safety.driven = true) {i : Nat} (hi : i < 4) : followCheck i s =
    if (s.spl.readings.get i).checkedFerr (s.cfg.chan.get i) = (s.cfg.chan.get i).ferrTicks then
      raiseFiltered .follow i (followed i s) else followed i s := by
  unfold followCheck
  rw [if_pos driven]
  simp only [modReading_reading _ _ _ hi, if_pos]
  rfl

theorem followed_reading {i j : Nat} (hj : j < 4) (s : State) : (followed i s).spl.readings.get j =
    if j = i then { s.spl.readings.get j with ferr := (s.spl.readings.get j).checkedFerr (s.cfg.chan.get i) }
    else s.spl.readings.get j := modReading_reading _ _ _ hj

/-- The check changes the FERR COUNT of its channel, in the SPL. -/
theorem followCheck_spl {i : Nat} (hi : i < 4) (s : State) :
    ∃ f, (followCheck i s).spl = { s.spl with readings := s.spl.readings.set i { s.spl.readings.get i with ferr := f } } := by
  cases driven : s.ss.safety.driven with
  | false =>
    have same : s.spl.readings.set i { s.spl.readings.get i with ferr := (s.spl.readings.get i).ferr } = s.spl.readings :=
      quad_set_self _ hi
    exact ⟨_, by rw [followCheck_of_not_driven driven, same]⟩
  | true =>
    refine ⟨(s.spl.readings.get i).checkedFerr (s.cfg.chan.get i), ?_⟩
    rw [followCheck_of_driven driven hi]
    split
    next => rw [raiseFiltered_spl (by decide)]; rfl
    next => rfl

theorem followCheck_onlyChanges (i : Nat) (s : State) :
    OnlyChanges [.lif, .chans, .spl, .ss, .pu, .ts, .tpr, .attention] s (followCheck i s) := by
  have counts : OnlyChanges [.lif, .chans, .spl, .ss, .pu, .ts, .tpr, .attention] s (followed i s) := by
    simp [onlyChanges_iff, followed]
  unfold followCheck
  split
  next =>
    dsimp only
    split
    next => exact counts.trans ((raiseFiltered_onlyChanges (by decide) _ _).mono (by simp))
    next => exact counts
  next => simp [onlyChanges_iff]

theorem checkedFerr_of_short {cfg : ChanCfg} {r : Reading} (short : r.hist.length < 2) : r.checkedFerr cfg = 0 := by
  unfold Reading.checkedFerr
  split
  next hist => simp [hist] at short
  next => rfl

theorem checkedFerr_of_pair {cfg : ChanCfg} {r : Reading} {a b : SetpointRecord} {rest : List SetpointRecord} (hist : r.hist = a :: b :: rest) :
    r.checkedFerr cfg = if b.mode = .off then 0
      else if cfg.ferrMax < (b.x - r.position).natAbs then min cfg.ferrTicks (r.ferr + 1) else 0 := by
  simp [Reading.checkedFerr, hist]

end Sys2Proof.Machine
end

section
/-! The sensor line: what a POLL response and a servo tick do, as a whole. -/

namespace Sys2Proof.Machine

open Sys2Proof

/-! ### POLL responses (R77 to R79, R81) -/

theorem pollResponse_of_awaited {address status : Byte} {p : U24} {s : State} {r : Round} {st : ReadStatus}
    (free : s.spl.readActive = false) (round : s.spl.round = some r) (same : address.toNat = r.channel)
    (code : ReadStatus.ofCode status = some st) : exec (.pollResponse .good address status p) s =
      .next (pollNext r.channel r.late (if st = .fail then takeFail r.channel s else takeFresh r.channel st p.toInt r.late s)) := by
  change execPollResponse .good address status p s = _
  unfold execPollResponse
  simp only [free, round, code]
  rw [if_pos same]
  cases st <;> rfl

theorem pollResponse_of_ignored {answer : Answer} {address status : Byte} {p : U24} {s : State}
    (ignored : answer ≠ .good ∨ s.spl.readActive = true ∨ s.spl.round = none ∨ 2 < status.toNat ∨
      ∃ r, s.spl.round = some r ∧ address.toNat ≠ r.channel) : exec (.pollResponse answer address status p) s = .next s := by
  change execPollResponse answer address status p s = _
  unfold execPollResponse
  refine congrArg Host.Outcome.next ?_
  split
  next free round code =>
    have low : ¬ 2 < status.toNat := by
      intro high
      have none : ReadStatus.ofCode status = none := by
        have ne (n : Nat) (hn : n < 3) : status ≠ BitVec.ofNat 8 n := fun eq => by
          rw [eq, BitVec.toNat_ofNat, Nat.mod_eq_of_lt (by omega)] at high
          omega
        exact (if_neg (ne 0 (by omega))).trans ((if_neg (ne 1 (by omega))).trans (if_neg (ne 2 (by omega))))
      rw [none] at code
      cases code
    rcases ignored with bad | reads | ended | high | ⟨k, there, other⟩
    · exact absurd rfl bad
    · rw [free] at reads
      cases reads
    · rw [round] at ended
      cases ended
    · exact absurd high low
    · rw [round] at there
      obtain rfl := Option.some.inj there
      exact if_neg other
  next => rfl

/-- The reading that a response gives, before the following-error check. -/
def freshReading (i : Nat) (st : ReadStatus) (p : Int) (s : State) : State :=
  modReading i (fun r => { r with position := p, status := some st, valid := true, stale := 0, received := true }) s

theorem takeFresh_eq (i : Nat) (st : ReadStatus) (p : Int) (late : Bool) (s : State) :
    takeFresh i st p late s = if late = true then freshReading i st p s else followCheck i (freshReading i st p s) := rfl

theorem quad_set_twice {α : Type} (q : Quad α) (i : Nat) (a b : α) : (q.set i a).set i b = q.set i b := by
  rcases i with _ | _ | _ | _ | i
  · rfl
  · rfl
  · rfl
  · rfl
  · rfl

/-- A fresh reading changes the reading of its channel alone in the SPL, with a FERR COUNT as the check leaves it. -/
theorem takeFresh_spl {i : Nat} (hi : i < 4) (st : ReadStatus) (p : Int) (late : Bool) (s : State) :
    ∃ f, (takeFresh i st p late s).spl = { s.spl with
      readings := s.spl.readings.set i { s.spl.readings.get i with
        position := p, status := some st, valid := true, stale := 0, received := true, ferr := f } } := by
  have twice (a b : Reading) : (s.spl.readings.set i a).set i b = s.spl.readings.set i b := quad_set_twice _ i a b
  rw [takeFresh_eq]
  split
  next => exact ⟨(s.spl.readings.get i).ferr, rfl⟩
  next =>
    obtain ⟨f, spl⟩ := followCheck_spl hi (freshReading i st p s)
    refine ⟨f, ?_⟩
    rw [spl]
    simp only [freshReading, modReading, twice, quad_get_set _ _ _ _ hi hi, if_pos]

theorem freshReading_onlyChanges (i : Nat) (st : ReadStatus) (p : Int) (s : State) :
    OnlyChanges [.spl] s (freshReading i st p s) := by simp [onlyChanges_iff, freshReading]

theorem takeFresh_onlyChanges (i : Nat) (st : ReadStatus) (p : Int) (late : Bool) (s : State) :
    OnlyChanges [.lif, .chans, .spl, .ss, .pu, .ts, .tpr, .attention] s (takeFresh i st p late s) := by
  have fresh := (freshReading_onlyChanges i st p s).mono (cs := [.lif, .chans, .spl, .ss, .pu, .ts, .tpr, .attention]) (by simp)
  rw [takeFresh_eq]
  split
  next => exact fresh
  next => exact fresh.trans (followCheck_onlyChanges _ _)

/-- A reading of a deferred round, and one outside the four states of R86, is not checked. -/
theorem takeFresh_of_unchecked {i : Nat} {st : ReadStatus} {p : Int} {late : Bool} {s : State}
    (unchecked : late = true ∨ s.ss.safety.driven = false) : takeFresh i st p late s = freshReading i st p s := by
  rw [takeFresh_eq]
  split
  next => rfl
  next notLate => exact followCheck_of_not_driven (s := freshReading i st p s) (unchecked.resolve_left notLate) i

theorem pollNext_of_more {c : Nat} {late : Bool} {s : State} (more : c + 1 < s.cfg.nChans) :
    (pollNext c late s).spl = { s.spl with round := some { channel := c + 1, late := late } } := by
  rw [pollNext, if_pos more]

theorem pollNext_of_last {c : Nat} {late : Bool} {s : State} (last : s.cfg.nChans ≤ c + 1) (free : s.spl.readActive = false) :
    (pollNext c late s).spl = { s.spl with round := none, readActive := s.spl.read.isSome } := by
  rw [pollNext, if_neg (not_lt.2 last)]
  cases read : s.spl.read with
  | none =>
    have still : readTakesLineNow { s with spl.round := none } = { s with spl.round := none } := if_neg (by simp [read])
    rw [still]
    simp [free]
  | some w => rw [readTakesLineNow_spl (s := { s with spl.round := none }) (by simp [read]) free]; rfl

theorem pollNext_readings (c : Nat) (late : Bool) (s : State) : (pollNext c late s).spl.readings = s.spl.readings := by
  unfold pollNext readTakesLineNow
  repeat' split
  all_goals rfl

theorem pollNext_onlyChanges (c : Nat) (late : Bool) (s : State) : OnlyChanges [.spl] s (pollNext c late s) := by
  simp [onlyChanges_iff]

theorem raiseStale_stale {s : State} (notParked : s.ss.safety ≠ .parked) :
    attentionHas (raiseStale s).attention .staleReading = true := by
  rw [raiseStale, if_neg notParked]
  exact attentionHas_attentionRaise_self _ _

theorem raiseStale_attention {s : State} {a : Attention} (present : attentionHas s.attention a = true) :
    attentionHas (raiseStale s).attention a = true := by
  unfold raiseStale
  split
  next => exact present
  next => exact attentionHas_attentionRaise present _

/-- The node after a FAIL, before its claim (R79). -/
def failedReading (i : Nat) (s : State) : State :=
  raiseStale (modReading i (fun r => { r with status := some .fail, stale := satSucc 255 r.stale, received := true }) s)

theorem takeFail_eq (i : Nat) (s : State) : takeFail i s = raiseFiltered .encoder i (failedReading i s) := rfl

theorem failedReading_frame (i : Nat) (s : State) : (failedReading i s).ss = s.ss ∧ (failedReading i s).cfg = s.cfg := by
  simp [failedReading]

theorem takeFail_reading {i : Nat} (hi : i < 4) (s : State) : (takeFail i s).spl.readings.get i =
    { s.spl.readings.get i with
      status := some .fail, stale := satSucc 255 (s.spl.readings.get i).stale, received := true } := by
  rw [takeFail_eq, raiseFiltered_spl (by decide), failedReading, (raiseStale_frame _).2.2.2.2.1, modReading_reading _ _ _ hi,
    if_pos rfl]

theorem takeFail_onlyChanges (i : Nat) (s : State) :
    OnlyChanges [.lif, .chans, .spl, .ss, .pu, .ts, .tpr, .attention] s (takeFail i s) := by
  have fails : OnlyChanges [.spl, .attention] s (failedReading i s) := by simp [onlyChanges_iff, failedReading]
  rw [takeFail_eq]
  exact (fails.mono (by simp)).trans ((raiseFiltered_onlyChanges (by decide) _ _).mono (by simp))

/-- A claim raised by a channel of the SPL, where there is none yet and there is room. -/
theorem raiseFiltered_room {c : Cause} {d : Nat} {s : State} (ne : c ≠ .estop) (open_ : s.ss.safety.isOpen = true)
    (absent : findClaim s.ss.claims s.cfg.station c = none) (room : s.ss.claims.length < 32) :
    findClaim (raiseFiltered c d s).ss.claims s.cfg.station c =
        some { origin := s.cfg.station, cause := c, detail := d, latched := c.isLatched } ∧
      (s.ss.safety.canStop = true → (raiseFiltered c d s).ss.safety = .stopping) := by
  rw [raiseFiltered_of_absent absent]
  exact ⟨raiseOwn_room_finds open_ absent room, fun moving => raiseOwn_room_stops ne moving absent room⟩

/-! ### The rounds at a servo tick (R78, R79, R81, R84) -/

/-- The channel has no response in what stands at the tick: the round in progress, or a deferred round that has not begun. -/
def State.misses (s : State) (i : Nat) : Bool := s.spl.deferred || (s.spl.round.isSome && !(s.spl.readings.get i).received)

/-- The node with what stands at the tick over. -/
def roundOver (s : State) : State :=
  { s with spl.deferred := false, spl.round := if s.spl.deferred then s.spl.round else none }

def missRound (missed : Nat → Bool) (u : State) (i : Nat) : State := if missed i then staleTick i u else u

theorem endRound_eq (s : State) : endRound s = (List.range s.cfg.nChans).foldl (missRound s.misses) (roundOver s) := by
  unfold endRound
  cases deferred : s.spl.deferred with
  | true =>
    have all (i : Nat) : s.misses i = true := by simp [State.misses, deferred]
    have rounds : missRound s.misses = fun u i => staleTick i u := by
      funext u i
      exact if_pos (all i)
    simp only [if_pos, rounds, roundOver, deferred]
    rfl
  | false =>
    cases round : s.spl.round with
    | some r =>
      have missed (i : Nat) : s.misses i = !(s.spl.readings.get i).received := by simp [State.misses, deferred, round]
      have rounds : missRound s.misses = fun u i => if (!(s.spl.readings.get i).received) = true then staleTick i u else u := by
        funext u i
        rw [missRound, missed]
      simp only [rounds, ← List.foldl_filter]
      simp [staleTicks, State.unreceived, State.channels, roundOver, deferred]
    | none =>
      have missed (i : Nat) : s.misses i = false := by simp [State.misses, deferred, round]
      have rounds : missRound s.misses = fun u _ => u := by
        funext u i
        rw [missRound, missed, if_neg Bool.false_ne_true]
      have same : roundOver s = s := by
        have spl : s.spl = { s.spl with deferred := false, round := none } := by rw [← deferred, ← round]
        unfold roundOver
        rw [deferred, if_neg Bool.false_ne_true, ← spl]
      rw [rounds, same]
      simp

/-- The stale count of a channel one higher, up to 255. -/
def Reading.missed (r : Reading) : Reading := { r with stale := satSucc 255 r.stale }

/-- A stale tick before what it raises. -/
def staleCounted (i : Nat) (s : State) : State := modReading i Reading.missed s

theorem staleTick_eq {i : Nat} (hi : i < 4) (s : State) : staleTick i s =
    if (s.spl.readings.get i).valid then
      if 3 ≤ satSucc 255 (s.spl.readings.get i).stale then raiseFiltered .encoder i (raiseStale (staleCounted i s))
      else raiseStale (staleCounted i s)
    else staleCounted i s := by
  have reading : (staleCounted i s).spl.readings.get i = (s.spl.readings.get i).missed :=
    (modReading_reading _ _ _ hi).trans (if_pos rfl)
  change (if ((staleCounted i s).spl.readings.get i).valid then
    if 3 ≤ ((staleCounted i s).spl.readings.get i).stale then raiseFiltered .encoder i (raiseStale (staleCounted i s))
    else raiseStale (staleCounted i s) else staleCounted i s) = _
  rw [reading]
  rfl

theorem staleTick_spl {i : Nat} (hi : i < 4) (s : State) : (staleTick i s).spl = (staleCounted i s).spl := by
  rw [staleTick_eq hi]
  repeat' split
  · rw [raiseFiltered_spl (by decide), (raiseStale_frame _).2.2.2.2.1]
  · rw [(raiseStale_frame _).2.2.2.2.1]
  · rfl

theorem missRound_spl (missed : Nat → Bool) {i : Nat} (hi : i < 4) (s : State) : (missRound missed s i).spl =
    { s.spl with readings := if missed i then s.spl.readings.set i (s.spl.readings.get i).missed else s.spl.readings } := by
  unfold missRound
  split
  next => exact staleTick_spl hi s
  next => rfl

/-- The SPL after the end of what stood at a tick. -/
theorem endRound_spl {s : State} (few : s.cfg.nChans ≤ 4) :
    (endRound s).spl = { (roundOver s).spl with readings := (endRound s).spl.readings } ∧
    ∀ i < s.cfg.nChans, (endRound s).spl.readings.get i =
      if s.misses i then (s.spl.readings.get i).missed else s.spl.readings.get i := by
  rw [endRound_eq]
  refine ⟨foldl_range_rec (motive := fun _ (u : State) => u.spl = { (roundOver s).spl with readings := u.spl.readings }) rfl
    fun k hk u same => ?others, fun i hi => ?each⟩
  case others =>
    rw [missRound_spl _ (by omega), same]
  case each =>
    exact (foldl_channels (f := missRound s.misses) (s := roundOver s) (side := fun _ => True)
      (view := fun (u : State) i => u.spl.readings.get i)
      (change := fun i r t => t = if s.misses i then r.missed else r) few (fun _ _ _ _ => trivial)
      (fun u k hk _ => by
        rw [missRound_spl _ (by omega)]
        split <;> simp [quad_get_set, show k < 4 by omega])
      (fun u k hk j hj ne _ => by
        rw [missRound_spl _ (by omega)]
        split <;> simp [quad_get_set, show k < 4 by omega, hj, ne]) trivial).1 i hi

theorem staleTick_onlyChanges {i : Nat} (hi : i < 4) (s : State) :
    OnlyChanges [.lif, .chans, .spl, .ss, .pu, .ts, .tpr, .attention] s (staleTick i s) := by
  have counts : OnlyChanges [.lif, .chans, .spl, .ss, .pu, .ts, .tpr, .attention] s (raiseStale (staleCounted i s)) := by
    simp [onlyChanges_iff, staleCounted]
  rw [staleTick_eq hi]
  repeat' split
  · exact counts.trans ((raiseFiltered_onlyChanges (by decide) _ _).mono (by simp))
  · exact counts
  · simp [onlyChanges_iff, staleCounted]

theorem staleTick_attention {i : Nat} (hi : i < 4) {s : State} {a : Attention} (present : attentionHas s.attention a = true) :
    attentionHas (staleTick i s).attention a = true := by
  have counted : attentionHas (staleCounted i s).attention a = true := present
  rw [staleTick_eq hi]
  repeat' split
  · exact attentionHas_raiseFiltered (raiseStale_attention counted) _ _
  · exact raiseStale_attention counted
  · exact counted

theorem staleTick_stale {i : Nat} (hi : i < 4) {s : State} (valid : (s.spl.readings.get i).valid = true)
    (notParked : s.ss.safety ≠ .parked) : attentionHas (staleTick i s).attention .staleReading = true := by
  have raised := raiseStale_stale (s := staleCounted i s) notParked
  rw [staleTick_eq hi, if_pos valid]
  split
  · exact attentionHas_raiseFiltered raised _ _
  · exact raised

theorem staleTick_not_parked {i : Nat} (hi : i < 4) {s : State} (not : s.ss.safety ≠ .parked) :
    (staleTick i s).ss.safety ≠ .parked := by
  have counted : (raiseStale (staleCounted i s)).ss.safety ≠ .parked := by rwa [(raiseStale_frame _).2.2.2.2.2.2.1]
  rw [staleTick_eq hi]
  repeat' split
  · exact raiseFiltered_not_parked counted _ _
  · exact counted
  · exact not

end Sys2Proof.Machine
end

section
/-! The rounds of the sensor line at a servo tick, and the statement of R77 to R79, R81, R84, R86 and R87. -/

namespace Sys2Proof.Machine

open Sys2Proof

/-! ### The end of a round (R78, R79, R81) -/

theorem missRound_reading (missed : Nat → Bool) {i j : Nat} (hi : i < 4) (hj : j < 4) (s : State) :
    (missRound missed s i).spl.readings.get j =
      if j = i ∧ missed i = true then (s.spl.readings.get j).missed else s.spl.readings.get j := by
  rw [missRound_spl missed hi]
  by_cases missing : missed i = true
  · by_cases eq : j = i <;> simp [missing, eq, quad_get_set, hi, hj]
  · simp [missing]

theorem missRound_valid (missed : Nat → Bool) {i j : Nat} (hi : i < 4) (hj : j < 4) (s : State) :
    ((missRound missed s i).spl.readings.get j).valid = (s.spl.readings.get j).valid := by
  rw [missRound_reading missed hi hj]
  split <;> rfl

theorem staleTick_ss_of_few {i : Nat} (hi : i < 4) {s : State}
    (few : (s.spl.readings.get i).valid = true → (s.spl.readings.get i).stale < 2) : (staleTick i s).ss = s.ss := by
  rw [staleTick_eq hi]
  split
  next valid =>
    have low := few valid
    have notThree : ¬ 3 ≤ satSucc 255 (s.spl.readings.get i).stale := by
      unfold satSucc
      omega
    rw [if_neg notThree, (raiseStale_frame _).2.2.2.2.2.2.1]
    rfl
  next => rfl

theorem staleTick_of_three {i : Nat} (hi : i < 4) {s : State} (valid : (s.spl.readings.get i).valid = true)
    (third : 2 ≤ (s.spl.readings.get i).stale) :
    staleTick i s = raiseFiltered .encoder i (raiseStale (staleCounted i s)) := by
  have three : 3 ≤ satSucc 255 (s.spl.readings.get i).stale := by
    unfold satSucc
    omega
  rw [staleTick_eq hi, if_pos valid, if_pos three]

/-- The claim of an earlier channel keeps a later one from raising ENCODER. -/
theorem staleTick_of_raised {i : Nat} (hi : i < 4) {s : State} {e : Claim}
    (found : findClaim s.ss.claims s.cfg.station .encoder = some e) (low : e.detail ≤ i) : (staleTick i s).ss = s.ss := by
  have counted : (raiseStale (staleCounted i s)).ss = s.ss := (raiseStale_frame _).2.2.2.2.2.2.1
  have cfg : (raiseStale (staleCounted i s)).cfg = s.cfg := by simp [staleCounted]
  rw [staleTick_eq hi]
  repeat' split
  · rw [raiseFiltered_of_stronger (e := e) (by rw [counted, cfg, found]) low, counted]
  · exact counted
  · rfl

section
variable {s : State} (few : s.cfg.nChans ≤ 4)
include few

theorem endRound_stale {i : Nat} (hi : i < s.cfg.nChans) (missed : s.misses i = true)
    (valid : (s.spl.readings.get i).valid = true) (notParked : s.ss.safety ≠ .parked) :
    attentionHas (endRound s).attention .staleReading = true := by
  rw [endRound_eq]
  refine (foldl_range_rec (f := missRound s.misses) (a := roundOver s) (motive := fun k (u : State) => (∀ j < 4, (u.spl.readings.get j).valid = (s.spl.readings.get j).valid) ∧
      u.ss.safety ≠ .parked ∧ (i < k → attentionHas u.attention .staleReading = true))
    ⟨fun _ _ => rfl, notParked, fun no => absurd no (Nat.not_lt_zero _)⟩ fun k hk u ⟨same, not, raised⟩ => ?_).2.2 hi
  have four : k < 4 := by omega
  refine ⟨fun j hj => (missRound_valid _ four hj u).trans (same j hj), ?_, fun reached => ?_⟩
  · unfold missRound
    split
    next => exact staleTick_not_parked four not
    next => exact not
  · rcases Nat.lt_or_eq_of_le (Nat.le_of_lt_succ reached) with later | rfl
    · unfold missRound
      split
      next => exact staleTick_attention four (raised later)
      next => exact raised later
    · rw [missRound, if_pos missed]
      exact staleTick_stale four (by rw [same i four, valid]) not

theorem endRound_encoder {i : Nat} (hi : i < s.cfg.nChans) (open_ : s.ss.safety.isOpen = true) (missed : s.misses i = true)
    (valid : (s.spl.readings.get i).valid = true) (third : 2 ≤ (s.spl.readings.get i).stale)
    (lowest : ∀ k < i, s.misses k = true → (s.spl.readings.get k).valid = true → (s.spl.readings.get k).stale < 2)
    (absent : findClaim s.ss.claims s.cfg.station .encoder = none) (room : s.ss.claims.length < 32) :
    findClaim (endRound s).ss.claims s.cfg.station .encoder =
        some { origin := s.cfg.station, cause := .encoder, detail := i, latched := true } ∧
      (s.ss.safety.canStop = true → (endRound s).ss.safety = .stopping) := by
  rw [endRound_eq]
  refine (foldl_range_rec (f := missRound s.misses) (a := roundOver s) (motive := fun k (u : State) => (u.cfg = s.cfg ∧
      ∀ j < 4, k ≤ j → u.spl.readings.get j = s.spl.readings.get j) ∧ (k ≤ i → u.ss = s.ss) ∧ (i < k →
      findClaim u.ss.claims s.cfg.station .encoder =
        some { origin := s.cfg.station, cause := .encoder, detail := i, latched := true } ∧
      (s.ss.safety.canStop = true → u.ss.safety = .stopping)))
    ⟨⟨rfl, fun _ _ _ => rfl⟩, fun _ => rfl, fun no => absurd no (Nat.not_lt_zero _)⟩
    fun k hk u ⟨⟨cfg, same⟩, before, after⟩ => ?_).2.2 hi
  have four : k < 4 := by omega
  refine ⟨⟨?cfg, fun j hj later => ?same⟩, fun below => ?below, fun reached => ?reached⟩
  case cfg =>
    unfold missRound
    split <;> simp [cfg]
  case same => rw [missRound_reading _ four hj, if_neg (by omega), same j hj (by omega)]
  case below =>
    unfold missRound
    split
    next missing =>
      rw [staleTick_ss_of_few four (fun valid => ?_), before (by omega)]
      rw [same k four le_rfl] at valid ⊢
      exact lowest k (by omega) missing valid
    next => exact before (by omega)
  case reached =>
    rcases Nat.lt_or_eq_of_le (Nat.le_of_lt_succ reached) with later | rfl
    · obtain ⟨found, stops⟩ := after later
      have kept : (missRound s.misses u k).ss = u.ss := by
        unfold missRound
        split
        next => exact staleTick_of_raised four (by rw [cfg, found]) later.le
        next => rfl
      rw [kept]
      exact ⟨found, stops⟩
    · have reading := same i four le_rfl
      have ss : (raiseStale (staleCounted i u)).ss = s.ss := ((raiseStale_frame _).2.2.2.2.2.2.1).trans (before le_rfl)
      have station : (raiseStale (staleCounted i u)).cfg = s.cfg := by simp [staleCounted, cfg]
      rw [missRound, if_pos missed, staleTick_of_three four (by rw [reading, valid]) (by rw [reading]; exact third)]
      have raised := raiseFiltered_room (d := i) (s := raiseStale (staleCounted i u)) (c := .encoder) (by decide)
        (by rw [ss, open_]) (by rw [ss, station, absent]) (by rw [ss]; exact room)
      rw [station, ss] at raised
      exact raised

theorem endRound_onlyChanges : OnlyChanges [.lif, .chans, .spl, .ss, .pu, .ts, .tpr, .attention] s (endRound s) := by
  rw [endRound_eq]
  refine foldl_range_rec (motive := fun _ u => OnlyChanges [.lif, .chans, .spl, .ss, .pu, .ts, .tpr, .attention] s u)
    (by simp [onlyChanges_iff, roundOver]) fun k hk u only => only.trans ?_
  unfold missRound
  split
  next => exact staleTick_onlyChanges (by omega) u
  next => simp [onlyChanges_iff]

/-- A round raises nothing where every channel that has been valid has answered. -/
theorem endRound_onlyChanges_of_answered
    (answered : ∀ i < s.cfg.nChans, s.misses i = true → (s.spl.readings.get i).valid = false) : OnlyChanges [.spl] s (endRound s) := by
  rw [endRound_eq]
  refine (foldl_range_rec (f := missRound s.misses) (a := roundOver s) (motive := fun _ (u : State) =>
      (∀ j < 4, (u.spl.readings.get j).valid = (s.spl.readings.get j).valid) ∧ OnlyChanges [.spl] s u)
    ⟨fun _ _ => rfl, by simp [onlyChanges_iff, roundOver]⟩ fun k hk u ⟨same, only⟩ => ?_).2
  refine ⟨fun j hj => (missRound_valid _ (by omega) hj u).trans (same j hj), only.trans ?_⟩
  unfold missRound
  split
  next missing =>
    rw [staleTick_eq (by omega), same k (by omega), answered k hk missing, if_neg Bool.false_ne_true]
    simp [onlyChanges_iff, staleCounted]
  next => simp [onlyChanges_iff]

theorem endRound_onlyChanges_of_parked (parked : s.ss.safety = .parked) : OnlyChanges [.spl] s (endRound s) := by
  rw [endRound_eq]
  refine (foldl_range_rec (f := missRound s.misses) (a := roundOver s) (motive := fun _ (u : State) => u.ss = s.ss ∧ OnlyChanges [.spl] s u)
    ⟨rfl, by simp [onlyChanges_iff, roundOver]⟩ fun k hk u ⟨ss, only⟩ => ?_).2
  have quiet : raiseStale (staleCounted k u) = staleCounted k u := if_pos (by rw [← parked, ← ss]; rfl)
  have closed (d : Nat) : raiseFiltered .encoder d (staleCounted k u) = staleCounted k u :=
    raiseFiltered_of_closed (by change u.ss.safety.isOpen = false; rw [ss, parked]; rfl) _ _
  have ticks : staleTick k u = staleCounted k u := by
    rw [staleTick_eq (by omega), quiet, closed, ite_self, ite_self]
  unfold missRound
  split
  next =>
    rw [ticks]
    exact ⟨ss, only.trans (by simp [onlyChanges_iff, staleCounted])⟩
  next => exact ⟨ss, only⟩

end

/-! ### The servo tick (R78, R84) -/

/-- The next round, or its deferral behind the read that is accepted. -/
def nextRound (s : State) : State :=
  if s.spl.read.isSome then { s with spl := { s.spl with round := none, readActive := true, deferred := true } }
  else beginRound false s

theorem pollTick_eq {s : State} (notLoading : s.ss.safety ≠ .loading) (notFaulted : s.ss.safety ≠ .faulted) :
    pollTick s = nextRound (endRound s) := by
  unfold pollTick
  split
  next loading => exact absurd loading notLoading
  next faulted => exact absurd faulted notFaulted
  next => rfl

theorem nextRound_onlyChanges (s : State) : OnlyChanges [.spl] s (nextRound s) := by
  unfold nextRound
  split <;> simp [onlyChanges_iff]

theorem nextRound_keeps (s : State) : (nextRound s).ss = s.ss ∧ (nextRound s).attention = s.attention ∧
    (nextRound s).spl.read = s.spl.read := by
  unfold nextRound
  split <;> exact ⟨rfl, rfl, rfl⟩

theorem nextRound_of_free {s : State} (free : s.spl.read = none) : (nextRound s).spl = { s.spl with
    readings := s.spl.readings.map fun r => { r with received := false }, round := some { channel := 0, late := false } } := by
  rw [nextRound, if_neg (by simp [free])]
  rfl

theorem nextRound_of_read {s : State} (read : s.spl.read ≠ none) :
    (nextRound s).spl = { s.spl with round := none, readActive := true, deferred := true } := by
  rw [nextRound, if_pos (Option.isSome_iff_ne_none.2 read)]

theorem nextRound_reading (s : State) (i : Nat) : ∃ b, (nextRound s).spl.readings.get i =
    { s.spl.readings.get i with received := b } := by
  cases read : s.spl.read with
  | none =>
    rw [nextRound_of_free read]
    exact ⟨false, quad_get_map _ _ _⟩
  | some w =>
    rw [nextRound_of_read (by simp [read])]
    exact ⟨_, rfl⟩

theorem misses_iff (s : State) (i : Nat) : s.misses i = true ↔
    s.spl.deferred = true ∨ s.spl.round.isSome = true ∧ (s.spl.readings.get i).received = false := by
  simp [State.misses]

theorem misses_eq_false {s : State} {i : Nat} (deferred : s.spl.deferred = false)
    (either : s.spl.round = none ∨ (s.spl.readings.get i).received = true) : s.misses i = false := by
  rcases either with none | received <;> simp [State.misses, *]

theorem pollResponse_of_fresh {address status : Byte} {p : U24} {s : State} {r : Round} (free : s.spl.readActive = false)
    (round : s.spl.round = some r) (same : address.toNat = r.channel) (code : status = 0 ∨ status = 1) :
    exec (.pollResponse .good address status p) s =
      .next (pollNext r.channel r.late (takeFresh r.channel (if status = 0 then .ok else .warn) p.toInt r.late s)) := by
  rcases code with rfl | rfl
  · exact pollResponse_of_awaited (st := .ok) free round same rfl
  · exact pollResponse_of_awaited (st := .warn) free round same rfl

/-- Settles O47: a response, the check, and the rounds of a servo tick. -/
theorem pollResponseIsTaken : Obligations.PollResponseIsTaken := by
  refine ⟨fun address status p s r free round same hi code => ?fresh, fun address p s r free round same hi open_ => ?fail,
    fun answer address status p s ignored => pollResponse_of_ignored ignored,
    fun address status p s r free round same hi code inTime => ?checked, fun i s still => followCheck_of_not_driven still i,
    fun i s driven hi => ?follow, fun s notLoading notFaulted few => ?tick⟩
  case fresh =>
    refine ⟨_, pollResponse_of_fresh free round same code, ?_⟩
    obtain ⟨f, spl⟩ := takeFresh_spl hi (if status = 0 then .ok else .warn) p.toInt r.late s
    have onlyTaken := takeFresh_onlyChanges r.channel (if status = 0 then .ok else .warn) p.toInt r.late s
    generalize taken : takeFresh r.channel (if status = 0 then .ok else .warn) p.toInt r.late s = u at spl onlyTaken
    have cfg : u.cfg = s.cfg := by rw [← taken]; simp
    have only := pollNext_onlyChanges r.channel r.late u
    have reading : (pollNext r.channel r.late u).spl.readings.get r.channel = { s.spl.readings.get r.channel with
        position := p.toInt, status := some (if status = 0 then .ok else .warn), valid := true, stale := 0,
        received := true, ferr := f } := by
      rw [pollNext_readings, spl]
      exact (quad_get_set _ _ _ _ hi hi).trans (if_pos rfl)
    have other (j : Nat) (hj : j < 4) (ne : j ≠ r.channel) :
        (pollNext r.channel r.late u).spl.readings.get j = s.spl.readings.get j := by
      rw [pollNext_readings, spl]
      exact (quad_get_set _ _ _ _ hi hj).trans (if_neg ne)
    refine ⟨by rw [reading], by rw [reading], by rw [reading], by rw [reading], by rw [reading], fun more => ?_, fun last => ?_,
      onlyTaken.trans (only.mono (by simp)), fun unchecked => ?_, fun j hj ne _ => other j hj ne⟩
    · rw [pollNext_of_more (by rw [cfg]; exact more)]
    · rw [pollNext_of_last (by rw [cfg]; exact last) (by rw [spl]; exact free), spl]
      exact ⟨rfl, rfl⟩
    · rw [takeFresh_of_unchecked unchecked] at taken
      subst taken
      refine ⟨(freshReading_onlyChanges _ _ _ s).trans only, ?_⟩
      rw [pollNext_readings, freshReading, modReading_reading _ _ _ hi, if_pos rfl]
  case fail =>
    refine ⟨pollNext r.channel r.late (takeFail r.channel s), pollResponse_of_awaited (st := .fail) free round same rfl, ?_⟩
    have keeps := pollNext_frame r.channel r.late (takeFail r.channel s)
    obtain ⟨ss, cfg⟩ := failedReading_frame r.channel s
    have stale : attentionHas (failedReading r.channel s).attention .staleReading = true := by
      refine raiseStale_stale ?_
      rintro parked
      rw [(modReading_frame _ _ _).2.2.2.2.2.1] at parked
      rw [parked] at open_
      cases open_
    rw [pollNext_readings, takeFail_reading hi]
    refine ⟨rfl, rfl, rfl, ?_, (takeFail_onlyChanges _ s).trans ((pollNext_onlyChanges _ _ _).mono (by simp)),
      fun absent room => ?_⟩
    · simp only [keeps]
      exact attentionHas_raiseFiltered stale _ _
    · have raised := raiseFiltered_room (c := .encoder) (d := r.channel) (s := failedReading r.channel s) (by decide)
        (by rw [ss, open_]) (by rw [ss, cfg, absent]) (by rw [ss]; exact room)
      rw [ss, cfg] at raised
      simp only [keeps]
      exact raised
  case checked =>
    rw [pollResponse_of_fresh free round same code, inTime]
    rfl
  case follow =>
    refine ⟨(s.spl.readings.get i).checkedFerr (s.cfg.chan.get i), followed i s, rfl, checkedFerr_of_short,
      fun a b rest hist => ⟨fun off => ?_, fun on near => ?_, fun on far => ?_⟩, fun few => ?_, fun full => ?_⟩
    · rw [checkedFerr_of_pair hist, if_pos off]
    · rw [checkedFerr_of_pair hist, if_neg on, if_neg (by rw [Int.abs_eq_natAbs] at near; omega)]
    · rw [checkedFerr_of_pair hist, if_neg on, if_pos (by rw [Int.abs_eq_natAbs] at far; omega)]
    · rw [followCheck_of_driven driven hi, if_neg few]
    · have raised : followCheck i s = raiseFiltered .follow i (followed i s) := by
        rw [followCheck_of_driven driven hi, if_pos full]
      rw [raised]
      refine ⟨rfl, ?_, fun absent room => ?_⟩
      · rw [raiseFiltered_spl (by decide), followed_reading hi, if_pos rfl]
      · exact raiseFiltered_room (s := followed i s) (by decide) (isOpen_of_driven driven) absent room
  case tick =>
    obtain ⟨spl, readings⟩ := endRound_spl (s := s) few
    have eq := pollTick_eq notLoading notFaulted
    obtain ⟨ss, attention, read⟩ := nextRound_keeps (endRound s)
    have readStays : (endRound s).spl.read = s.spl.read := by rw [spl]; rfl
    have only := nextRound_onlyChanges (endRound s)
    rw [eq]
    refine ⟨fun i hi => ?each, fun free => ?free, fun reads => ?reads, by rw [read, readStays], fun i hi open_ missed valid third lowest
      absent room => ?encoder, fun answered => ?answered, fun parked => (endRound_onlyChanges_of_parked few parked).trans only,
      (endRound_onlyChanges few).trans (only.mono (by simp))⟩
    case each =>
      obtain ⟨b, reading⟩ := nextRound_reading (endRound s) i
      rw [attention, reading, readings i hi]
      refine ⟨fun missed => ⟨?_, fun valid notParked => ?_⟩, fun answered => ?_, ?_, ?_, ?_, ?_, fun free => ?_⟩
      · rw [if_pos ((misses_iff s i).2 missed)]
        rfl
      · exact endRound_stale few hi ((misses_iff s i).2 missed) valid notParked
      · rw [misses_eq_false answered.1 answered.2, if_neg Bool.false_ne_true]
      · split <;> rfl
      · split <;> rfl
      · split <;> rfl
      · split <;> rfl
      · have begun := congrArg (fun spl : Spl => (spl.readings.get i).received) (nextRound_of_free (by rw [readStays, free]))
        simp only [reading, quad_get_map] at begun
        exact begun
    case free =>
      rw [nextRound_of_free (by rw [readStays, free]), spl]
      exact ⟨rfl, rfl, rfl⟩
    case reads =>
      rw [nextRound_of_read (by rw [readStays]; exact reads)]
      exact ⟨rfl, rfl, rfl⟩
    case encoder =>
      rw [ss]
      refine endRound_encoder few hi open_ ((misses_iff s i).2 missed) valid third (fun k hk missing => lowest k hk ?_) absent room
      exact ((misses_iff s k).1 missing).imp_right And.right
    case answered =>
      refine (endRound_onlyChanges_of_answered few fun i hi missing => ?_).trans only
      by_contra valid
      rcases answered i hi (by simpa using valid) with ⟨received, deferred⟩ | ⟨none, deferred⟩
      · rw [misses_eq_false deferred (.inr received)] at missing
        cases missing
      · rw [misses_eq_false deferred (.inl none)] at missing
        cases missing

end Sys2Proof.Machine
end

section
/-! The transmit queues: the selection of a message, and its placing (R1, R10 to R14, R190, R191). -/

namespace Sys2Proof.Machine

open Sys2Proof

/-! ### Selection (R14) -/

theorem beginEntry_append {pre post : List QEntry} {e : QEntry} {c : Nat} (cls : e.msg.body.cls = c)
    (first : ∀ x ∈ pre, x.msg.body.cls ≠ c) : beginEntry c (pre ++ e :: post) = pre ++ { e with active := true } :: post := by
  induction pre with
  | nil => exact if_pos cls
  | cons x pre ih =>
    exact (if_neg (first x List.mem_cons_self)).trans
      (congrArg (x :: ·) (ih fun y hy => first y (List.mem_cons_of_mem x hy)))

theorem beginEntry_of_absent {q : List QEntry} {c : Nat} (absent : ∀ x ∈ q, x.msg.body.cls ≠ c) : beginEntry c q = q := by
  induction q with
  | nil => rfl
  | cons x q ih =>
    refine (if_neg (absent x List.mem_cons_self)).trans ?_
    rw [ih fun y hy => absent y (List.mem_cons_of_mem x hy)]

/-- The lowest class of the queues is that of one of their entries. -/
theorem lowest_class {q : List QEntry} {e : QEntry} (stands : e ∈ q) (lowest : ∀ x ∈ q, e.msg.body.cls ≤ x.msg.body.cls) :
    (q.map fun x => x.msg.body.cls).min? = some e.msg.body.cls :=
  List.min?_eq_some_iff.2 ⟨List.mem_map_of_mem stands, by simpa using lowest⟩

theorem attempt_of_lowest {s : State} {e : QEntry} (idle : s.lif.lineIdle = true) (sends : s.silent = false)
    (free : s.lif.busy = false) (stands : e ∈ s.lif.urgent ++ s.lif.ordinary)
    (lowest : ∀ x ∈ s.lif.urgent ++ s.lif.ordinary, e.msg.body.cls ≤ x.msg.body.cls) : exec .attempt s = .next { s with
      lif.urgent := beginEntry e.msg.body.cls s.lif.urgent
      lif.ordinary := beginEntry e.msg.body.cls s.lif.ordinary
      lif.lineIdle := false } := by
  refine congrArg Host.Outcome.next ((if_pos (by simp [idle, sends, free])).trans ?_)
  rw [lowest_class stands lowest]

theorem attempt_of_empty {s : State} (urgent : s.lif.urgent = []) (ordinary : s.lif.ordinary = []) :
    exec .attempt s = .next s := by
  refine congrArg Host.Outcome.next ?_
  rw [urgent, ordinary]
  exact ite_self _

theorem attempt_of_waiting {s : State} (waits : s.lif.lineIdle = false ∨ s.lif.busy = true ∨ s.silent = true) :
    exec .attempt s = .next s := by
  refine congrArg Host.Outcome.next (if_neg ?_)
  rcases waits with line | busy | silent <;> simp [*]

/-! ### Placing (R10 to R13, R190) -/

theorem place_in_urgent {m : Msg} {s : State} (sound : QueuesSound s) (may : mayQueue m.body s = true) (low : m.body.cls ≤ 1) :
    (HasPlace m s.lif.urgent → ∃ q, place m s = { s with lif.urgent := q } ∧ PlacedIn m s.lif.urgent q) ∧
      (¬ HasPlace m s.lif.urgent → place m s = txDropped s) := by
  obtain ⟨taken, dropped⟩ := enqueue_spec m s.lif.urgent sound.1
  rw [(place_of_taken m s may).1 low]
  refine ⟨fun room => ?_, fun full => ?_⟩
  · obtain ⟨q, eq, placed⟩ := taken room
    exact ⟨q, by rw [eq]; rfl, placed⟩
  · rw [dropped full]
    exact txDrop_eq s

theorem place_in_ordinary {m : Msg} {s : State} (sound : QueuesSound s) (may : mayQueue m.body s = true) (high : 2 ≤ m.body.cls) :
    (HasPlace m s.lif.ordinary → ∃ q, place m s = { s with lif.ordinary := q } ∧ PlacedIn m s.lif.ordinary q) ∧
      (¬ HasPlace m s.lif.ordinary → place m s = txDropped s) := by
  obtain ⟨taken, dropped⟩ := enqueue_spec m s.lif.ordinary sound.2.1
  rw [(place_of_taken m s may).2 high]
  refine ⟨fun room => ?_, fun full => ?_⟩
  · obtain ⟨q, eq, placed⟩ := taken room
    exact ⟨q, by rw [eq]; rfl, placed⟩
  · rw [dropped full]
    exact txDrop_eq s

theorem attentionHas_txDropped (s : State) : attentionHas (txDropped s).attention .txDrop = true := by
  rw [← txDrop_eq]
  exact attentionHas_attentionRaise_self _ _

/-- A REPLY of a node that may send takes a free entry at the end of the ordinary queue, or is dropped and counted. -/
theorem reply_placed {s : State} (open_ : s.ss.safety.isOpen = true) (w : Slot) (code : Nat) (st : Status) (data : ReplyData) :
    (reply w code st data s).lif.urgent = s.lif.urgent ∧
    (s.lif.ordinary.length < 16 → (reply w code st data s).lif.txDrops = s.lif.txDrops ∧
      (reply w code st data s).lif.ordinary = s.lif.ordinary ++ [freshEntry w.station (.reply w.serial code st data)]) ∧
    (16 ≤ s.lif.ordinary.length → (reply w code st data s).lif.ordinary = s.lif.ordinary ∧
      (reply w code st data s).lif.txDrops = min 65535 (s.lif.txDrops + 1) ∧
      attentionHas (reply w code st data s).attention .txDrop = true) := by
  refine ⟨reply_urgent w code st data s, fun room => ?_, fun full => ?_⟩
  · rw [reply_spec w code st data s open_, if_pos room]
    exact ⟨rfl, rfl⟩
  · rw [reply_spec w code st data s open_, if_neg (not_lt.2 full)]
    exact ⟨rfl, rfl, attentionHas_txDropped s⟩

/-- Settles O19: the selection, the placing in each queue, and two replies placed. -/
theorem attemptSelectsTheLowestClassFirst : Obligations.AttemptSelectsTheLowestClassFirst := by
  refine ⟨fun s pre post e idle sends free urgent before after above => ?urgent,
    fun s pre post e idle sends free ordinary before after above => ?ordinary, fun s urgent ordinary => attempt_of_empty urgent ordinary,
    fun s waits => attempt_of_waiting waits, fun m s sound may => ⟨place_in_urgent sound may, place_in_ordinary sound may⟩,
    fun m s not => place_of_not_taken m s not, fun b => ?cls, fun b s => rfl, fun who code status data s => rfl,
    fun h serial start clear s taken => ?counters, fun address v s w open_ active stands same => ?read⟩
  case urgent =>
    rw [attempt_of_lowest (e := e) idle sends free (by simp [urgent]), urgent, beginEntry_append rfl fun x hx => (before x hx).ne',
      beginEntry_of_absent fun x hx => (above x hx).ne']
    intro x hx
    simp only [urgent, List.mem_append, List.mem_cons] at hx
    rcases hx with (hx | rfl | hx) | hx
    · exact (before x hx).le
    · exact le_rfl
    · exact after x hx
    · exact (above x hx).le
  case ordinary =>
    rw [attempt_of_lowest (e := e) idle sends free (by simp [ordinary]), ordinary, beginEntry_append rfl fun x hx => (before x hx).ne',
      beginEntry_of_absent fun x hx => (above x hx).ne']
    intro x hx
    simp only [ordinary, List.mem_append, List.mem_cons] at hx
    rcases hx with hx | hx | rfl | hx
    · exact (above x hx).le
    · exact (before x hx).le
    · exact le_rfl
    · exact after x hx
  case cls => cases b <;> rfl
  case counters =>
    have owner := (statusQueryShowsEachItem.1 h serial start clear s taken).2.2.1
    have open_ : (heard h s).ss.safety.isOpen = true := by
      obtain ⟨_, open_, _⟩ := (obeys_iff h 3 s).1 taken
      simpa using open_
    have placed := reply_placed open_ (caller h serial) 14 .done
      (.counters s.lif.badMessages s.lif.txFailures s.lif.txDrops)
    refine ⟨_, owner, ?_⟩
    simpa only [heard_lif, caller] using placed
  case read =>
    refine ⟨completeRead .done (.value v) s, ?_, ?_⟩
    · rw [readResponse_of_awaited active stands same, if_pos rfl]
    · have attention : (completeRead .done (.value v) s).attention = (reply w.slot codeSensorRead .done (.value v) s).attention := by
        rw [completeRead_of_standing stands]
        simp
      rw [completeRead_lif stands, attention]
      exact reply_placed open_ w.slot 13 .done (.value v)

end Sys2Proof.Machine
end

section
/-! START at its frame (R161, R166, R183). -/

namespace Sys2Proof.Machine

open Sys2Proof

/-- The node with no START pending. -/
def startTaken (s : State) : State := { s with tpr.startPend := none }

theorem startAction_of_frame {s : State} {id : Nat} (open_ : s.ss.safety.isOpen = true)
    (pending : s.tpr.startPend = some { take := id, frame := s.ft.frame }) : exec .startAction s =
      .next (if (startTaken s).qualified id then enterPlaying id (startTaken s) else startUnqualified id (startTaken s)) := by
  refine (whenOpen_eq open_ startIfDue).trans (congrArg _ ?_)
  unfold startIfDue
  rw [pending]
  exact if_pos rfl

theorem startAction_of_other {s : State} (open_ : s.ss.safety.isOpen = true)
    (other : ∀ a, s.tpr.startPend = some a → a.frame ≠ s.ft.frame) : exec .startAction s = .next s := by
  refine (whenOpen_eq open_ startIfDue).trans (congrArg _ ?_)
  unfold startIfDue
  split
  next a pending => exact if_neg (other a pending)
  next => rfl

theorem qualified_iff (s : State) (id : Nat) : s.qualified id = true ↔ s.ss.safety = .armed ∧ s.ss.claims = [] ∧
    s.ss.overflow = false ∧ s.tpr.activity = .cued ∧ s.tpr.take = some id := by
  simp [State.qualified, and_assoc]

/-! ### The qualified node -/

/-- The node that plays, with PLAY requested for its cue channels and the mark of index 0 taken. -/
def playStarted (id : Nat) (s : State) : State :=
  let s := requestEach .play (chanList s.tpr.cueSet) { s with tpr := { s.tpr with activity := .playing, base := 0, cursor := 0 } }
  (s.findTake id).elim s fun t => takeMarks id t 0 s

theorem takeMarks_tpr (id : Nat) (k : Take) (n : Nat) (s : State) : (takeMarks id k n s).tpr = { s.tpr with markIdx := some n } := by
  have announced (l : List Nat) : (l.foldl (fun (u : State) k' =>
      let code := (u.sampleAt k k').mark.toNat
      if code = 0 then u else broadcast (.mark id k' code) u) s).tpr = s.tpr := by
    refine List.foldlRecOn (motive := fun (u : State) => u.tpr = s.tpr) l _ rfl fun u same k' _ => ?_
    dsimp only
    split
    next => exact same
    next => simpa using same
  unfold takeMarks
  dsimp only
  rw [announced]

/-- The columns that the start gives the Take Player. -/
theorem playStarted_tpr (id : Nat) (s : State) : (playStarted id s).tpr = { s.tpr with
    activity := .playing, base := 0, cursor := 0
    markIdx := if (s.findTake id).isSome then some 0 else s.tpr.markIdx } := by
  have found : State.findTake (requestEach .play (chanList s.tpr.cueSet)
      { s with tpr := { s.tpr with activity := .playing, base := 0, cursor := 0 } }) id = s.findTake id := by
    simp [State.findTake]
  unfold playStarted
  dsimp only
  rw [found]
  cases s.findTake id with
  | none => simp
  | some k => simp [takeMarks_tpr]

theorem playStarted_chans (id : Nat) (s : State) : (playStarted id s).chans =
    (requestEach .play (chanList s.tpr.cueSet) { s with tpr := { s.tpr with activity := .playing, base := 0, cursor := 0 } }).chans := by
  unfold playStarted
  dsimp only
  cases State.findTake _ id <;> simp

theorem playStarted_same (id : Nat) (s : State) : SameOutputs s (playStarted id s) := by
  unfold playStarted
  dsimp only
  cases State.findTake _ id <;> exact ⟨by simp, by simp, by simp⟩

theorem playStarted_onlyChanges (id : Nat) (s : State) : OnlyChanges [.lif, .chans, .tpr, .attention] s (playStarted id s) := by
  unfold playStarted
  dsimp only
  cases State.findTake _ id <;> simp [onlyChanges_iff]

theorem enterPlaying_eq (id : Nat) (s : State) : enterPlaying id s =
    if s.tpr.punch then (chanList s.tpr.punchMask).foldl (fun s i => enterLive i s) (playStarted id s) else playStarted id s := by
  have shape : enterPlaying id s = if (playStarted id s).tpr.punch then
      (chanList (playStarted id s).tpr.punchMask).foldl (fun s i => enterLive i s) (playStarted id s) else playStarted id s := by
    unfold enterPlaying playStarted
    cases found : State.findTake (requestEach .play (chanList s.tpr.cueSet)
      { s with tpr := { s.tpr with activity := .playing, base := 0, cursor := 0 } }) id with
    | none => simp only [found, Option.elim_none]
    | some k => simp only [found, Option.elim_some]
  rw [shape, playStarted_tpr]

theorem enterPlaying_tpr (id : Nat) (s : State) : (enterPlaying id s).tpr = { (playStarted id s).tpr with
    liveSet := (enterPlaying id s).tpr.liveSet, live := (enterPlaying id s).tpr.live } := by
  rw [enterPlaying_eq]
  split
  next => exact foldl_enterLive_tpr _ _
  next => rfl

/-- The cue channels of a start without punch-in are in PLAY, where their drive is on. -/
theorem enterPlaying_play {s : State} {id : Nat} (armed : s.ss.safety = .armed) (plain : s.tpr.punch = false) {i : Nat}
    (hi : i < 4) (cued : s.tpr.cueSet.getLsbD i = true) (on : (s.dlu.lines.get i).enable = true) :
    ((enterPlaying id s).chans.get i).mode = .play := by
  rw [enterPlaying_eq, if_neg (by simp [plain]), playStarted_chans]
  have chan := (requestEach_chan (s := { s with tpr := { s.tpr with activity := .playing, base := 0, cursor := 0 } }) armed .play
    (chanList_nodup s.tpr.cueSet) fun i hi => chanList_inside hi).1 i (mem_chanList.2 ⟨hi, cued⟩)
  rw [chan, on]
  exact requested_mode_of_ne_hold (by decide) _

/-- The channels of a punch-in go live at the start. -/
theorem enterPlaying_punch {s : State} {id : Nat} (armed : s.ss.safety = .armed) (punches : s.tpr.punch = true) {i : Nat}
    (hi : i < 4) (punched : s.tpr.punchMask.getLsbD i = true) :
    (enterPlaying id s).tpr.liveSet.getLsbD i = true ∧ (enterPlaying id s).tpr.live.get i = { age := 0, pend := [] } ∧
      ((s.dlu.lines.get i).enable = true → ((enterPlaying id s).chans.get i).mode = .live) := by
  obtain ⟨ss, dlu, _⟩ := playStarted_same id s
  have view := (enterLive_each (s := playStarted id s) (by rw [ss, armed]) (chanList_nodup s.tpr.punchMask)
    fun i hi => chanList_inside hi).1 i (mem_chanList.2 ⟨hi, punched⟩)
  rw [enterPlaying_eq, if_pos punches]
  refine ⟨congrArg LiveView.inSet view, congrArg LiveView.live view, fun on => ?_⟩
  have chan := congrArg LiveView.chan view
  simp only [State.liveView, dlu, on] at chan
  rw [chan]
  exact requested_mode_of_ne_hold (by decide) _

theorem enterPlaying_onlyChanges (id : Nat) (s : State) : OnlyChanges [.lif, .chans, .tpr, .attention] s (enterPlaying id s) := by
  rw [enterPlaying_eq]
  split
  next =>
    refine (playStarted_onlyChanges id s).trans (foldl_onlyChanges (fun u i => ?_) _ _)
    simp [onlyChanges_iff]
  next => exact playStarted_onlyChanges id s

/-! ### The node that is not qualified -/

theorem startUnqualified_of_plays {id : Nat} {s : State} (plays : s.tpr.activity = .playing ∨ s.tpr.activity = .easing) :
    startUnqualified id s = s := if_pos (by rcases plays with p | e <;> simp [Activity.plays, *])

section
variable {id : Nat} {s : State} (notPlaying : s.tpr.activity ≠ .playing) (notEasing : s.tpr.activity ≠ .easing)
include notPlaying notEasing

theorem startUnqualified_of_held (held : (s.findTake id).isSome = true) : startUnqualified id s =
    if s.tpr.activity = .cueing ∧ s.tpr.take = some id then passageToIdle .cancelled (broadcast (.abort id) s)
    else broadcast (.abort id) s := by
  have still : ¬ s.tpr.activity.plays = true := by
    cases activity : s.tpr.activity <;> simp_all [Activity.plays]
  refine (if_neg still).trans ((if_pos held).trans ?_)
  simp

theorem startUnqualified_of_absent (absent : s.findTake id = none) : startUnqualified id s = s := by
  have still : ¬ s.tpr.activity.plays = true := by
    cases activity : s.tpr.activity <;> simp_all [Activity.plays]
  exact (if_neg still).trans (if_neg (by simp [absent]))

end

theorem startAction_of_unqualified {s : State} {id : Nat} (open_ : s.ss.safety.isOpen = true)
    (pending : s.tpr.startPend = some { take := id, frame := s.ft.frame })
    (not : ¬ (s.ss.safety = .armed ∧ s.ss.claims = [] ∧ s.ss.overflow = false ∧ s.tpr.activity = .cued ∧ s.tpr.take = some id)) :
    exec .startAction s = .next (startUnqualified id (startTaken s)) := by
  rw [startAction_of_frame open_ pending, if_neg fun qualified => not ((qualified_iff (startTaken s) id).1 qualified)]

theorem not_qualified {s : State} {id : Nat} (unqualified : s.ss.safety ≠ .armed ∨ s.ss.claims ≠ [] ∨ s.ss.overflow = true ∨
    s.tpr.activity ≠ .cued ∨ s.tpr.take ≠ some id) :
    ¬ (s.ss.safety = .armed ∧ s.ss.claims = [] ∧ s.ss.overflow = false ∧ s.tpr.activity = .cued ∧ s.tpr.take = some id) := by
  rintro ⟨armed, claims, overflow, cued, take⟩
  rcases unqualified with other | other | other | other | other
  · exact other armed
  · exact other claims
  · simp [overflow] at other
  · exact other cued
  · exact other take

/-- Settles O15: the start of a qualified node, and the branches of `startUnqualified`. -/
theorem startActsOnTheQualifiedNode : Obligations.StartActsOnTheQualifiedNode := by
  refine ⟨fun s id armed noClaims noOverflow cued take pending => ?qualified, fun s id open_ pending notArmed held idle => ?idle,
    fun s id open_ pending held cueing take => ?cueing, fun s id open_ pending plays => ?plays,
    fun s id open_ pending notPlaying notEasing unqualified => ⟨fun held other => ?held, fun absent => ?absent⟩,
    fun s open_ other => startAction_of_other open_ other⟩
  case qualified =>
    have qualified : (startTaken s).qualified id = true :=
      (qualified_iff (startTaken s) id).2 ⟨armed, noClaims, noOverflow, cued, take⟩
    have tpr := enterPlaying_tpr id (startTaken s)
    have started := playStarted_tpr id (startTaken s)
    refine ⟨enterPlaying id (startTaken s), ?_, by rw [tpr, started], by rw [tpr, started]; exact take, by rw [tpr, started],
      by rw [tpr, started], by rw [tpr, started]; rfl, fun held => ?_,
      fun _ plain i hi inSet on => enterPlaying_play (s := startTaken s) armed plain hi inSet on,
      fun punches i hi punched => enterPlaying_punch (s := startTaken s) armed punches hi punched, ?_⟩
    · rw [startAction_of_frame (by rw [armed]; rfl) pending, if_pos qualified]
    · have held' : ((startTaken s).findTake id).isSome = true := held
      rw [tpr, started, if_pos held']
      rfl
    · have taken : OnlyChanges [.tpr] s (startTaken s) := by simp [onlyChanges_iff, startTaken]
      exact (taken.mono (by simp)).trans (enterPlaying_onlyChanges id _)
  case idle =>
    rw [startAction_of_unqualified open_ pending fun all => notArmed all.1,
      startUnqualified_of_held (s := startTaken s) (by simp [startTaken, idle]) (by simp [startTaken, idle]) held,
      if_neg (by simp [startTaken, idle])]
    rfl
  case cueing =>
    have tpr := passageToIdle_tpr .cancelled (broadcast (.abort id) (startTaken s))
    refine ⟨passageToIdle .cancelled (broadcast (.abort id) (startTaken s)), ?_, rfl, by rw [tpr]; rfl, by rw [tpr], by rw [tpr]⟩
    rw [startAction_of_unqualified open_ pending fun all => by simp [cueing] at all,
      startUnqualified_of_held (s := startTaken s) (by simp [startTaken, cueing]) (by simp [startTaken, cueing]) held,
      if_pos ⟨cueing, take⟩]
  case plays =>
    rw [startAction_of_unqualified open_ pending fun all => by rcases plays with p | e <;> simp [*] at all,
      startUnqualified_of_plays (s := startTaken s) plays, startTaken]
  case held =>
    rw [startAction_of_unqualified open_ pending (not_qualified unqualified), startUnqualified_of_held (s := startTaken s) notPlaying notEasing held,
      if_neg (by rintro ⟨cueing, take⟩; exact other.elim (· cueing) (· take))]
    rfl
  case absent =>
    rw [startAction_of_unqualified open_ pending (not_qualified unqualified), startUnqualified_of_absent (s := startTaken s) notPlaying notEasing absent]
    rfl

end Sys2Proof.Machine
end

section
/-! ABORT at its frame, and the ends of a take (R149, R154, R163, R165, R167, R168, R185). -/

namespace Sys2Proof.Machine

open Sys2Proof

/-! ### Live control left (R174, R185) -/

theorem leaveLive_tpr (i : Nat) (s : State) : (leaveLive i s).tpr =
    { s.tpr with
      liveSet := s.tpr.liveSet &&& ~~~(1#4 <<< i)
      live := s.tpr.live.set i { s.tpr.live.get i with pend := [] } } := by
  simp [leaveLive, modLive]

theorem leaveLive_chan_other {i j : Nat} (hi : i < 4) (hj : j < 4) (ne : j ≠ i) (s : State) :
    (leaveLive i s).chans.get j = s.chans.get j := by
  unfold leaveLive requestByPlayer
  split
  · rfl
  · rfl
  · rw [requestMode_chan _ hi hj, if_neg ne]
    rfl

theorem leaveLive_other {i j : Nat} (hi : i < 4) (hj : j < 4) (ne : j ≠ i) (s : State) :
    (leaveLive i s).liveView j = s.liveView j := by
  simp only [State.liveView, leaveLive_chan_other hi hj ne, leaveLive_tpr, quad_get_set _ _ _ _ hi hj, if_neg ne,
    getLsbD_erase _ i hi j hj]
  simp [ne]

/-- The channels of a list without live control. -/
def leaveEach (is : List Nat) (s : State) : State := is.foldl (fun s i => leaveLive i s) s

theorem leaveEach_tpr (is : List Nat) (s : State) : (leaveEach is s).tpr =
    { s.tpr with liveSet := (leaveEach is s).tpr.liveSet, live := (leaveEach is s).tpr.live } := by
  refine List.foldlRecOn (motive := fun (u : State) => u.tpr = { s.tpr with liveSet := u.tpr.liveSet, live := u.tpr.live }) is _ rfl
    fun u same i _ => ?_
  rw [leaveLive_tpr, same]

section
variable {is : List Nat} (each : is.Nodup) (inside : ∀ i ∈ is, i < 4) (s : State)
include each inside

theorem leaveEach_view : (∀ i ∈ is, ((leaveEach is s).liveView i).live.pend = [] ∧ ((leaveEach is s).liveView i).inSet = false) ∧
    ∀ j < 4, j ∉ is → (leaveEach is s).liveView j = s.liveView j := by
  refine foldl_each (side := fun _ => True) (view := State.liveView) (change := fun _ _ w => w.live.pend = [] ∧ w.inSet = false)
    each inside (fun _ _ _ _ => trivial) (fun u i hi _ => ?own)
    (fun u i hi j hj ne _ => leaveLive_other (inside i hi) hj ne u) trivial
  case own =>
    have four := inside i hi
    simp only [State.liveView, leaveLive_tpr, quad_get_set _ _ _ _ four four, if_pos, getLsbD_erase _ i four i four]
    simp

theorem leaveEach_halts (armed : s.ss.safety = .armed) {i : Nat} (hi : i ∈ is) (on : (s.dlu.lines.get i).enable = true) :
    ((leaveEach is s).chans.get i).mode = .halt := by
  have armedAt {u : State} (same : SameOutputs s u) : u.ss.safety = .armed := by rw [same.1, armed]
  have view := (foldl_each (f := fun u i => leaveLive i u) (side := SameOutputs s) (view := State.liveView)
    (change := fun i v w => w = unlive s i v) each inside (fun u i _ same => same.leaveLive i)
    (fun u i hi same => by
      rw [leaveLive_view (inside i hi) (inside i hi) (armedAt same), if_pos rfl]
      simp only [unlive, same.2.1, same.2.2])
    (fun u i hi j hj ne same => by rw [leaveLive_view (inside i hi) hj (armedAt same), if_neg ne]) (.refl s)).1 i hi
  have chan : (leaveEach is s).chans.get i = _ := congrArg LiveView.chan view
  rw [chan]
  simp only [unlive, on]
  exact requested_mode_of_ne_hold (by decide) _

end

/-! ### ABORT (R167, R185) -/

/-- The node with its ABORT taken, and with it a START of the same take in the same frame. -/
def abortTaken (id : Nat) (s : State) : State :=
  { s with tpr := { s.tpr with
      abortPend := none
      startPend := if s.tpr.startPend = some { take := id, frame := s.ft.frame } then none else s.tpr.startPend } }

theorem abortAction_of_frame {s : State} {id : Nat} (open_ : s.ss.safety.isOpen = true)
    (pending : s.tpr.abortPend = some { take := id, frame := s.ft.frame }) (take : s.tpr.take = some id) :
    exec .abortAction s = .next (abortTake (abortTaken id s)) := by
  refine (whenOpen_eq open_ abortIfDue).trans (congrArg _ ?_)
  unfold abortIfDue
  rw [pending]
  refine (if_pos rfl).trans ?_
  by_cases same : s.tpr.startPend = some { take := id, frame := s.ft.frame }
  · simp [abortTaken, same, take]
  · simp [abortTaken, same, take]

/-- The node that eases, with the ease flag set for the frame. -/
def easing (s : State) : State := easeFor s.ft.frame true { s with tpr.activity := .easing }

theorem abortTake_of_playing {s : State} (playing : s.tpr.activity = .playing) : abortTake s = endPunch (easing s) := by
  simp [abortTake, playing, easing]

theorem abortTake_of_cueing {s : State} (cueing : s.tpr.activity = .cueing ∨ s.tpr.activity = .cued) :
    abortTake s = passageToIdle .cancelled s := by
  rcases cueing with at_ | at_ <;> simp [abortTake, at_]

theorem endPunch_of_plain {s : State} (plain : s.tpr.punch = false) : endPunch s = s := if_neg (by simp [plain])

theorem endPunch_of_punch {s : State} (punches : s.tpr.punch = true) : endPunch s =
    { leaveEach (chanList s.tpr.punchMask) s with
      tpr := { (leaveEach (chanList s.tpr.punchMask) s).tpr with punch := false, punchMask := 0, punchIdx := none } } :=
  if_pos punches

theorem endPunch_tpr (s : State) : (endPunch s).tpr = { s.tpr with
    punch := false, punchMask := (endPunch s).tpr.punchMask, punchIdx := (endPunch s).tpr.punchIdx
    liveSet := (endPunch s).tpr.liveSet, live := (endPunch s).tpr.live } := by
  cases punch : s.tpr.punch with
  | true =>
    rw [endPunch_of_punch punch, leaveEach_tpr]
  | false =>
    rw [endPunch_of_plain punch, ← punch]

/-- The end of punch-in at each channel (R185). -/
theorem endPunch_channel {s : State} (punches : s.tpr.punch = true) : (endPunch s).tpr.punchMask = 0 ∧
    (endPunch s).tpr.punchIdx = none ∧ (endPunch s).tpr.liveSet = s.tpr.liveSet &&& ~~~s.tpr.punchMask ∧ ∀ i < 4,
      (s.tpr.punchMask.getLsbD i = true → ((endPunch s).tpr.live.get i).pend = [] ∧
        (s.ss.safety = .armed → (s.dlu.lines.get i).enable = true → ((endPunch s).chans.get i).mode = .halt)) ∧
      (s.tpr.punchMask.getLsbD i = false → (endPunch s).chans.get i = s.chans.get i ∧
        (endPunch s).tpr.live.get i = s.tpr.live.get i) := by
  have each := chanList_nodup s.tpr.punchMask
  have inside : ∀ i ∈ chanList s.tpr.punchMask, i < 4 := fun i hi => chanList_inside hi
  obtain ⟨listed, unlisted⟩ := leaveEach_view each inside s
  have outside {i : Nat} (hi : i < 4) (not : s.tpr.punchMask.getLsbD i = false) : i ∉ chanList s.tpr.punchMask := fun mem => by
    simp [(mem_chanList.1 mem).2] at not
  rw [endPunch_of_punch punches]
  refine ⟨rfl, rfl, ?_, fun i hi => ⟨fun punched => ⟨?_, fun armed on => ?_⟩, fun not => ?_⟩⟩
  · refine BitVec.eq_of_getLsbD_eq fun i hi => ?_
    rw [getLsbD_without _ _ i hi]
    cases punched : s.tpr.punchMask.getLsbD i with
    | true =>
      have out : (leaveEach (chanList s.tpr.punchMask) s).tpr.liveSet.getLsbD i = false :=
        (listed i (mem_chanList.2 ⟨hi, punched⟩)).2
      simp [out]
    | false =>
      have stays : (leaveEach (chanList s.tpr.punchMask) s).tpr.liveSet.getLsbD i = s.tpr.liveSet.getLsbD i :=
        congrArg LiveView.inSet (unlisted i hi (outside hi punched))
      simp [stays]
  · exact (listed i (mem_chanList.2 ⟨hi, punched⟩)).1
  · exact leaveEach_halts each inside s armed (mem_chanList.2 ⟨hi, punched⟩) on
  · have view := unlisted i hi (outside hi not)
    exact ⟨congrArg LiveView.chan view, congrArg LiveView.live view⟩

/-! ### The ends of a take (R154, R165, R168) -/

theorem endOfTake_of_take {s : State} {id : Nat} {k : Take} (take : s.tpr.take = some id) (found : s.findTake id = some k) :
    endOfTake s = if s.cueSettled = true ∧ (s.tpr.activity = .playing ∧ k.cap = some s.tpr.cursor ∨
      s.tpr.activity = .easing ∧ (k.cap = some s.tpr.cursor ∨ s.pu.applied = 0)) then passageToIdle .done s else s := by
  unfold endOfTake
  simp only [take, Option.bind_some, found]
  cases s.tpr.activity <;> simp

theorem endOfTake_of_other {s : State} (notPlaying : s.tpr.activity ≠ .playing) (notEasing : s.tpr.activity ≠ .easing) :
    endOfTake s = s := by
  unfold endOfTake
  split
  next =>
    dsimp only
    split
    next playing => exact absurd playing notPlaying
    next easing => exact absurd easing notEasing
    next => rfl
  next => rfl

/-- A take that has played, after its end (R149). -/
def Take.spent (k : Take) : Take := if k.kind = .stream then { k with state := .spent, held := false } else k

theorem passageToIdle_findTake (st : Status) {s : State} {id : Nat} {k : Take}
    (plays : s.tpr.activity = .playing ∨ s.tpr.activity = .easing) (take : s.tpr.take = some id) (found : s.findTake id = some k) :
    (passageToIdle st s).findTake id = some k.spent := by
  have held : (holdAll s).findTake id = some k := by
    rw [← found]
    simp [State.findTake]
  have spends : spendPlayed (holdAll s) = modTake id Take.spent (holdAll s) := by
    have tpr : (holdAll s).tpr = s.tpr := by simp
    refine Eq.trans ?_ (spendStream_modTake id (holdAll s))
    unfold spendPlayed
    rw [tpr, take]
    rcases plays with at_ | at_ <;> rw [at_]
  have dir : (passageToIdle st s).findTake id = (spendPlayed (holdAll s)).findTake id :=
    congrArg (fun ts : Ts => ts.dir.findSome? _) (passageToIdle_ts st s)
  rw [dir, spends]
  exact findTake_modTake (fun t => by unfold Take.spent; split <;> rfl) held

theorem passageToIdle_store (st : Status) (s : State) : (passageToIdle st s).ts.store = s.ts.store := by
  rw [passageToIdle_ts, spendPlayed_store]
  simp

theorem passageToIdle_onlyChanges (st : Status) (s : State) :
    OnlyChanges [.lif, .chans, .pu, .ts, .tpr, .attention] s (passageToIdle st s) := by
  simp [onlyChanges_iff, passageToIdle_store]

theorem passageToIdle_onlyChanges_of_not_plays (st : Status) {s : State} (still : s.tpr.activity.plays = false) :
    OnlyChanges [.lif, .chans, .pu, .tpr, .attention] s (passageToIdle st s) := by
  simp [onlyChanges_iff, passageToIdle_ts_of_not_plays st still]

/-- Settles O16: ABORT in PLAYING, and in CUEING and CUED, and the ends of a take. -/
theorem abortActsAtItsFrame : Obligations.AbortActsAtItsFrame := by
  refine ⟨fun s id open_ pending take playing => ?playing, fun s id open_ pending take cueing => ?cueing, fun k => ?cap,
    fun s id k take found settled ends => ?ends, fun s id k take found not => ?goesOn,
    fun s notPlaying notEasing => endOfTake_of_other notPlaying notEasing⟩
  case playing =>
    have taken := abortAction_of_frame open_ pending take
    rw [abortTake_of_playing (s := abortTaken id s) playing] at taken
    have tpr := endPunch_tpr (easing (abortTaken id s))
    refine ⟨_, taken, by rw [tpr]; rfl, by rw [tpr]; rfl, by rw [tpr]; exact take, by rw [tpr], ?_, fun same => ?_, by rw [tpr]; rfl,
      ?_, fun plain => ?_, fun punches => ?_⟩
    · have pu : (endPunch (easing (abortTaken id s))).pu = (easing (abortTaken id s)).pu := by simp
      rw [pu]
      exact (getPend_setPend _ _ _ _).trans (if_pos rfl)
    · rw [tpr]
      exact if_pos same
    · simp [onlyChanges_iff, easing, abortTaken]
    · rw [endPunch_of_plain (s := easing (abortTaken id s)) plain]
      exact ⟨rfl, rfl, rfl, rfl, rfl⟩
    · exact endPunch_channel (s := easing (abortTaken id s)) punches
  case cueing =>
    have taken := abortAction_of_frame open_ pending take
    rw [abortTake_of_cueing (s := abortTaken id s) cueing] at taken
    have tpr := passageToIdle_tpr .cancelled (abortTaken id s)
    have still : (abortTaken id s).tpr.activity.plays = false := by
      rcases cueing with at_ | at_ <;> simp [abortTaken, at_, Activity.plays]
    obtain ⟨lif, _⟩ := passageToIdle_sends .cancelled (abortTaken id s)
    refine ⟨_, taken, by rw [tpr]; rfl, by rw [tpr]; rfl, by rw [tpr], by rw [tpr], by rw [tpr], by rw [tpr], by rw [tpr],
      fun w waits => ?_, passageToIdle_ts_of_not_plays _ still, ?_⟩
    · have waits' : (abortTaken id s).tpr.cueCompletion = some w := waits
      rw [lif, waits']
      exact reply_same w codeCue .cancelled .none rfl rfl rfl rfl
    · have aborted : OnlyChanges [.tpr] s (abortTaken id s) := by simp [onlyChanges_iff, abortTaken]
      exact (aborted.mono (by simp)).trans (passageToIdle_onlyChanges_of_not_plays _ still)
  case cap => cases kind : k.kind <;> simp [Take.cap, kind]
  case ends =>
    have plays : s.tpr.activity = .playing ∨ s.tpr.activity = .easing := ends.imp And.left And.left
    have idle : endOfTake s = passageToIdle .done s := by
      rw [endOfTake_of_take take found, if_pos ⟨cueSettled_iff.2 settled, ends⟩]
    have tpr := passageToIdle_tpr .done s
    have left := passageToIdle_findTake .done plays take found
    rw [idle]
    refine ⟨by rw [tpr]; rfl, by rw [tpr], by rw [tpr], by rw [tpr], by rw [tpr], by rw [tpr], by rw [tpr], by rw [tpr],
      by rw [tpr]; rfl, by rw [tpr]; rfl, by rw [tpr]; rfl, fun resident => ?_, fun stream => ?_, ?_, fun on => ?_,
      (passageToIdle_pu .done s).1, fun none => ?_, fun armed few i hi on other => passageToIdle_mode .done armed few hi on other,
      passageToIdle_onlyChanges .done s⟩
    · rw [left, Take.spent, if_neg (by simp [resident])]
    · rw [left, Take.spent, if_pos stream]
    · exact passageToIdle_store .done s
    · rw [(passageToIdle_pu .done s).2 on]
      exact (getPend_setPend _ _ _ _).trans (if_pos rfl)
    · rw [(passageToIdle_sends .done s).1, none]
      rfl
  case goesOn =>
    rw [endOfTake_of_take take found, if_neg]
    rintro ⟨settled, ends⟩
    rcases not with ⟨i, hi, inSet, moving⟩ | ⟨before, plays⟩
    · rw [cueSettled_iff.1 settled i hi inSet] at moving
      cases moving
    · rcases ends with ⟨playing, cap⟩ | ⟨easing, cap | still⟩
      · exact before cap
      · exact before cap
      · rcases plays with playing | moves
        · simp [playing] at easing
        · exact moves still

end Sys2Proof.Machine
end

section
/-! The limiter, the deceleration and the requests for a mode (O49). -/

namespace Sys2Proof.Machine

open Sys2Proof

/-! ### The limiter toward a target (R66, R67) -/

theorem clampInt_of_le {a : Nat} {x : Int} (small : x.natAbs ≤ a) : clampInt (-(a : Int)) a x = x := by
  unfold clampInt; omega

theorem limiter_step_le (amax limit : Nat) (d v : Int) :
    limiter amax limit d v - v ≤ amax ∧ v - limiter amax limit d v ≤ amax := by
  unfold limiter clampInt
  dsimp only
  omega

theorem limiter_of_reach {amax limit : Nat} {d v : Int}
    (reach : (d.sign * (min limit (brakeSpeed amax d) : Nat) - v).natAbs ≤ amax) :
    limiter amax limit d v = d.sign * (min limit (brakeSpeed amax d) : Nat) := by
  unfold limiter
  dsimp only
  rw [clampInt_of_le reach]
  omega

theorem limiter_zero_zero (amax limit : Nat) : limiter amax limit 0 0 = 0 := by
  refine (limiter_of_reach ?_).trans ?_ <;> simp

/-- The speed the limiter gives toward a target ahead: the wanted speed, as near to it as one tick comes. -/
def limitedSpeed (amax limit d v : Nat) : Nat := max (v - amax) (min (v + amax) (min limit (brakeSpeed amax d)))

theorem sign_mul_brakeSpeed {amax : Nat} (ha : 1 ≤ amax) (limit d : Nat) :
    (d : Int).sign * (min limit (brakeSpeed amax d) : Nat) = (min limit (brakeSpeed amax d) : Nat) := by
  rcases Nat.eq_zero_or_pos d with rfl | pos
  · simp [brakeSpeed_zero ha]
  · rw [Int.sign_eq_one_of_pos (by omega), Int.one_mul]

theorem brakeSpeed_neg (amax : Nat) (d : Int) : brakeSpeed amax (-d) = brakeSpeed amax d := by
  simp [brakeSpeed]

theorem limiter_ahead {amax : Nat} (ha : 1 ≤ amax) (limit d v : Nat) :
    limiter amax limit d v = limitedSpeed amax limit d v := by
  unfold limiter limitedSpeed clampInt
  dsimp only
  rw [sign_mul_brakeSpeed ha]
  omega

theorem limiter_neg (amax limit : Nat) (d v : Int) : limiter amax limit (-d) (-v) = -limiter amax limit d v := by
  unfold limiter clampInt
  dsimp only
  rw [brakeSpeed_neg, Int.sign_neg, Int.neg_mul]
  omega

theorem limitedSpeed_stops {amax limit d v : Nat} (ha : 1 ≤ amax) (reach : stopDistance amax (v - amax) ≤ d) :
    stopDistance amax (limitedSpeed amax limit d v) ≤ d := by
  have target : stopDistance amax (min (v + amax) (min limit (brakeSpeed amax d))) ≤ d :=
    (stopDistance_mono ha (by omega)).trans (stopDistance_brakeSpeed_le ha d)
  unfold limitedSpeed
  rcases Nat.le_total (v - amax) (min (v + amax) (min limit (brakeSpeed amax d))) with less | more
  · rwa [Nat.max_eq_right less]
  · rwa [Nat.max_eq_left more]

/-- A speed that stops within a distance stops, after one tick at it, within what is left. -/
theorem stopDistance_after {amax d w : Nat} (ha : 1 ≤ amax) (stops : stopDistance amax w ≤ d) :
    w ≤ d ∧ stopDistance amax (w - amax) ≤ d - w := by
  refine ⟨(le_stopDistance ha w).trans stops, ?_⟩
  rcases Nat.lt_or_ge w amax with slow | fast
  · rw [Nat.sub_eq_zero_of_le slow.le, stopDistance_of_lt (by omega)]
    omega
  · rw [stopDistance_of_le ha fast] at stops
    omega

theorem limiter_keeps_reach {amax : Nat} (limit : Nat) {d v : Nat} (ha : 1 ≤ amax)
    (reach : stopDistance amax (v - amax) ≤ d) :
    ∃ w : Nat, limiter amax limit d v = w ∧ w ≤ d ∧ stopDistance amax (w - amax) ≤ d - w :=
  ⟨limitedSpeed amax limit d v, limiter_ahead ha limit d v, stopDistance_after ha (limitedSpeed_stops ha reach)⟩

/-- From rest short of the target the limiter moves. -/
theorem limitedSpeed_of_rest {amax limit d : Nat} (ha : 1 ≤ amax) (hl : 1 ≤ limit) (short : 1 ≤ d) :
    1 ≤ limitedSpeed amax limit d 0 := by
  have one : stopDistance amax 1 ≤ d := by
    rcases Nat.lt_or_ge 1 amax with slow | fast
    · rwa [stopDistance_of_lt slow]
    · obtain rfl : amax = 1 := by omega
      exact short
  have := le_brakeSpeed (d := (d : Int)) ha one
  unfold limitedSpeed
  omega

/-- One tick of a channel whose target is at a distance: the distance left and the velocity. -/
def approach (amax limit : Nat) (p : Int × Int) : Int × Int :=
  (p.1 - limiter amax limit p.1 p.2, limiter amax limit p.1 p.2)

theorem approach_ahead {amax limit d v w : Nat} (speed : limiter amax limit d v = w)
    (le : w ≤ d) : approach amax limit (d, v) = (((d - w : Nat) : Int), (w : Int)) := by
  simp [approach, speed, Nat.cast_sub le]

/-- Arrival, by induction on the distance: a tick that moves shortens it, and a tick that stands still is followed by one
that moves. -/
theorem approach_arrives {amax limit : Nat} (ha : 1 ≤ amax) (hl : 1 ≤ limit) (d : Nat) :
    ∀ v : Nat, stopDistance amax (v - amax) ≤ d → ∃ n : Nat, (approach amax limit)^[n] (d, v) = (0, 0) := by
  induction d using Nat.strongRecOn with
  | _ d shorter =>
    have moving : ∀ v w : Nat, limiter amax limit d v = w → w ≤ d → stopDistance amax (w - amax) ≤ d - w → 1 ≤ w →
        ∃ n : Nat, (approach amax limit)^[n] (d, v) = (0, 0) := by
      intro v w speed le reach pos
      obtain ⟨n, arrives⟩ := shorter (d - w) (by omega) w reach
      refine ⟨n + 1, ?_⟩
      rw [Function.iterate_succ_apply, approach_ahead speed le, arrives]
    intro v reach
    obtain ⟨w, speed, le, reach'⟩ := limiter_keeps_reach limit ha reach
    rcases Nat.eq_zero_or_pos w with rfl | pos
    · have first : approach amax limit (d, v) = ((d : Int), ((0 : Nat) : Int)) := approach_ahead speed le
      rcases Nat.eq_zero_or_pos d with rfl | short
      · exact ⟨1, first⟩
      · have still : stopDistance amax (0 - amax) ≤ d := by
          rw [Nat.zero_sub, stopDistance_of_lt (by omega)]
          omega
        obtain ⟨w, speed, le, reach⟩ := limiter_keeps_reach limit ha still
        have goes : 1 ≤ w := by
          have := limitedSpeed_of_rest (d := d) ha hl short
          rw [limiter_ahead ha] at speed
          omega
        obtain ⟨n, arrives⟩ := moving 0 w speed le reach goes
        refine ⟨n + 1, ?_⟩
        rw [Function.iterate_succ_apply, first, arrives]
    · exact moving v w speed le reach' pos

/-! ### HALT and STOP (R68) -/

theorem decelerate_of_small {a : Nat} {v : Int} (small : v.natAbs ≤ a) : decelerate a v = 0 := by
  unfold decelerate
  rw [Nat.min_eq_left small, Int.sign_mul_natAbs]
  omega

theorem decelerate_of_forward {a : Nat} {v : Int} (fast : (a : Int) ≤ v) : decelerate a v = v - a := by
  rcases eq_or_ne v 0 with rfl | moving
  · obtain rfl : a = 0 := by omega
    rfl
  · unfold decelerate
    rw [Nat.min_eq_right (by omega), Int.sign_eq_one_of_pos (by omega), Int.one_mul]

theorem decelerate_of_backward {a : Nat} {v : Int} (fast : v ≤ -(a : Int)) : decelerate a v = v + a := by
  rcases eq_or_ne v 0 with rfl | moving
  · obtain rfl : a = 0 := by omega
    rfl
  · unfold decelerate
    rw [Nat.min_eq_right (by omega), Int.sign_eq_neg_one_of_neg (by omega)]
    omega

@[simp] theorem decelerate_zero (a : Nat) : decelerate a 0 = 0 := decelerate_of_small (Nat.zero_le a)

/-! ### The computation of a channel, mode by mode -/

theorem settleHalt_of_moving {c : Chan} (moving : c.rested = false) : c.settleHalt = c :=
  if_neg fun both => by simp [moving] at both

theorem settleHalt_of_rested {c : Chan} (mode : c.mode = .halt) (rested : c.rested = true) :
    c.settleHalt = { c with
      mode := .hold
      held := c.x
      dev := 0 } :=
  if_pos ⟨mode, rested⟩

/-- What follows the movement of a tick: the deviation check, the reported value and the bit of a rest reached (R57, R70,
R72). -/
def Chan.finish (inp : TickInput) (mode : Mode) (moved : Chan) : Chan :=
  { moved.checkDeviation inp with
    uRep := if inp.valid then inverse inp.cfg.table inp.position else 0
    rested := mode == .halt && moved.v == 0 }

theorem compute_off (inp : TickInput) {c : Chan} (mode : c.mode = .off) :
    c.compute inp = (c.follow inp).finish inp .off := by
  have self : c.settleHalt = c := if_neg fun both => by simp [mode] at both
  simp [Chan.compute, self, mode, Chan.finish]

theorem compute_hold (inp : TickInput) {c : Chan} (mode : c.mode = .hold) :
    c.compute inp = (c.drive inp (pacedSpeed inp.cfg.vcue inp.pace) none c.held inp.arming).finish inp .hold := by
  have self : c.settleHalt = c := if_neg fun both => by simp [mode] at both
  simp [Chan.compute, self, mode, Chan.finish]

theorem compute_halt (inp : TickInput) {c : Chan} (mode : c.mode = .halt) (moving : c.rested = false) :
    c.compute inp = (c.brakeTo inp inp.cfg.amax).finish inp .halt := by
  simp [Chan.compute, settleHalt_of_moving moving, mode, Chan.finish]

theorem compute_stop (inp : TickInput) {c : Chan} (mode : c.mode = .stop) :
    c.compute inp = (c.brakeTo inp inp.cfg.astop).finish inp .stop := by
  have self : c.settleHalt = c := if_neg fun both => by simp [mode] at both
  simp [Chan.compute, self, mode, Chan.finish]

theorem compute_live (inp : TickInput) {c : Chan} (mode : c.mode = .live) :
    c.compute inp = (c.drive inp (pacedSpeed inp.cfg.vmax inp.pace)
      (some (interpolate c.gPrev c.gCur (inp.tick * 4096 / inp.ticks)))
      (cal inp.cfg.table (interpolate c.gPrev c.gCur (inp.tick * 4096 / inp.ticks))) false).finish inp .live := by
  have self : c.settleHalt = c := if_neg fun both => by simp [mode] at both
  simp [Chan.compute, self, mode, Chan.finish]

theorem compute_cue (inp : TickInput) {c : Chan} (mode : c.mode = .cue) :
    c.compute inp = (c.drive inp (pacedSpeed inp.cfg.vcue inp.pace) (some inp.takeValue)
      (cal inp.cfg.table inp.takeValue) false).finish inp .cue := by
  have self : c.settleHalt = c := if_neg fun both => by simp [mode] at both
  simp [Chan.compute, self, mode, Chan.finish]

theorem compute_play (inp : TickInput) {c : Chan} (mode : c.mode = .play) :
    c.compute inp = (c.drive inp inp.cfg.vmax (some inp.takeValue)
      (cal inp.cfg.table inp.takeValue) false).finish inp .play := by
  have self : c.settleHalt = c := if_neg fun both => by simp [mode] at both
  simp [Chan.compute, self, mode, Chan.finish]

section finish

variable (inp : TickInput) (mode : Mode) (c : Chan)

@[simp] theorem finish_mode : (c.finish inp mode).mode = c.mode := by unfold Chan.finish Chan.checkDeviation; split <;> rfl
@[simp] theorem finish_x : (c.finish inp mode).x = c.x := by unfold Chan.finish Chan.checkDeviation; split <;> rfl
@[simp] theorem finish_v : (c.finish inp mode).v = c.v := by unfold Chan.finish Chan.checkDeviation; split <;> rfl
@[simp] theorem finish_u : (c.finish inp mode).u = c.u := by unfold Chan.finish Chan.checkDeviation; split <;> rfl
@[simp] theorem finish_tRaw : (c.finish inp mode).tRaw = c.tRaw := by
  unfold Chan.finish Chan.checkDeviation; split <;> rfl
@[simp] theorem finish_t : (c.finish inp mode).t = c.t := by unfold Chan.finish Chan.checkDeviation; split <;> rfl
@[simp] theorem finish_held : (c.finish inp mode).held = c.held := by
  unfold Chan.finish Chan.checkDeviation; split <;> rfl
@[simp] theorem finish_gPrev : (c.finish inp mode).gPrev = c.gPrev := by
  unfold Chan.finish Chan.checkDeviation; split <;> rfl
@[simp] theorem finish_gCur : (c.finish inp mode).gCur = c.gCur := by
  unfold Chan.finish Chan.checkDeviation; split <;> rfl
@[simp] theorem finish_halt : (c.finish inp mode).halt = c.halt := by
  unfold Chan.finish Chan.checkDeviation; split <;> rfl
@[simp] theorem finish_clamped : (c.finish inp mode).clamped = c.clamped := by
  unfold Chan.finish Chan.checkDeviation; split <;> rfl
@[simp] theorem finish_settled : (c.finish inp mode).settled = c.settled := by
  unfold Chan.finish Chan.checkDeviation; split <;> rfl
@[simp] theorem finish_atRest : (c.finish inp mode).atRest = c.atRest := by
  unfold Chan.finish Chan.checkDeviation; split <;> rfl
@[simp] theorem finish_uRep :
    (c.finish inp mode).uRep = if inp.valid then inverse inp.cfg.table inp.position else 0 := rfl
@[simp] theorem finish_rested : (c.finish inp mode).rested = (mode == .halt && c.v == 0) := rfl

end finish

/-- The computation in HALT or in STOP: one tick of deceleration, with no target (R68). -/
def Braked (inp : TickInput) (a : Nat) (m : Mode) (c d : Chan) : Prop :=
  d.v = decelerate a c.v ∧ d.x = c.x + decelerate a c.v ∧ d.mode = m ∧ d.tRaw = none ∧ d.t = none ∧ d.clamped = false ∧
    d.u = inverse inp.cfg.table d.x ∧ (d.atRest = true ↔ d.v = 0)

theorem brakeTo_braked (inp : TickInput) (a : Nat) (c : Chan) (m : Mode) :
    Braked inp a c.mode c ((c.brakeTo inp a).finish inp m) := by
  simp [Braked, Chan.brakeTo]

theorem compute_stop_braked (inp : TickInput) {c : Chan} (mode : c.mode = .stop) :
    Braked inp inp.cfg.astop .stop c (c.compute inp) := by
  rw [compute_stop inp mode, ← mode]
  exact brakeTo_braked inp _ c _

theorem compute_halt_braked (inp : TickInput) {c : Chan} (mode : c.mode = .halt) (moving : c.rested = false) :
    Braked inp inp.cfg.amax .halt c (c.compute inp) := by
  rw [compute_halt inp mode moving, ← mode]
  exact brakeTo_braked inp _ c _

/-- A channel that enters HALT or STOP is computed in it, and one at rest stays where it is (R57, R68; log entry 9). -/
theorem enter_compute_braked (inp : TickInput) (table : List (Nat × Int)) (c : Chan) {m : Mode}
    (brakes : m = .halt ∨ m = .stop) :
    Braked inp (if m = .halt then inp.cfg.amax else inp.cfg.astop) m (c.enter table m)
      ((c.enter table m).compute inp) := by
  obtain rfl | rfl := brakes
  · exact compute_halt_braked inp rfl rfl
  · exact compute_stop_braked inp rfl

/-! ### Requests for a mode (R54, R109) -/

theorem requestMode_of_refused {m : Mode} {i : Nat} {s : State}
    (refused : (s.dlu.lines.get i).enable = false ∨ (s.chans.get i).mode = m ∨
      (s.chans.get i).mode = (s.chans.get i).modeFor m) : requestMode m i s = s := by
  unfold requestMode
  dsimp only
  split
  case isTrue => rfl
  case isFalse on => exact if_pos (refused.resolve_left on)

theorem requestMode_other (m : Mode) {i k : Nat} (hi : i < 4) (hk : k < 4) (ne : k ≠ i) (s : State) :
    (requestMode m i s).chans.get k = s.chans.get k := by
  rw [requestMode_chan m hi hk, if_neg (fun same => ne (by omega))]

theorem requestMode_onlyChanges (m : Mode) (i : Nat) (s : State) : OnlyChanges [.chans] s (requestMode m i s) := by
  unfold requestMode
  dsimp only
  split
  case isTrue => simp [onlyChanges_iff]
  case isFalse =>
    split
    case isTrue => simp [onlyChanges_iff]
    case isFalse => simp [onlyChanges_iff, modChan]

/-- Settles O49: the limiter by its closed form toward a target ahead and, for the arrival, by induction on the distance;
HALT and STOP by one tick of deceleration; the requests by what a taken request leaves. -/
theorem limiterStopsOnTheTarget : Obligations.LimiterStopsOnTheTarget := by
  unfold Obligations.LimiterStopsOnTheTarget
  refine ⟨limiter_step_le, fun amax limit d v => limiter_of_reach, fun amax limit d v => limiter_keeps_reach limit,
    fun amax limit d v _ _ => limiter_neg amax limit d v, fun a v => decelerate_of_small,
    fun a v => decelerate_of_forward, fun a v => decelerate_of_backward, ?stop, ?halt, ?entered, ?requested, ?player,
    ?off, fun amax limit d v ha hl reach => approach_arrives ha hl d v reach, limiter_zero_zero⟩
  case stop =>
    intro inp c mode
    obtain ⟨v, x, stays, tRaw, t, -⟩ := compute_stop_braked inp mode
    exact ⟨v, x, stays, tRaw, t⟩
  case halt =>
    intro inp c mode moving
    obtain ⟨v, x, stays, tRaw, t, -⟩ := compute_halt_braked inp mode moving
    exact ⟨v, x, stays, tRaw, t⟩
  case entered =>
    intro inp table c m brakes
    obtain ⟨v, x, mode, -⟩ := enter_compute_braked inp table c brakes
    refine ⟨rfl, rfl, rfl, mode, v, fun rest => ?_⟩
    have still : (c.enter table m).v = 0 := rest
    rw [still, decelerate_zero] at v x
    exact ⟨x.trans (Int.add_zero _), v⟩
  case requested =>
    intro m i s hi notOff
    refine ⟨requestMode_of_refused, fun on other leads => ?_⟩
    exact ⟨requestMode_enters m i s hi on other leads, fun k hk ne => requestMode_other m hi hk ne s,
      requestMode_onlyChanges m i s⟩
  case player =>
    intro m i s
    unfold requestByPlayer
    constructor
    · rintro (ending | ending) <;> simp [ending]
    · intro notStopping notSecuring
      split <;> simp_all
  case off =>
    intro i s hi on
    rw [(driveOff_chan i i s hi hi).2.1, if_pos ⟨rfl, on⟩]

end Sys2Proof.Machine
end

section
/-! The calibration and its inverse, and the computation of a channel with and without a target (O50). -/

namespace Sys2Proof.Machine

open Sys2Proof

/-! ### The rounding of a quotient (00_scope.md section 5.2) -/

theorem nearest_zero (d : Int) : nearest 0 d = 0 := by
  have small : (2 * (0 : Int).natAbs + d.natAbs) / (2 * d.natAbs) = 0 := by
    rcases Nat.eq_zero_or_pos d.natAbs with zero | pos
    · simp [zero]
    · exact Nat.div_eq_of_lt (by omega)
  unfold nearest
  dsimp only
  rw [small]
  split <;> rfl

theorem nearest_of_nonneg {n d : Int} (hn : 0 ≤ n) (hd : 0 < d) :
    nearest n d = ((2 * n.natAbs + d.natAbs) / (2 * d.natAbs) : Nat) := by
  have same : (decide (n < 0) != decide (d < 0)) = false := by
    rw [decide_eq_false (by omega), decide_eq_false (by omega)]; rfl
  simp [nearest, same]

theorem nearest_neg_left {n d : Int} (hn : 0 < n) (hd : 0 < d) : nearest (-n) d = -nearest n d := by
  have differ : (decide (-n < 0) != decide (d < 0)) = true := by
    rw [decide_eq_true (by omega), decide_eq_false (by omega)]; rfl
  rw [nearest_of_nonneg hn.le hd]
  unfold nearest
  dsimp only
  rw [if_pos differ, Int.natAbs_neg]

theorem nearest_neg_neg (n : Int) {d : Int} (hd : d ≠ 0) : nearest (-n) (-d) = nearest n d := by
  rcases eq_or_ne n 0 with rfl | hn
  · simp only [Int.neg_zero, nearest_zero]
  · have sn : decide (-n < 0) = !decide (n < 0) := by
      rw [← decide_not]; exact decide_eq_decide.mpr (by omega)
    have sd : decide (-d < 0) = !decide (d < 0) := by
      rw [← decide_not]; exact decide_eq_decide.mpr (by omega)
    unfold nearest
    simp only [Int.natAbs_neg, sn, sd]
    simp

theorem nearest_spec_of_nonneg {n d : Int} (hn : 0 ≤ n) (hd : 0 < d) :
    2 * |n - d * nearest n d| ≤ d ∧ (2 * |n - d * nearest n d| = d → n ≤ d * nearest n d) := by
  have quotient : nearest n d = (2 * n + d) / (2 * d) := by
    rw [nearest_of_nonneg hn hd]
    push_cast
    rw [abs_of_nonneg hn, abs_of_pos hd]
  rw [quotient]
  have split := Int.mul_ediv_add_emod (2 * n + d) (2 * d)
  have low := Int.emod_nonneg (2 * n + d) (b := 2 * d) (by omega)
  have high := Int.emod_lt_of_pos (2 * n + d) (b := 2 * d) (by omega)
  rw [Int.mul_assoc] at split
  generalize d * ((2 * n + d) / (2 * d)) = p at *
  rw [abs_eq_max_neg]
  omega

theorem nearest_spec (n : Int) {d : Int} (hd : 0 < d) :
    2 * |n - d * nearest n d| ≤ d ∧ (2 * |n - d * nearest n d| = d → |n| ≤ |d * nearest n d|) := by
  rcases lt_or_ge n 0 with negative | nonneg
  · obtain ⟨near, tie⟩ := nearest_spec_of_nonneg (n := -n) (by omega) hd
    have mirrored : nearest n d = -nearest (-n) d := by
      rw [← nearest_neg_left (by omega) hd, Int.neg_neg]
    rw [mirrored, Int.mul_neg, abs_neg, show n - -(d * nearest (-n) d) = -(-n - d * nearest (-n) d) by ring, abs_neg]
    refine ⟨near, fun eq => ?_⟩
    rw [abs_of_neg negative]
    exact (tie eq).trans (le_abs_self _)
  · obtain ⟨near, tie⟩ := nearest_spec_of_nonneg nonneg hd
    refine ⟨near, fun eq => ?_⟩
    rw [abs_of_nonneg nonneg]
    exact (tie eq).trans (le_abs_self _)

/-! ### The calibration, segment by segment (R64) -/

theorem cal_of_low {p : Nat × Int} {u : Nat} (low : u ≤ p.1) : ∀ rest, cal (p :: rest) u = p.2
  | [] => rfl
  | _ :: _ => if_pos low

theorem cal_of_between {p q : Nat × Int} {u : Nat} (low : p.1 ≤ u) (high : u < q.1) (post : List (Nat × Int)) :
    cal (p :: q :: post) u = p.2 + nearest ((q.2 - p.2) * ((u : Int) - p.1)) ((q.1 : Int) - p.1) := by
  rcases low.eq_or_lt with rfl | above
  · rw [cal_of_low le_rfl, Int.sub_self, Int.mul_zero, nearest_zero, Int.add_zero]
  · exact (if_neg (by omega)).trans (if_pos high)

theorem cal_of_above {a b : Nat × Int} {u : Nat} (first : a.1 < u) (second : b.1 ≤ u) (rest : List (Nat × Int)) :
    cal (a :: b :: rest) u = cal (b :: rest) u :=
  (if_neg (by omega)).trans (if_neg (by omega))

theorem cal_of_segment {p q : Nat × Int} {u : Nat} (low : p.1 ≤ u) (high : u < q.1) (post : List (Nat × Int)) :
    ∀ pre : List (Nat × Int), (pre ++ p :: q :: post).Pairwise (fun a b => a.1 < b.1) →
      cal (pre ++ p :: q :: post) u = p.2 + nearest ((q.2 - p.2) * ((u : Int) - p.1)) ((q.1 : Int) - p.1) := by
  intro pre
  induction pre with
  | nil => exact fun _ => cal_of_between low high post
  | cons a pre ih =>
    intro rising
    obtain ⟨first, rising'⟩ := List.pairwise_cons.mp rising
    rw [← ih rising']
    have before : a.1 < p.1 := first p (by simp)
    cases pre with
    | nil => exact cal_of_above (by omega) low _
    | cons b pre =>
      have next : b.1 < p.1 := (List.pairwise_cons.mp rising').1 p (by simp)
      exact cal_of_above (by omega) (by omega) _

theorem cal_of_high {q : Nat × Int} {u : Nat} (high : q.1 ≤ u) : ∀ (rest : List (Nat × Int)) (p : Nat × Int),
    (p :: rest).Pairwise (fun a b => a.1 < b.1) → (p :: rest).getLast? = some q → cal (p :: rest) u = q.2 := by
  intro rest
  induction rest with
  | nil =>
    intro p _ last
    obtain rfl : p = q := by simpa using last
    rfl
  | cons b rest ih =>
    intro p rising last
    obtain ⟨first, rising'⟩ := List.pairwise_cons.mp rising
    have last' : (b :: rest).getLast? = some q := by rwa [List.getLast?_cons_cons] at last
    have mem := List.mem_of_getLast? last'
    have second : b.1 ≤ q.1 := by
      rcases List.mem_cons.mp mem with rfl | later
      · exact le_rfl
      · exact ((List.pairwise_cons.mp rising').1 q later).le
    have := first q mem
    rw [cal_of_above (by omega) (by omega), ih b rising' last']

/-! ### The inverse calibration (R71) -/

/-- A calibration table seen from the other side of zero: a falling one rises. -/
def mirror (table : List (Nat × Int)) : List (Nat × Int) := table.map fun p => (p.1, -p.2)

theorem inverse_mirror (r : Int) : ∀ table : List (Nat × Int), table.Pairwise (fun a b => b.2 < a.2) →
    inverse table r = inverse (mirror table) (-r)
  | [], _ => rfl
  | [_], _ => rfl
  | a :: b :: rest, falling => by
    obtain ⟨first, falling'⟩ := List.pairwise_cons.mp falling
    have below : b.2 < a.2 := first b (by simp)
    have ih := inverse_mirror r (b :: rest) falling'
    have slope : nearest ((-r - -a.2) * ((b.1 : Int) - a.1)) (-b.2 - -a.2) =
        nearest ((r - a.2) * ((b.1 : Int) - a.1)) (b.2 - a.2) := by
      rw [← nearest_neg_neg _ (show b.2 - a.2 ≠ 0 by omega)]
      congr 1 <;> ring
    change (if _ then a.1 else if _ then _ else inverse (b :: rest) r) =
      if (-a.2 < -b.2 ∧ -r ≤ -a.2) ∨ (¬ -a.2 < -b.2 ∧ -a.2 ≤ -r) then a.1
      else if (-a.2 < -b.2 ∧ -r < -b.2) ∨ (¬ -a.2 < -b.2 ∧ -b.2 < -r) then
        a.1 + (nearest ((-r - -a.2) * ((b.1 : Int) - a.1)) (-b.2 - -a.2)).toNat
      else inverse (mirror (b :: rest)) (-r)
    rw [ih, slope]
    refine if_congr (by omega) rfl (if_congr (by omega) rfl rfl)

theorem mirror_rising {table : List (Nat × Int)} (falling : table.Pairwise (fun a b => b.2 < a.2)) :
    (mirror table).Pairwise (fun a b => a.2 < b.2) :=
  List.pairwise_map.mpr (falling.imp fun less => Int.neg_lt_neg less)

theorem inverse_of_low {p : Nat × Int} {r : Int} (low : r ≤ p.2) : ∀ rest : List (Nat × Int),
    (p :: rest).Pairwise (fun a b => a.2 < b.2) → inverse (p :: rest) r = p.1
  | [], _ => rfl
  | b :: rest, rising => if_pos (Or.inl ⟨(List.pairwise_cons.mp rising).1 b (by simp), low⟩)

theorem inverse_of_between {p q : Nat × Int} {r : Int} (low : p.2 ≤ r) (high : r < q.2) (post : List (Nat × Int)) :
    inverse (p :: q :: post) r = p.1 + (nearest ((r - p.2) * ((q.1 : Int) - p.1)) (q.2 - p.2)).toNat := by
  rcases low.eq_or_lt with same | above
  · refine (if_pos (Or.inl ⟨by omega, by omega⟩)).trans ?_
    rw [← same, Int.sub_self, Int.zero_mul, nearest_zero]
    rfl
  · exact (if_neg (by omega)).trans (if_pos (Or.inl ⟨by omega, high⟩))

theorem inverse_of_above {a b : Nat × Int} {r : Int} (rises : a.2 < b.2) (second : b.2 ≤ r) (rest : List (Nat × Int)) :
    inverse (a :: b :: rest) r = inverse (b :: rest) r :=
  (if_neg (by omega)).trans (if_neg (by omega))

theorem inverse_of_segment {p q : Nat × Int} {r : Int} (low : p.2 ≤ r) (high : r < q.2) (post : List (Nat × Int)) :
    ∀ pre : List (Nat × Int), (pre ++ p :: q :: post).Pairwise (fun a b => a.2 < b.2) →
      inverse (pre ++ p :: q :: post) r =
        p.1 + (nearest ((r - p.2) * ((q.1 : Int) - p.1)) (q.2 - p.2)).toNat := by
  intro pre
  induction pre with
  | nil => exact fun _ => inverse_of_between low high post
  | cons a pre ih =>
    intro rising
    obtain ⟨first, rising'⟩ := List.pairwise_cons.mp rising
    rw [← ih rising']
    cases pre with
    | nil => exact inverse_of_above (first p (by simp)) low _
    | cons b pre =>
      have next : b.2 < p.2 := (List.pairwise_cons.mp rising').1 p (by simp)
      exact inverse_of_above (first b (by simp)) (by omega) _

theorem inverse_of_high {q : Nat × Int} {r : Int} (high : q.2 ≤ r) : ∀ (rest : List (Nat × Int)) (p : Nat × Int),
    (p :: rest).Pairwise (fun a b => a.2 < b.2) → (p :: rest).getLast? = some q → inverse (p :: rest) r = q.1 := by
  intro rest
  induction rest with
  | nil =>
    intro p _ last
    obtain rfl : p = q := by simpa using last
    rfl
  | cons b rest ih =>
    intro p rising last
    obtain ⟨first, rising'⟩ := List.pairwise_cons.mp rising
    have last' : (b :: rest).getLast? = some q := by rwa [List.getLast?_cons_cons] at last
    have second : b.2 ≤ q.2 := by
      rcases List.mem_cons.mp (List.mem_of_getLast? last') with rfl | later
      · exact le_rfl
      · exact ((List.pairwise_cons.mp rising').1 q later).le
    rw [inverse_of_above (first b (by simp)) (by omega), ih b rising' last']

theorem inverse_of_segment_falling {p q : Nat × Int} {r : Int} (high : r ≤ p.2) (low : q.2 < r)
    (pre post : List (Nat × Int)) (falling : (pre ++ p :: q :: post).Pairwise (fun a b => b.2 < a.2)) :
    inverse (pre ++ p :: q :: post) r =
      p.1 + (nearest ((r - p.2) * ((q.1 : Int) - p.1)) (q.2 - p.2)).toNat := by
  have cut : mirror (pre ++ p :: q :: post) = mirror pre ++ (p.1, -p.2) :: (q.1, -q.2) :: mirror post := by
    simp [mirror]
  have rising := mirror_rising falling
  rw [cut] at rising
  rw [inverse_mirror r _ falling, cut, inverse_of_segment (by simpa using high) (by simpa using low) _ _ rising,
    ← nearest_neg_neg _ (show q.2 - p.2 ≠ 0 by omega)]
  congr 3 <;> ring

theorem inverse_ends_falling {p : Nat × Int} {rest : List (Nat × Int)} {r : Int}
    (falling : (p :: rest).Pairwise (fun a b => b.2 < a.2)) :
    (p.2 ≤ r → inverse (p :: rest) r = p.1) ∧
      ∀ q, (p :: rest).getLast? = some q → r ≤ q.2 → inverse (p :: rest) r = q.1 := by
  have rising := mirror_rising falling
  rw [inverse_mirror r _ falling]
  refine ⟨fun past => inverse_of_low (p := (p.1, -p.2)) (Int.neg_le_neg past) (mirror rest) rising,
    fun q last past => ?_⟩
  refine inverse_of_high (q := (q.1, -q.2)) (Int.neg_le_neg past) (mirror rest) (p.1, -p.2) rising ?_
  exact (List.getLast?_map (f := fun p : Nat × Int => (p.1, -p.2))).trans (congrArg (Option.map _) last)

/-! ### A channel driven to a target (R65, R67, R69) -/

theorem targetOf_clampTarget (range : Int × Int) (x tRaw : Int) :
    TargetOf range x tRaw (clampTarget range x tRaw) := by
  unfold TargetOf clampTarget
  refine ⟨fun empty => if_pos empty, fun room => ?_⟩
  rw [if_neg (by omega)]
  refine ⟨fun low => if_pos low, fun high => ?_, fun low high => ?_⟩
  · rw [if_neg (by omega), if_pos high]
  · rw [if_neg (by omega), if_neg (by omega)]

theorem drive_drivenTo (inp : TickInput) (limit : Nat) (u : Option Nat) (tRaw : Int) (fixed : Bool) (c : Chan)
    (m : Mode) : DrivenTo inp limit tRaw (if fixed then c.x else clampTarget inp.range c.x tRaw) c
      ((c.drive inp limit u tRaw fixed).finish inp m) := by
  refine ⟨?_, ?_, ?_, ?_, ?_, ?_, ?_⟩ <;> simp [Chan.drive]

theorem drive_targetOf (inp : TickInput) (limit : Nat) (u : Option Nat) (tRaw : Int) (c : Chan) (m : Mode) :
    ∃ t, TargetOf inp.range c.x tRaw t ∧
      DrivenTo inp limit tRaw t c ((c.drive inp limit u tRaw false).finish inp m) :=
  ⟨_, targetOf_clampTarget inp.range c.x tRaw, drive_drivenTo inp limit u tRaw false c m⟩

/-- The deviation count after a tick of PLAY (R70). -/
theorem finish_dev {inp : TickInput} {c : Chan} {tRaw : Int} (mode : c.mode = .play) (target : c.tRaw = some tRaw) :
    (c.finish inp .play).dev = if (inp.cfg.devTol : Int) < |tRaw - c.x| then min 2 (c.dev + 1) else 0 := by
  have tolerance : inp.cfg.devTol < (tRaw - c.x).natAbs ↔ (inp.cfg.devTol : Int) < |tRaw - c.x| := by
    rw [Int.abs_eq_natAbs]; omega
  simp [Chan.finish, Chan.checkDeviation, mode, target, tolerance]

/-! ### A channel that HALT has left at rest (R57) -/

theorem compute_of_rested (inp : TickInput) {c : Chan} (mode : c.mode = .halt) (rested : c.rested = true) :
    c.compute inp = Chan.compute inp { c with
      mode := .hold
      held := c.x
      dev := 0 } := by
  unfold Chan.compute
  rw [settleHalt_of_rested mode rested]
  rfl

theorem compute_rested (inp : TickInput) (c : Chan) :
    (c.compute inp).rested = true ↔ c.mode = .halt ∧ c.rested = false ∧ (c.compute inp).v = 0 := by
  cases mode : c.mode with
  | off => simp [compute_off inp mode]
  | hold => simp [compute_hold inp mode]
  | live => simp [compute_live inp mode]
  | cue => simp [compute_cue inp mode]
  | play => simp [compute_play inp mode]
  | stop => simp [compute_stop inp mode]
  | halt =>
    cases rested : c.rested with
    | false => simp [compute_halt inp mode rested]
    | true => rw [compute_of_rested inp mode rested, compute_hold inp rfl]; simp

theorem compute_uRep (inp : TickInput) (c : Chan) :
    (c.compute inp).uRep = if inp.valid then inverse inp.cfg.table inp.position else 0 := rfl

/-- Settles O50: the modes one at a time, by the closed form of the computation in each; the rounding from the division with
remainder, and the calibration and its inverse by induction on the segments before the one that holds the argument, a falling
table being the mirror of a rising one. -/
theorem modesWithAndWithoutATarget : Obligations.ModesWithAndWithoutATarget := by
  unfold Obligations.ModesWithAndWithoutATarget
  refine ⟨?off, ?offStale, ?hold, ?arming, ?live, ?cue, ?play, compute_rested, ?rested, ?braked, ?reported,
    fun n d => nearest_spec n, fun n d => nearest_neg_neg n, fun pre post p q u rising low high =>
      cal_of_segment low high post pre rising, ?calEnds, ?inverse, ?inverseEnds⟩
  case off =>
    intro inp c mode valid
    simp [compute_off inp mode, Chan.follow, valid, mode]
  case offStale =>
    intro inp c mode stale
    simp [compute_off inp mode, Chan.follow, stale, mode]
  case hold =>
    intro inp c mode notArming
    rw [compute_hold inp mode, notArming]
    exact ⟨by simp [Chan.drive, mode], by simp [Chan.drive], by simp [Chan.drive], drive_targetOf ..⟩
  case arming =>
    intro inp c mode arming
    rw [compute_hold inp mode, arming]
    refine ⟨by simp [Chan.drive, mode], by simp [Chan.drive], by simp [Chan.drive], drive_drivenTo .., fun rest => ?_⟩
    simp [Chan.drive, rest, limiter_zero_zero]
  case live =>
    intro inp c mode
    rw [compute_live inp mode]
    obtain ⟨t, target, driven⟩ := drive_targetOf inp (pacedSpeed inp.cfg.vmax inp.pace)
      (some (interpolate c.gPrev c.gCur (inp.tick * 4096 / inp.ticks)))
      (cal inp.cfg.table (interpolate c.gPrev c.gCur (inp.tick * 4096 / inp.ticks))) c .live
    exact ⟨_, t, rfl, by simp [Chan.drive], by simp [Chan.drive, mode], by simp [Chan.drive], by simp [Chan.drive],
      target, driven⟩
  case cue =>
    intro inp c mode
    rw [compute_cue inp mode]
    exact ⟨by simp [Chan.drive], by simp [Chan.drive, mode], drive_targetOf ..⟩
  case play =>
    intro inp c mode
    rw [compute_play inp mode]
    have dev := finish_dev (inp := inp)
      (c := c.drive inp inp.cfg.vmax (some inp.takeValue) (cal inp.cfg.table inp.takeValue) false) mode rfl
    refine ⟨by simp [Chan.drive], by simp [Chan.drive, mode], drive_targetOf .., fun far => ?_, fun near => ?_⟩
    · rw [finish_x] at far
      exact dev.trans (if_pos far)
    · rw [finish_x] at near
      exact dev.trans (if_neg (by omega))
  case rested =>
    intro inp c mode rested
    refine ⟨compute_of_rested inp mode rested, ?_⟩
    rw [compute_of_rested inp mode rested, compute_hold inp rfl, finish_halt]
    rfl
  case braked =>
    rintro inp c (mode | ⟨mode, moving⟩)
    · obtain ⟨-, -, -, tRaw, t, clamped, u, atRest⟩ := compute_stop_braked inp mode
      exact ⟨tRaw, t, clamped, u, atRest⟩
    · obtain ⟨-, -, -, tRaw, t, clamped, u, atRest⟩ := compute_halt_braked inp mode moving
      exact ⟨tRaw, t, clamped, u, atRest⟩
  case reported =>
    intro inp c
    rw [compute_uRep]
    exact ⟨fun valid => if_pos valid, fun stale => if_neg (by simp [stale])⟩
  case calEnds =>
    intro p rest u rising
    exact ⟨fun low => cal_of_low low rest, fun q last high => cal_of_high high rest p rising last⟩
  case inverse =>
    rintro pre post p q r (⟨rising, low, high⟩ | ⟨falling, high, low⟩)
    · exact inverse_of_segment low high post pre rising
    · exact inverse_of_segment_falling high low pre post falling
  case inverseEnds =>
    intro p rest r
    refine ⟨fun rising => ⟨fun low => inverse_of_low low rest rising, fun q last high =>
      inverse_of_high high rest p rising last⟩, inverse_ends_falling⟩

end Sys2Proof.Machine
end

section
/-! Storing the samples of a message: the range latch, the water marks and the tests (O31). -/

namespace Sys2Proof.Machine

open Sys2Proof

/-! ### Conditions that an event does not touch -/

theorem attentionHas_attentionRaise_of_ne {a b : Attention} (ne : a ≠ b) (set : BitVec 16) :
    attentionHas (attentionRaise set b) a = attentionHas set a := by
  have other : (1#16 <<< (b.code - 1)).getLsbD (a.code - 1) = false := by
    revert ne
    cases a <;> cases b <;> decide
  unfold attentionHas attentionRaise
  rw [BitVec.getLsbD_or, other, Bool.or_false]

theorem place_attention_of_ne {a : Attention} (ne : a ≠ .txDrop) (m : Msg) (s : State) :
    attentionHas (place m s).attention a = attentionHas s.attention a := by
  unfold place
  repeat' split
  all_goals first | rfl | exact attentionHas_attentionRaise_of_ne ne _

theorem heard_attention_of_ne {a : Attention} (ne : a ≠ .rosterFull) (h : Header) (s : State) :
    attentionHas (heard h s).attention a = attentionHas s.attention a := by
  unfold heard validFrom reportStation
  split
  next => rfl
  next =>
    split
    next => rfl
    next =>
      split
      next => rfl
      next => exact attentionHas_attentionRaise_of_ne ne _

theorem findTake_congr {s t : State} (dir : t.ts.dir = s.ts.dir) (id : Nat) : t.findTake id = s.findTake id := by
  unfold State.findTake; rw [dir]

/-! ### The range of a record (R145) -/

theorem allChans_getLsbD (s : State) {c : Nat} (hc : c < 4) : s.allChans.getLsbD c = decide (c < s.cfg.nChans) := by
  unfold State.allChans
  rw [BitVec.getLsbD_ofNat, Nat.testBit_two_pow_sub_one]
  simp [hc]

theorem value_truncate {n c : Nat} (hc : c < 4) (inside : c < n) (r : Sample) : (r.truncate n).value c = r.value c := by
  have step : ∀ (d : Nat) (q : Sample), d < 4 → (if n ≤ d then q.withValue d 0 else q).value c = q.value c := by
    intro d q hd
    split
    case isTrue cut => rw [value_withValue hc hd, if_neg (by omega)]
    case isFalse => rfl
  have all (ds : List Nat) : (∀ d ∈ ds, d < 4) → ∀ q : Sample,
      (ds.foldl (fun q d => if n ≤ d then q.withValue d 0 else q) q).value c = q.value c := by
    induction ds with
    | nil => exact fun _ _ => rfl
    | cons d ds ih =>
      intro inside q
      rw [List.foldl_cons, ih (fun e he => inside e (List.mem_cons_of_mem _ he)),
        step d q (inside d List.mem_cons_self)]
  exact all _ (fun d hd => by simpa [Config.maxChans] using hd) r

theorem outsideTable_iff (table : List (Nat × Int)) (v : Nat) : outsideTable table v = true ↔
    v < (table.headD (0, 0)).1 ∨ (table.getLastD (0, 0)).1 < v := by
  have head : table.head?.elim 0 (·.1) = (table.headD (0, 0)).1 := by cases table <;> rfl
  have last : table.getLast?.elim 0 (·.1) = (table.getLastD (0, 0)).1 := by
    rw [List.getLastD_eq_getLast?]
    cases table.getLast? <;> rfl
  simp [outsideTable, head, last]

theorem outOfRange_iff (s : State) (written chanSet : ChanSet) (r : Sample) :
    s.outOfRange (written &&& chanSet) r = true ↔ RangeFails s.cfg written chanSet r := by
  simp only [State.outOfRange, List.any_eq_true, mem_chanList, BitVec.getLsbD_and, Bool.and_eq_true, outsideTable_iff]
  constructor
  · rintro ⟨c, ⟨hc, wr, named⟩, out⟩
    exact ⟨c, hc, wr, named, out⟩
  · rintro ⟨c, hc, wr, named, out⟩
    exact ⟨c, ⟨hc, wr, named⟩, out⟩

theorem rangeFails_truncate (s : State) (chanSet : ChanSet) (r : Sample) :
    RangeFails s.cfg s.allChans chanSet (r.truncate s.cfg.nChans) ↔ RangeFails s.cfg s.allChans chanSet r := by
  refine exists_congr fun c => and_congr_right fun hc => and_congr_right fun written => ?_
  rw [value_truncate hc (by simpa [allChans_getLsbD s hc] using written)]

/-! ### Storing one record, and the range latch -/

theorem storeRecord_of_fails {k : Take} {n : Nat} {written : ChanSet} {r : Sample} {s : State}
    (fails : RangeFails s.cfg written k.chanSet r) : storeRecord k n written r s =
    latchRange k.id n { s with ts.store := s.ts.store.write (k.position n) r } :=
  if_pos ((outOfRange_iff s written k.chanSet r).mpr fails)

theorem storeRecord_of_inRange {k : Take} {n : Nat} {written : ChanSet} {r : Sample} {s : State}
    (good : ¬ RangeFails s.cfg written k.chanSet r) : storeRecord k n written r s =
    { s with ts.store := s.ts.store.write (k.position n) r } :=
  if_neg fun out => good ((outOfRange_iff s written k.chanSet r).mp out)

theorem latchRange_of_empty {id : Nat} {k : Take} {s : State} (found : s.findTake id = some k) (empty : k.latch = none)
    (n : Nat) : latchRange id n s = raise .sampleRange (modTake id (fun t => { t with latch := some n }) s) := by
  simp [latchRange, found, empty]

theorem latchRange_of_latched {id : Nat} {k : Take} {s : State} (found : s.findTake id = some k)
    (latched : k.latch ≠ none) (n : Nat) : latchRange id n s = s := by
  simp [latchRange, found, latched]

theorem latchRange_findTake {id : Nat} {k : Take} {s : State} (found : s.findTake id = some k) (empty : k.latch = none)
    (n : Nat) : (latchRange id n s).findTake id = some { k with latch := some n } := by
  rw [latchRange_of_empty found empty]
  exact findTake_modTake (f := fun t => { t with latch := some n }) (fun _ => rfl) found

theorem latchRange_attention {id : Nat} {k : Take} {s : State} (found : s.findTake id = some k) (empty : k.latch = none)
    (n : Nat) : attentionHas (latchRange id n s).attention .sampleRange = true := by
  rw [latchRange_of_empty found empty]
  exact attentionHas_attentionRaise_self ..

theorem latchRange_onlyChanges (id n : Nat) (s : State) : OnlyChanges [.ts, .attention] s (latchRange id n s) := by
  unfold latchRange
  split
  case h_2 => simp [onlyChanges_iff]
  case h_1 k found =>
    split
    case isTrue => simp [onlyChanges_iff, raise]
    case isFalse => simp [onlyChanges_iff]

/-! ### Storing the records of a message -/

/-- The attention set and the take's latch decide whether a latch is the one that storing leaves. -/
theorem Latched.congr {s s' t t' : State} {k l k' l' : Take} {first : Nat} {rs : List Sample}
    (latched : Latched s t k k' first rs) (cfg : s'.cfg = s.cfg)
    (before : attentionHas s'.attention .sampleRange = attentionHas s.attention .sampleRange)
    (after : attentionHas t'.attention .sampleRange = attentionHas t.attention .sampleRange)
    (latch : l.latch = k.latch) (chans : l.chanSet = k.chanSet) (latch' : l'.latch = k'.latch) :
    Latched s' t' l l' first rs := by
  unfold Latched at latched ⊢
  simpa only [State.allChans, cfg, before, after, latch, chans, latch'] using latched

theorem Latched.nil (s : State) (k : Take) (first : Nat) : Latched s s k k first [] :=
  ⟨fun _ => ⟨rfl, rfl⟩, fun n r _ there => by simp at there⟩

/-- A record in range leaves the latch to those after it. -/
theorem Latched.cons {s t : State} {k k' : Take} {first : Nat} {r : Sample} {rs : List Sample}
    (good : ¬ RangeFails s.cfg s.allChans k.chanSet r) (rest : Latched s t k k' (first + 1) rs) :
    Latched s t k k' first (r :: rs) := by
  obtain ⟨kept, set⟩ := rest
  refine ⟨fun quiet => kept (quiet.imp_right fun all q mem => all q (List.mem_cons_of_mem _ mem)), ?_⟩
  intro n q empty there fails before
  cases n with
  | zero =>
    obtain rfl : r = q := by simpa using there
    exact absurd fails good
  | succ n =>
    have := set n q empty (by simpa using there) fails fun m less p at_ => before (m + 1) (by omega) p (by simpa using at_)
    rwa [show first + 1 + n = first + (n + 1) by omega] at this

/-- A latch that is set stays as it is. -/
theorem Latched.of_set {s t : State} {k k' : Take} {first : Nat} {rs : List Sample} (set : k.latch ≠ none)
    (latch : k'.latch = k.latch)
    (attention : attentionHas t.attention .sampleRange = attentionHas s.attention .sampleRange) :
    Latched s t k k' first rs :=
  ⟨fun _ => ⟨latch, attention⟩, fun _ _ empty => absurd empty set⟩

/-- The first record out of range sets an empty latch. -/
theorem Latched.of_first {s t : State} {k k' : Take} {first : Nat} {r : Sample} {rs : List Sample}
    (fails : RangeFails s.cfg s.allChans k.chanSet r) (empty : k.latch = none) (latch : k'.latch = some first)
    (attention : attentionHas t.attention .sampleRange = true) : Latched s t k k' first (r :: rs) := by
  refine ⟨fun quiet => ?_, fun n q _ there out before => ?_⟩
  · rcases quiet with set | good
    · exact absurd empty set
    · exact absurd fails (good r List.mem_cons_self)
  · cases n with
    | zero => exact ⟨latch, attention⟩
    | succ n => exact absurd fails (before 0 (by omega) r rfl)

theorem storeRecords_latched {k : Take} (rs : List Sample) : ∀ (first : Nat) (l : Option Nat) (s : State),
    s.findTake k.id = some { k with latch := l } →
    ∃ l', (storeRecords k first rs s).findTake k.id = some { k with latch := l' } ∧
      Latched s (storeRecords k first rs s) { k with latch := l } { k with latch := l' } first rs := by
  induction rs with
  | nil => exact fun first l s found => ⟨l, found, Latched.nil s _ first⟩
  | cons r rs ih =>
    intro first l s found
    rw [storeRecords_cons]
    have kept (u : State) (dir : u.ts.dir = s.ts.dir) : u.findTake k.id = some { k with latch := l } :=
      (findTake_congr dir k.id).trans found
    by_cases fails : RangeFails s.cfg s.allChans k.chanSet r
    · rw [storeRecord_of_fails ((rangeFails_truncate s k.chanSet r).mpr fails)]
      have found' := kept { s with ts.store := s.ts.store.write (k.position first) (r.truncate s.cfg.nChans) } rfl
      generalize one : ({ s with ts.store := s.ts.store.write (k.position first) (r.truncate s.cfg.nChans) } : State) =
        u at found' ⊢
      have same : u.attention = s.attention := by rw [← one]
      cases l with
      | none =>
        have has := latchRange_attention found' rfl first
        obtain ⟨l', found'', latched, -⟩ := ih (first + 1) (some first) _ (latchRange_findTake found' rfl first)
        obtain ⟨latch, attention⟩ := latched (Or.inl (by simp))
        exact ⟨l', found'', Latched.of_first fails rfl latch (attention.trans has)⟩
      | some n =>
        rw [latchRange_of_latched found' (by simp)]
        obtain ⟨l', found'', latched, -⟩ := ih (first + 1) (some n) u found'
        obtain ⟨latch, attention⟩ := latched (Or.inl (by simp))
        exact ⟨l', found'', Latched.of_set (by simp) latch (by rw [attention, same])⟩
    · rw [storeRecord_of_inRange (fun out => fails ((rangeFails_truncate s k.chanSet r).mp out))]
      obtain ⟨l', found', latched⟩ := ih (first + 1) l
        { s with ts.store := s.ts.store.write (k.position first) (r.truncate s.cfg.nChans) } (kept _ rfl)
      exact ⟨l', found', Latched.cons fails (Latched.congr latched rfl rfl rfl rfl rfl rfl)⟩

/-- The records stand at the positions of their indices, and every other record stands as it stood (R143). -/
theorem storeRecords_read {k : Take} (rs : List Sample) : ∀ (first : Nat) (s : State), StoreWf s →
    (∀ n < rs.length, k.position (first + n) < 8192) →
    (∀ m < rs.length, ∀ n < rs.length, k.position (first + m) = k.position (first + n) → m = n) →
    (∀ n r, rs[n]? = some r →
      (storeRecords k first rs s).ts.store.read (k.position (first + n)) = r.truncate s.cfg.nChans) ∧
    ∀ p, (∀ n < rs.length, p ≠ k.position (first + n)) →
      (storeRecords k first rs s).ts.store.read p = s.ts.store.read p := by
  induction rs with
  | nil => exact fun first s _ _ _ => ⟨fun n r there => by simp at there, fun _ _ => rfl⟩
  | cons r rs ih =>
    intro first s wf inside apart
    rw [storeRecords_cons]
    have shift (n : Nat) : first + 1 + n = first + (n + 1) := by omega
    have here : k.position first < 8192 := inside 0 (by simp)
    have one := storeRecord_read (w := s.allChans) (r := r.truncate s.cfg.nChans) wf here
    obtain ⟨stored, others⟩ := ih (first + 1) (storeRecord k first s.allChans (r.truncate s.cfg.nChans) s)
      (storeRecord_wf k first _ _ s wf)
      (fun n hn => by rw [shift]; exact inside (n + 1) (by simpa using hn))
      (fun m hm n hn same => by
        rw [shift, shift] at same
        have := apart (m + 1) (by simpa using hm) (n + 1) (by simpa using hn) same
        omega)
    constructor
    · intro n q there
      cases n with
      | zero =>
        obtain rfl : r = q := by simpa using there
        have later : ∀ m < rs.length, k.position first ≠ k.position (first + 1 + m) := by
          intro m hm same
          rw [shift] at same
          have := apart 0 (by simp) (m + 1) (by simpa using hm) same
          omega
        exact (others _ later).trans ((one _).trans (if_pos rfl))
      | succ n =>
        have := stored n q (by simpa using there)
        rw [shift] at this
        simpa using this
    · intro p free
      rw [others p fun n hn => by rw [shift]; exact free (n + 1) (by simpa using hn), one]
      exact if_neg (free 0 (by simp))

theorem storeRecord_onlyChanges (k : Take) (n : Nat) (written : ChanSet) (r : Sample) (s : State) :
    OnlyChanges [.ts, .store, .attention] s (storeRecord k n written r s) := by
  by_cases fails : RangeFails s.cfg written k.chanSet r
  · rw [storeRecord_of_fails fails]
    refine OnlyChanges.trans ?_ ((latchRange_onlyChanges _ _ _).mono (by simp))
    simp [onlyChanges_iff]
  · rw [storeRecord_of_inRange fails]
    simp [onlyChanges_iff]

theorem storeRecords_onlyChanges (k : Take) (rs : List Sample) : ∀ (first : Nat) (s : State),
    OnlyChanges [.ts, .store, .attention] s (storeRecords k first rs s) := by
  induction rs with
  | nil => exact fun first s => by simp [onlyChanges_iff, storeRecords]
  | cons r rs ih => exact fun first s => (storeRecord_onlyChanges k first _ _ s).trans (ih (first + 1) _)

/-! ### The water marks (R148) -/

/-- The HELD of a stream take after a water-mark test. -/
def Take.heldAfter (t : Take) : Bool := if t.held then decide (t.low < t.occupancy) else decide (t.high ≤ t.occupancy)

theorem waterMark_of_high {id : Nat} {k : Take} {s : State} (found : s.findTake id = some k) (stream : k.kind = .stream)
    (loading : k.state = .loading) (free : k.held = false) (high : k.high ≤ k.occupancy) : waterMark id s =
    place { dest := k.loader, body := .hold id k.fill } (modTake id (fun t => { t with held := true }) s) := by
  simp [waterMark, found, stream, loading, free, high]

theorem waterMark_of_low {id : Nat} {k : Take} {s : State} (found : s.findTake id = some k) (stream : k.kind = .stream)
    (loading : k.state = .loading) (held : k.held = true) (low : k.occupancy ≤ k.low) : waterMark id s =
    place { dest := k.loader, body := .resume id k.fill } (modTake id (fun t => { t with held := false }) s) := by
  simp [waterMark, found, stream, loading, held, low]

theorem waterMark_of_not_stream {id : Nat} {k : Take} {s : State} (found : s.findTake id = some k)
    (other : k.kind = .resident ∨ k.state ≠ .loading) : waterMark id s = s := by
  rcases other with resident | state
  · simp [waterMark, found, resident]
  · simp [waterMark, found, state]

theorem waterMark_of_between {id : Nat} {k : Take} {s : State} (found : s.findTake id = some k)
    (between : k.heldAfter = k.held) : waterMark id s = s := by
  unfold Take.heldAfter at between
  cases held : k.held <;> simp_all [waterMark]

theorem waterMark_findTake {id : Nat} {k : Take} {s : State} (found : s.findTake id = some k) (stream : k.kind = .stream)
    (loading : k.state = .loading) : (waterMark id s).findTake id = some { k with held := k.heldAfter } := by
  by_cases between : k.heldAfter = k.held
  · rw [waterMark_of_between found between, between, found]
  · have marked (b : Bool) (m : Msg) : (place m (modTake id (fun t => { t with held := b }) s)).findTake id =
        some { k with held := b } :=
      (findTake_congr (by simp) id).trans (findTake_modTake (f := fun t => { t with held := b }) (fun _ => rfl) found)
    unfold Take.heldAfter at between ⊢
    cases held : k.held with
    | false =>
      have high : k.high ≤ k.occupancy := by simpa [held] using between
      rw [waterMark_of_high found stream loading held high, marked]
      simp [high]
    | true =>
      have low : k.occupancy ≤ k.low := by simpa [held] using between
      rw [waterMark_of_low found stream loading held low, marked]
      simp [low]

theorem waterMark_onlyChanges (id : Nat) (s : State) : OnlyChanges [.lif, .ts, .attention] s (waterMark id s) := by
  have marked (b : Bool) (m : Msg) : OnlyChanges [.lif, .ts, .attention] s
      (place m (modTake id (fun t => { t with held := b }) s)) := by
    simp [onlyChanges_iff]
  unfold waterMark
  repeat' split
  all_goals first | exact marked .. | simp [onlyChanges_iff]

theorem waterMark_attention {a : Attention} (ne : a ≠ .txDrop) (id : Nat) (s : State) :
    attentionHas (waterMark id s).attention a = attentionHas s.attention a := by
  unfold waterMark
  repeat' split
  all_goals first | rfl | exact place_attention_of_ne ne ..

theorem waterMark_store (id : Nat) (s : State) : (waterMark id s).ts.store = s.ts.store := by
  unfold waterMark
  repeat' split
  all_goals simp

end Sys2Proof.Machine
end

section
/-! SAMPLES: the tests of a message and what a good one stores (O31). -/

namespace Sys2Proof.Machine

open Sys2Proof

/-! ### The tests, in their order (R142) -/

section tests

variable {o id first : Nat} {last : Bool} {rs : List Sample} {s : State} {k : Take}

theorem takeSamples_of_noTake (missing : s.findTake id = none) :
    takeSamples o id first last rs s = loadError o id first 0 .noTake s := by
  unfold takeSamples
  rw [missing]

theorem takeSamples_of_refused (found : s.findTake id = some k) (refused : k.loader ≠ o ∨ k.loads = false) :
    takeSamples o id first last rs s = loadError o id first 0 .refused s := by
  unfold takeSamples
  rw [found]
  dsimp only
  split
  case isTrue => rfl
  case isFalse own => exact if_pos (refused.resolve_left own)

section loading

variable (found : s.findTake id = some k) (own : k.loader = o) (loads : k.loads = true)
include found own loads

theorem takeSamples_of_gap (gap : first ≠ k.expected) :
    takeSamples o id first last rs s = loadError o id first k.expected .gap s := by
  simp [takeSamples, found, own, loads, gap]

theorem takeSamples_of_full (next : first = k.expected) (full : k.fits first rs.length = false) :
    takeSamples o id first last rs s = loadError o id first k.expected .full s := by
  simp [takeSamples, found, own, loads, next, next ▸ full]

variable (next : first = k.expected) (fits : k.fits first rs.length = true)
include next fits

theorem takeSamples_of_endOfNothing (nothing : last = true ∧ first + rs.length = 0) :
    takeSamples o id first last rs s = loadError o id first k.expected .badArg s := by
  unfold takeSamples
  rw [found]
  dsimp only
  rw [if_neg (fun ne => ne own), if_neg (by simp [loads]), if_neg (fun ne => ne next), if_neg (by simp [fits]),
    if_pos nothing]

theorem takeSamples_of_idle (idle : last = false ∧ rs = []) : takeSamples o id first last rs s = s := by
  unfold takeSamples
  rw [found]
  dsimp only
  rw [if_neg (fun ne => ne own), if_neg (by simp [loads]), if_neg (fun ne => ne next), if_neg (by simp [fits]),
    if_neg (by simp [idle.1]), if_pos idle]

theorem takeSamples_of_good (something : 1 ≤ first + rs.length) (does : last = true ∨ rs ≠ []) :
    takeSamples o id first last rs s = storeSamples k first last rs s := by
  unfold takeSamples
  rw [found]
  dsimp only
  rw [if_neg (fun ne => ne own), if_neg (by simp [loads]), if_neg (fun ne => ne next), if_neg (by simp [fits]),
    if_neg (by omega), if_neg (fun idle => does.elim (by simp [idle.1]) (fun ne => ne idle.2))]

end loading

end tests

/-! ### A good message (R143) -/

/-- The node with the records of a message stored and the water-mark test made, before the test of the cue. -/
def recordsTaken (k : Take) (first : Nat) (last : Bool) (rs : List Sample) (s : State) : State :=
  waterMark k.id (modTake k.id (Take.loaded (first + rs.length) last) (storeRecords k first rs s))

theorem storeSamples_eq (k : Take) (first : Nat) (last : Bool) (rs : List Sample) (s : State) :
    (s.tpr.take ≠ some k.id → storeSamples k first last rs s = recordsTaken k first last rs s) ∧
    (s.tpr.take = some k.id → storeSamples k first last rs s = cueTest (recordsTaken k first last rs s)) := by
  have same : (recordsTaken k first last rs s).tpr = s.tpr := by simp [recordsTaken]
  have eq : storeSamples k first last rs s = if (recordsTaken k first last rs s).tpr.take = some k.id then
      cueTest (recordsTaken k first last rs s) else recordsTaken k first last rs s := rfl
  rw [eq, same]
  exact ⟨fun other => if_neg other, fun use => if_pos use⟩

theorem loaded_id (next : Nat) (last : Bool) (t : Take) : (Take.loaded next last t).id = t.id := by
  unfold Take.loaded
  split <;> rfl

theorem loaded_resident (next : Nat) (last : Bool) {t : Take} (resident : t.kind = .resident) : t.loaded next last =
    { t with
      length := next
      state := if last then .ready else t.state } := by
  simp [Take.loaded, resident]

theorem loaded_stream (next : Nat) (last : Bool) {t : Take} (stream : t.kind = .stream) : t.loaded next last =
    { t with
      fill := next
      endReceived := t.endReceived || last } := by
  simp [Take.loaded, stream]

theorem recordsTaken_onlyChanges (k : Take) (first : Nat) (last : Bool) (rs : List Sample) (s : State) :
    OnlyChanges [.lif, .ts, .store, .attention] s (recordsTaken k first last rs s) := by
  refine ((storeRecords_onlyChanges k rs first s).mono (by simp)).trans
    (OnlyChanges.trans ?_ ((waterMark_onlyChanges _ _).mono (by simp)))
  simp [onlyChanges_iff, modTake]

theorem recordsTaken_store (k : Take) (first : Nat) (last : Bool) (rs : List Sample) (s : State) :
    (recordsTaken k first last rs s).ts.store = (storeRecords k first rs s).ts.store := by
  unfold recordsTaken
  rw [waterMark_store, modTake_store]

/-- The take before the water-mark test, and the range latch that storing leaves. -/
theorem loaded_latched {k : Take} {s : State} (found : s.findTake k.id = some k) (first : Nat) (last : Bool)
    (rs : List Sample) : ∃ l', (modTake k.id (Take.loaded (first + rs.length) last) (storeRecords k first rs s)).findTake k.id =
      some (Take.loaded (first + rs.length) last { k with latch := l' }) ∧
    ∀ k' : Take, k'.latch = l' → Latched s (recordsTaken k first last rs s) k k' first rs := by
  obtain ⟨l', found', latched⟩ := storeRecords_latched (k := k) rs first k.latch s found
  refine ⟨l', findTake_modTake (loaded_id _ _) found', fun k' latch => ?_⟩
  refine Latched.congr latched rfl rfl ?_ rfl rfl latch
  unfold recordsTaken
  rw [waterMark_attention (by simp)]
  rfl

/-- What a message leaves of the take it loads: a resident one. -/
theorem recordsTaken_resident {k : Take} {s : State} (found : s.findTake k.id = some k) (resident : k.kind = .resident)
    (first : Nat) (last : Bool) (rs : List Sample) :
    ∃ l', (recordsTaken k first last rs s).findTake k.id = some { k with
        length := first + rs.length
        state := if last then .ready else k.state
        latch := l' } ∧
      ∀ k' : Take, k'.latch = l' → Latched s (recordsTaken k first last rs s) k k' first rs := by
  obtain ⟨l', found', latched⟩ := loaded_latched found first last rs
  rw [loaded_resident _ _ (t := { k with latch := l' }) resident] at found'
  refine ⟨l', ?_, latched⟩
  unfold recordsTaken
  rw [waterMark_of_not_stream found' (Or.inl resident), found']

/-- A stream take after a message, before its water-mark test. -/
def Take.streamed (k : Take) (next : Nat) (last : Bool) (l : Option Nat) : Take :=
  { k with
    fill := next
    endReceived := k.endReceived || last
    latch := l }

theorem recordsTaken_stream {k : Take} {s : State} (found : s.findTake k.id = some k) (stream : k.kind = .stream)
    (loading : k.state = .loading) (first : Nat) (last : Bool) (rs : List Sample) :
    ∃ l', (modTake k.id (Take.loaded (first + rs.length) last) (storeRecords k first rs s)).findTake k.id =
        some (k.streamed (first + rs.length) last l') ∧
      (recordsTaken k first last rs s).findTake k.id = some { k.streamed (first + rs.length) last l' with
        held := (k.streamed (first + rs.length) last l').heldAfter } ∧
      ∀ k' : Take, k'.latch = l' → Latched s (recordsTaken k first last rs s) k k' first rs := by
  obtain ⟨l', found', latched⟩ := loaded_latched found first last rs
  rw [loaded_stream _ _ (t := { k with latch := l' }) stream] at found'
  exact ⟨l', found', waterMark_findTake found' stream loading, latched⟩

/-- The HOLD or RESUME of a message is placed as it would be where the message is reported. -/
theorem recordsTaken_lif (k : Take) (first : Nat) (last : Bool) (rs : List Sample) (s : State) (m : Msg) (b : Bool) :
    (place m (modTake k.id (fun t => { t with held := b })
      (modTake k.id (Take.loaded (first + rs.length) last) (storeRecords k first rs s)))).lif = (place m s).lif :=
  place_lif m (by simp) (by simp) (by simp)

/-! ### The message -/

theorem addressedKind_of_elsewhere {h : Header} {s : State} (received : receives h s = true)
    (elsewhere : s.addressed h = false) (n : State → Nat) (f : State → State) :
    addressedKind h n f s = .next (heard h s) := by
  unfold addressedKind
  rw [arrive_of_receives h _ _ s received]
  refine congrArg Host.Outcome.next (if_neg ?_)
  have elsewhere' : (heard h s).addressed h = false := by simpa [State.addressed] using elsewhere
  simp [elsewhere']

theorem exec_samples_of_stranger {h : Header} {s : State} (received : receives h s = true)
    (stranger : s.isControl h.source.toNat = false ∨ s.addressed h = false) (id : Byte) (first : U24) (last : Bool)
    (count : Byte) (rs : List Sample) : exec (.samples h id first last count rs) s = .next (heard h s) := by
  change addressedKind h _ _ s = _
  rcases stranger with control | other
  · refine addressedKind_of_idle received _ (if_neg ?_)
    have control' : (heard h s).isControl h.source.toNat = false := by simpa using control
    simp [control']
  · exact addressedKind_of_elsewhere received other _ _

section good

variable {h : Header} {id : Byte} {first : U24} {count : Byte} {rs : List Sample} {s : State}

theorem exec_samples_of_hears (hear : hears h (6 + count.toNat * (2 * s.cfg.nChans + 1)) s = true)
    (addressed : s.addressed h = true) (control : s.isControl h.source.toNat = true)
    (few : count.toNat ≤ 42 / (2 * s.cfg.nChans + 1)) (counted : rs.length = count.toNat) (last : Bool) :
    exec (.samples h id first last count rs) s =
      .next (takeSamples h.source.toNat id.toNat first.toNat last rs (heard h s)) := by
  change addressedKind h _ _ s = _
  rw [addressedKind_of_hears h _ _ s (by simpa [samplesLength] using hear) addressed]
  refine congrArg Host.Outcome.next (Eq.trans (if_pos ⟨?_, ?_⟩) ?_)
  · rw [← counted, List.take_length]
  · simpa [maxSamplesCount] using few
  · simpa using control

end good

/-! ### A stream take that is loaded (R142, R146) -/

theorem loads_resident {k : Take} (resident : k.kind = .resident) : k.loads = true ↔ k.state = .loading := by
  simp [Take.loads, resident]

theorem loads_stream {k : Take} (stream : k.kind = .stream) :
    k.loads = true ↔ k.state = .loading ∧ k.endReceived = false := by
  simp [Take.loads, stream]

theorem loads_false {k : Take} (other : k.state ≠ .loading) : k.loads = false := by
  simp [Take.loads, other]

theorem expected_resident {k : Take} (resident : k.kind = .resident) : k.expected = k.length := by
  simp [Take.expected, resident]

theorem expected_stream {k : Take} (stream : k.kind = .stream) : k.expected = k.fill := by
  simp [Take.expected, stream]

theorem fits_resident {k : Take} (resident : k.kind = .resident) (first count : Nat) :
    k.fits first count = true ↔ first + count ≤ k.size := by
  simp [Take.fits, resident]

theorem fits_stream {k : Take} (stream : k.kind = .stream) (first count : Nat) :
    k.fits first count = true ↔ k.fill + count - k.retired ≤ k.size ∧ k.fill + count ≤ 16777215 := by
  unfold Take.fits
  rw [stream]
  rw [Bool.and_eq_true, decide_eq_true_iff, decide_eq_true_iff]
  exact Iff.rfl

theorem position_resident {k : Take} (resident : k.kind = .resident) (n : Nat) : k.position n = k.base + n := by
  simp [Take.position, resident]

theorem position_stream {k : Take} (stream : k.kind = .stream) (n : Nat) : k.position n = k.base + n % k.size := by
  simp [Take.position, stream]

/-- Fewer indices than the ring is long stand at different positions of it. -/
theorem ring_apart {first size m n : Nat} (hm : m < size) (hn : n < size)
    (same : (first + m) % size = (first + n) % size) : m = n := by
  have := Nat.ModEq.add_left_cancel' first (show Nat.ModEq size (first + m) (first + n) from same)
  rwa [Nat.ModEq, Nat.mod_eq_of_lt hm, Nat.mod_eq_of_lt hn] at this

end Sys2Proof.Machine
end

section
/-! What a good message of samples leaves, and the answers to the others (O31). -/

namespace Sys2Proof.Machine

open Sys2Proof

section stored

variable {h : Header} {first : Nat} {rs : List Sample} {s : State} {k : Take}

theorem storeRecords_heard_read (wf : StoreWf s) (inside : ∀ n < rs.length, k.position (first + n) < 8192)
    (apart : ∀ m < rs.length, ∀ n < rs.length, k.position (first + m) = k.position (first + n) → m = n) (last : Bool) :
    (∀ n r, rs[n]? = some r → (recordsTaken k first last rs (heard h s)).ts.store.read (k.position (first + n)) =
      r.truncate s.cfg.nChans) ∧
    ∀ p, (∀ n < rs.length, p ≠ k.position (first + n)) →
      (recordsTaken k first last rs (heard h s)).ts.store.read p = s.ts.store.read p := by
  have wf' : StoreWf (heard h s) := by simpa [StoreWf] using wf
  have := storeRecords_read rs first (heard h s) wf' inside apart
  rw [recordsTaken_store]
  simpa using this

theorem recordsTaken_heard_onlyChanges (last : Bool) :
    OnlyChanges [.lif, .ru, .ts, .store, .attention] s (recordsTaken k first last rs (heard h s)) :=
  ((heard_onlyChanges h s).mono (by simp)).trans ((recordsTaken_onlyChanges k first last rs (heard h s)).mono (by simp))

theorem Latched.of_heard {t : State} {k' : Take} (latched : Latched (heard h s) t k k' first rs) :
    Latched s t k k' first rs :=
  Latched.congr latched (by simp) (heard_attention_of_ne (by simp) h s).symm rfl rfl rfl rfl

theorem resident_stored (found : s.findTake k.id = some k) (resident : k.kind = .resident) (loading : k.state = .loading)
    (room : first + rs.length ≤ k.size) (extent : k.base + k.size ≤ 8192) (wf : StoreWf s) (last : Bool) :
    let t := recordsTaken k first last rs (heard h s)
    (∀ n r, rs[n]? = some r → t.ts.store.read (k.base + first + n) = r.truncate s.cfg.nChans) ∧
    (∀ p, p < k.base + first ∨ k.base + first + rs.length ≤ p → t.ts.store.read p = s.ts.store.read p) ∧
    (∃ k', t.findTake k.id = some k' ∧ k'.length = first + rs.length ∧
      k'.state = (if last then .ready else .loading) ∧ k'.base = k.base ∧ k'.size = k.size ∧
      Latched s t k k' first rs) := by
  intro t
  have at_ := position_resident resident
  obtain ⟨stored, others⟩ := storeRecords_heard_read (h := h) (first := first) (rs := rs) (k := k) wf
    (fun n hn => by rw [at_]; omega) (fun m _ n _ same => by rw [at_, at_] at same; omega) last
  obtain ⟨l', found', latched⟩ := recordsTaken_resident (s := heard h s) (by simpa using found) resident first last rs
  refine ⟨fun n r there => ?_, fun p out => others p fun n hn => by rw [at_]; omega, ?_⟩
  · rw [Nat.add_assoc, ← at_]
    exact stored n r there
  · exact ⟨_, found', rfl, by rw [loading], rfl, rfl, Latched.of_heard (latched _ rfl)⟩

theorem stream_stored (found : s.findTake k.id = some k) (stream : k.kind = .stream) (loading : k.state = .loading)
    (unended : k.endReceived = false) (retired : k.retired ≤ k.fill) (room : k.fill + rs.length - k.retired ≤ k.size)
    (extent : k.base + k.size ≤ 8192) (wf : StoreWf s) (last : Bool) :
    let t := recordsTaken k k.fill last rs (heard h s)
    (∀ n r, rs[n]? = some r → t.ts.store.read (k.base + (k.fill + n) % k.size) = r.truncate s.cfg.nChans) ∧
    (∀ p, (∀ n < rs.length, p ≠ k.base + (k.fill + n) % k.size) → t.ts.store.read p = s.ts.store.read p) ∧
    (∃ k', t.findTake k.id = some k' ∧ k'.fill = k.fill + rs.length ∧ k'.retired = k.retired ∧
      k'.endReceived = last ∧ k'.state = .loading ∧
      (k.held = false → k'.held = decide (k.high ≤ k.fill + rs.length - k.retired)) ∧
      (k.held = true → k'.held = decide (k.low < k.fill + rs.length - k.retired)) ∧
      Latched s t k k' k.fill rs) ∧
    (k.held = false → k.high ≤ k.fill + rs.length - k.retired →
      t.lif = (place { dest := k.loader, body := .hold k.id (k.fill + rs.length) } (heard h s)).lif) ∧
    (k.held = true → k.fill + rs.length - k.retired ≤ k.low →
      t.lif = (place { dest := k.loader, body := .resume k.id (k.fill + rs.length) } (heard h s)).lif) := by
  intro t
  have at_ := position_stream stream
  have inside (n : Nat) (hn : n < rs.length) : k.position (k.fill + n) < 8192 := by
    rw [at_]
    have := Nat.mod_lt (k.fill + n) (show 0 < k.size by omega)
    omega
  have apart (m : Nat) (hm : m < rs.length) (n : Nat) (hn : n < rs.length)
      (same : k.position (k.fill + m) = k.position (k.fill + n)) : m = n := by
    rw [at_, at_] at same
    exact ring_apart (size := k.size) (by omega) (by omega) (Nat.add_left_cancel same)
  obtain ⟨stored, others⟩ := storeRecords_heard_read (h := h) (first := k.fill) (rs := rs) (k := k) wf inside apart last
  obtain ⟨l', before, found', latched⟩ :=
    recordsTaken_stream (s := heard h s) (by simpa using found) stream loading k.fill last rs
  refine ⟨fun n r there => ?_, fun p out => others p fun n hn => by rw [at_]; exact out n hn, ?_, ?_, ?_⟩
  · rw [← at_]
    exact stored n r there
  · refine ⟨_, found', rfl, rfl, by simp [Take.streamed, unended], loading, fun free => ?_, fun held => ?_,
      Latched.of_heard (latched _ rfl)⟩
    · simp [Take.heldAfter, Take.streamed, Take.occupancy, free]
    · simp [Take.heldAfter, Take.streamed, Take.occupancy, held]
  · intro free high
    exact (congrArg State.lif (waterMark_of_high before stream loading free high)).trans
      (recordsTaken_lif k k.fill last rs (heard h s) _ true)
  · intro held low
    exact (congrArg State.lif (waterMark_of_low before stream loading held low)).trans
      (recordsTaken_lif k k.fill last rs (heard h s) _ false)

end stored

/-- An END without records closes the load, and nothing else (R143). -/
theorem recordsTaken_nil (k : Take) (next : Nat) (s : State) :
    recordsTaken k next true [] s = waterMark k.id (modTake k.id (Take.loaded next true) s) := rfl

/-- Settles O31: the tests of a message in their order; a good one by induction on its records, the water marks by the test
at the new fill, and the range latch by its first record out of range. -/
theorem samplesAreStoredOrRefused : Obligations.SamplesAreStoredOrRefused := by
  unfold Obligations.SamplesAreStoredOrRefused
  refine ⟨fun h id first last count rs s received stranger =>
    exec_samples_of_stranger received stranger id first last count rs, ?good, ?water, ?record, ?latch, ?chans⟩
  case good =>
    intro h id first last count rs s hear addressed control few counted
    have run := exec_samples_of_hears (id := id) (first := first) hear addressed control few counted last
    rw [run]
    have find (k : Take) (found : s.findTake id.toNat = some k) : (heard h s).findTake id.toNat = some k := by
      simpa using found
    -- A take that loads, and the state that its message leaves where the message is taken.
    have taken (k : Take) (found : s.findTake id.toNat = some k) (own : k.loader = h.source.toNat)
        (loads : k.loads = true) (next : first.toNat = k.expected) (fits : k.fits first.toNat rs.length = true)
        (something : 1 ≤ first.toNat + rs.length) (does : last = true ∨ rs ≠ []) :
        (s.tpr.take ≠ some id.toNat → (Host.Outcome.next (takeSamples h.source.toNat id.toNat first.toNat last rs (heard h s)) :
          Host.Outcome State Fault Refusal) = .next (recordsTaken k first.toNat last rs (heard h s))) ∧
        (s.tpr.take = some id.toNat → (Host.Outcome.next (takeSamples h.source.toNat id.toNat first.toNat last rs (heard h s)) :
          Host.Outcome State Fault Refusal) = .next (cueTest (recordsTaken k first.toNat last rs (heard h s)))) := by
      obtain ⟨_, named⟩ := findTake_some found
      rw [takeSamples_of_good (find k found) own loads next fits something does]
      obtain ⟨spare, inUse⟩ := storeSamples_eq k first.toNat last rs (heard h s)
      rw [show (heard h s).tpr = s.tpr by simp, named] at spare inUse
      exact ⟨fun other => congrArg _ (spare other), fun use => congrArg _ (inUse use)⟩
    refine ⟨?noTake, ?stranger, ?closed, ?gap, ?full, ?resident, ?stream, ?streamTests, ?residentTests⟩
    case noTake =>
      exact fun missing => congrArg _ (takeSamples_of_noTake (by simpa using missing))
    case stranger =>
      exact fun k found other => congrArg _ (takeSamples_of_refused (find k found) (Or.inl other))
    case closed =>
      exact fun k found _ closed => congrArg _ (takeSamples_of_refused (find k found) (Or.inr (loads_false closed)))
    case gap =>
      intro k found own loading resident gap
      rw [← expected_resident resident] at gap ⊢
      exact congrArg _ (takeSamples_of_gap (find k found) own ((loads_resident resident).mpr loading) gap)
    case full =>
      intro k found own loading resident next full
      rw [← expected_resident resident] at next ⊢
      refine congrArg _ (takeSamples_of_full (find k found) own ((loads_resident resident).mpr loading) next ?_)
      rw [Bool.eq_false_iff, Ne, fits_resident resident]
      omega
    case resident =>
      intro k found own loading resident next room some_ extent wf
      obtain ⟨_, named⟩ := findTake_some found
      obtain ⟨spare, inUse⟩ := taken k found own ((loads_resident resident).mpr loading)
        (by rw [expected_resident resident, next]) ((fits_resident resident _ _).mpr room) (by omega)
        (Or.inr (List.length_pos_iff.mp some_))
      obtain ⟨stored, others, found'⟩ :=
        resident_stored (h := h) (named ▸ found) resident loading room extent wf last
      rw [named] at found'
      exact ⟨_, spare, inUse, stored, others, found', recordsTaken_heard_onlyChanges last⟩
    case stream =>
      intro k found own loading stream unended next retired room top some_ extent wf
      obtain ⟨_, named⟩ := findTake_some found
      obtain ⟨spare, inUse⟩ := taken k found own ((loads_stream stream).mpr ⟨loading, unended⟩)
        (by rw [expected_stream stream, next]) ((fits_stream stream _ _).mpr ⟨room, top⟩) (by omega)
        (Or.inr (List.length_pos_iff.mp some_))
      rw [next] at spare inUse ⊢
      obtain ⟨stored, others, found', hold, resume⟩ :=
        stream_stored (h := h) (named ▸ found) stream loading unended retired room extent wf last
      rw [named] at found' hold resume
      exact ⟨_, spare, inUse, stored, others, found', hold, resume, recordsTaken_heard_onlyChanges last⟩
    case streamTests =>
      intro k found own loading stream
      have loads (unended : k.endReceived = false) := (loads_stream stream).mpr ⟨loading, unended⟩
      have expected := expected_stream stream
      have index := first.isLt
      refine ⟨fun ended => ?_, fun unended gap => ?_, fun unended next full => ?_, fun unended zero empty nil end_ => ?_,
        fun unended next room nil go => ?_, fun unended next room nil end_ something held marks => ?_⟩
      · refine congrArg _ (takeSamples_of_refused (find k found) (Or.inr ?_))
        simp [Take.loads, stream, ended]
      · rw [← expected] at gap ⊢
        exact congrArg _ (takeSamples_of_gap (find k found) own (loads unended) gap)
      · rw [← expected] at next ⊢
        refine congrArg _ (takeSamples_of_full (find k found) own (loads unended) next ?_)
        rw [Bool.eq_false_iff, Ne, fits_stream stream]
        omega
      · have answer := takeSamples_of_endOfNothing (first := first.toNat) (last := last) (rs := rs) (find k found) own (loads unended)
          (by rw [expected, zero, empty]) ((fits_stream stream _ _).mpr (by simp [nil, empty]))
          ⟨end_, by simp [zero, nil]⟩
        rw [expected, empty] at answer
        exact congrArg _ answer
      · refine congrArg _ (takeSamples_of_idle (find k found) own (loads unended) (by rw [expected, next]) ?_ ⟨go, nil⟩)
        exact (fits_stream stream _ _).mpr ⟨by simpa [nil] using room, by simp [nil]; omega⟩
      · obtain ⟨_, named⟩ := findTake_some found
        subst nil
        obtain ⟨spare, inUse⟩ := taken k found own (loads unended) (by rw [expected, next])
          ((fits_stream stream _ _).mpr ⟨by simpa using room, by simp; omega⟩) (by simp; omega) (Or.inl end_)
        have closed := findTake_modTake (loaded_id k.fill true) (find k found)
        have loaded : k.loaded k.fill true = { k with endReceived := true } := by simp [loaded_stream _ _ stream]
        rw [loaded] at closed
        have quiet : recordsTaken k first.toNat last [] (heard h s) = modTake id.toNat (Take.loaded k.fill true) (heard h s) := by
          rw [end_, recordsTaken_nil, next, named]
          refine waterMark_of_between closed ?_
          unfold Take.heldAfter Take.occupancy
          dsimp only
          cases isHeld : k.held with
          | false => simpa [isHeld] using held.symm
          | true => simpa [isHeld] using marks
        rw [quiet] at spare inUse
        exact ⟨_, modTake_heard .., closed, spare, inUse⟩
    case residentTests =>
      intro k found own loading resident nil next room
      have loads := (loads_resident resident).mpr loading
      have expected := expected_resident resident
      have fits := (fits_resident resident first.toNat rs.length).mpr (by simp [nil]; omega)
      refine ⟨fun go => ?_, fun end_ empty => ?_, fun end_ something => ?_⟩
      · exact congrArg _ (takeSamples_of_idle (find k found) own loads (by rw [expected, next]) fits ⟨go, nil⟩)
      · have answer := takeSamples_of_endOfNothing (first := first.toNat) (last := last) (find k found) own loads (by rw [expected, next]) fits
          ⟨end_, by simp [next, empty, nil]⟩
        rw [expected, empty] at answer
        exact congrArg _ answer
      · obtain ⟨_, named⟩ := findTake_some found
        subst nil
        obtain ⟨spare, inUse⟩ := taken k found own loads (by rw [expected, next]) fits (by simp; omega) (Or.inl end_)
        have closed := findTake_modTake (loaded_id k.length true) (find k found)
        have loaded : k.loaded k.length true = { k with state := .ready } := by simp [loaded_resident _ _ resident]
        rw [loaded] at closed
        have quiet : recordsTaken k first.toNat last [] (heard h s) =
            modTake id.toNat (Take.loaded k.length true) (heard h s) := by
          rw [end_, recordsTaken_nil, next, named]
          exact waterMark_of_not_stream closed (Or.inl resident)
        rw [quiet] at spare inUse
        exact ⟨_, modTake_heard .., closed, spare, inUse⟩
  case water =>
    intro id k s found
    refine ⟨fun stream loading free high => ⟨_, rfl, waterMark_of_high found stream loading free high⟩,
      fun stream loading held low => ⟨_, rfl, waterMark_of_low found stream loading held low⟩, ?_⟩
    rintro (resident | state | ⟨free, few⟩ | ⟨held, many⟩)
    · exact waterMark_of_not_stream found (Or.inl resident)
    · exact waterMark_of_not_stream found (Or.inr state)
    · exact waterMark_of_between found (by
        rw [Take.heldAfter, free]; exact decide_eq_false (Nat.not_le.mpr few))
    · exact waterMark_of_between found (by
        rw [Take.heldAfter, held]; exact decide_eq_true many)
  case record =>
    rintro k n written r s w rfl
    exact ⟨storeRecord_of_fails, storeRecord_of_inRange⟩
  case latch =>
    intro id n k s found
    exact ⟨fun empty => ⟨latchRange_findTake found empty n, latchRange_attention found empty n,
      latchRange_onlyChanges id n s, latchRange_store id n s⟩, fun set => latchRange_of_latched found set n⟩
  case chans => exact fun s c hc => allChans_getLsbD s hc

end Sys2Proof.Machine
end

section
/-! The cursor of a take, its marks, the recording write and the value of a take (O51). -/

namespace Sys2Proof.Machine

open Sys2Proof

/-! ### The take that plays (R162, R164) -/

theorem playedTake_of_plays {s : State} {id : Nat} {k : Take} (plays : s.tpr.activity.plays = true)
    (take : s.tpr.take = some id) (found : s.findTake id = some k) : s.playedTake = some k := by
  simp [State.playedTake, plays, take, found]

theorem playedTake_of_not_plays {s : State} (idle : s.tpr.activity.plays = false) : s.playedTake = none := by
  simp [State.playedTake, idle]

/-- The take that plays, if there is one, is the take in use. -/
theorem playedTake_some {s : State} {k : Take} (played : s.playedTake = some k) :
    s.tpr.activity.plays = true ∧ ∃ id, s.tpr.take = some id ∧ s.findTake id = some k := by
  unfold State.playedTake at played
  split at played
  case isTrue plays => exact ⟨plays, Option.bind_eq_some_iff.mp played⟩
  case isFalse => cases played

theorem readsHeld_resident {k : Take} (resident : k.kind = .resident) (c : Nat) : k.readsHeld c = true := by
  simp [Take.readsHeld, resident]

theorem readsHeld_stream {k : Take} (stream : k.kind = .stream) (c : Nat) : k.readsHeld c = true ↔
    (k.retired ≤ c / 4096 ∧ c / 4096 < k.fill) ∧
      (c % 4096 = 0 ∨ k.retired ≤ c / 4096 + 1 ∧ c / 4096 + 1 < k.fill) := by
  simp [Take.readsHeld, Take.holds, stream]

theorem limitCursor_resident {k : Take} (resident : k.kind = .resident) (c : Nat) :
    k.limitCursor c = min ((k.length - 1) * 4096) c := by
  simp [Take.limitCursor, Take.cap, resident, Nat.min_comm]

theorem advanceBase_of_plays {s : State} {id : Nat} {k : Take} (plays : s.tpr.activity.plays = true)
    (take : s.tpr.take = some id) (found : s.findTake id = some k) : advanceBase s =
    { s with tpr.base := k.limitCursor (s.tpr.base + s.tpr.rate.getD 0 * 32 * s.pu.applied) } := by
  simp [advanceBase, plays, take, found]

/-! ### UNDERRUN (R164) -/

theorem underrunTake_of_short {s : State} {j : Nat} {k : Take} (played : s.playedTake = some k)
    (short : k.readsHeld (s.cursorAt k j) = false) : s.underrunTake j = some k := by
  simp [State.underrunTake, played, short]

theorem underrunTake_of_held {s : State} {j : Nat}
    (held : ∀ k, s.playedTake = some k → k.readsHeld (s.cursorAt k j) = true) : s.underrunTake j = none := by
  unfold State.underrunTake
  rw [Option.filter_eq_none_iff]
  intro k played
  simp [held k played]

theorem formCursor_of_none {s : State} (j : Nat) (none_ : s.playedTake = none) : formCursor j s = s := by
  simp [formCursor, none_]

theorem formCursor_of_short {s : State} {j : Nat} {k : Take} (played : s.playedTake = some k)
    (short : k.readsHeld (s.cursorAt k j) = false) : formCursor j s = s := by
  simp [formCursor, played, short]

theorem formCursor_of_held {s : State} {j : Nat} {k : Take} (played : s.playedTake = some k)
    (held : k.readsHeld (s.cursorAt k j) = true) : formCursor j s =
    retire k.id (takeMarks k.id k (s.cursorAt k j / 4096) { s with tpr.cursor := s.cursorAt k j }) := by
  simp [formCursor, played, held]

/-! ### Retirement (R147) -/

theorem retire_of_resident {id : Nat} {k : Take} {s : State} (found : s.findTake id = some k)
    (resident : k.kind = .resident) : retire id s = s := by
  simp [retire, found, resident]

/-- A water-mark test changes nothing of a take but HELD. -/
theorem waterMark_findTake_held {id : Nat} {k : Take} {s : State} (found : s.findTake id = some k)
    (stream : k.kind = .stream) : ∃ b, (waterMark id s).findTake id = some { k with held := b } := by
  by_cases loading : k.state = .loading
  · exact ⟨k.heldAfter, waterMark_findTake found stream loading⟩
  · refine ⟨k.held, ?_⟩
    rw [waterMark_of_not_stream found (Or.inr loading), found]

theorem retire_findTake {id : Nat} {k : Take} {s : State} (found : s.findTake id = some k) (stream : k.kind = .stream) :
    ∃ k', (retire id s).findTake id = some k' ∧ k'.retired = max k.retired (min k.fill (s.tpr.cursor / 4096)) ∧
      k'.fill = k.fill := by
  unfold retire
  rw [found]
  dsimp only
  split
  case isTrue behind =>
    have moved := findTake_modTake
      (f := fun t : Take => { t with retired := min k.fill (s.tpr.cursor / 4096) }) (fun _ => rfl) found
    obtain ⟨b, found'⟩ := waterMark_findTake_held moved stream
    exact ⟨_, found', (Nat.max_eq_right behind.2.le).symm, rfl⟩
  case isFalse none_ =>
    have reached : min k.fill (s.tpr.cursor / 4096) ≤ k.retired := Nat.le_of_not_lt fun less => none_ ⟨stream, less⟩
    exact ⟨k, found, (Nat.max_eq_left reached).symm, rfl⟩

/-! ### Marks (R166) -/

/-- The MARK of a sample index of a take, with the index, if it is not 0. -/
def State.markAt (s : State) (k : Take) (m : Nat) : Option (Nat × Nat) :=
  if (s.sampleAt k m).mark.toNat = 0 then none else some (m, (s.sampleAt k m).mark.toNat)

/-- The marks of the indices up to `n` that the cursor newly reaches. -/
def State.newMarks (s : State) (k : Take) (n : Nat) : List (Nat × Nat) :=
  (List.range' (s.tpr.markIdx.elim 0 (· + 1)) (n + 1 - s.tpr.markIdx.elim 0 (· + 1))).filterMap (s.markAt k)

theorem markAt_eq_some {s : State} {k : Take} {m : Nat} {p : Nat × Nat} : s.markAt k m = some p ↔
    p.1 = m ∧ p.2 ≠ 0 ∧ p.2 = (s.ts.store.read (k.position m)).mark.toNat := by
  obtain ⟨i, c⟩ := p
  unfold State.markAt State.sampleAt
  split
  case isTrue zero => simp [zero]
  case isFalse other =>
    simp only [Option.some.injEq, Prod.mk.injEq]
    constructor
    · rintro ⟨rfl, rfl⟩; exact ⟨rfl, other, rfl⟩
    · rintro ⟨rfl, _, rfl⟩; exact ⟨rfl, rfl⟩

/-- Announcing the marks leaves the store they are read from, so they may be read beforehand. -/
theorem foldl_marks_eq (id : Nat) (k : Take) (s : State) (l : List Nat) : ∀ u : State, u.ts = s.ts →
    l.foldl (fun (v : State) m => if (v.sampleAt k m).mark.toNat = 0 then v
      else broadcast (.mark id m (v.sampleAt k m).mark.toNat) v) u =
    (l.filterMap (s.markAt k)).foldl (fun v p => broadcast (.mark id p.1 p.2) v) u := by
  induction l with
  | nil => exact fun _ _ => rfl
  | cons m l ih =>
    intro u ts
    have same : (u.sampleAt k m).mark.toNat = (s.sampleAt k m).mark.toNat := by unfold State.sampleAt; rw [ts]
    rw [List.foldl_cons, same]
    unfold State.markAt
    by_cases zero : (s.sampleAt k m).mark.toNat = 0
    · rw [if_pos zero, List.filterMap_cons_none (by simp [zero])]
      exact ih u ts
    · rw [if_neg zero, List.filterMap_cons_some (b := (m, (s.sampleAt k m).mark.toNat)) (by simp [zero])]
      exact ih _ (by simpa using ts)

theorem takeMarks_eq (id n : Nat) (k : Take) (s : State) : takeMarks id k n s =
    { (s.newMarks k n).foldl (fun s m => broadcast (.mark id m.1 m.2) s) s with tpr.markIdx := some n } := by
  unfold takeMarks State.newMarks
  dsimp only
  rw [foldl_marks_eq id k s _ s rfl]

theorem newMarks_sorted (n : Nat) (k : Take) (s : State) : (s.newMarks k n).Pairwise fun a b => a.1 < b.1 := by
  unfold State.newMarks
  refine List.Pairwise.filterMap _ (fun a b less p hp q hq => ?_) List.pairwise_lt_range'
  rwa [(markAt_eq_some.mp hp).1, (markAt_eq_some.mp hq).1]

theorem mem_newMarks (n : Nat) (k : Take) (s : State) (m c : Nat) : (m, c) ∈ s.newMarks k n ↔
    m ≤ n ∧ (∀ p, s.tpr.markIdx = some p → p < m) ∧ c ≠ 0 ∧ c = (s.ts.store.read (k.position m)).mark.toNat := by
  have new : s.tpr.markIdx.elim 0 (· + 1) ≤ m ↔ ∀ p, s.tpr.markIdx = some p → p < m := by
    cases s.tpr.markIdx <;> simp
  simp only [State.newMarks, List.mem_filterMap, markAt_eq_some, List.mem_range'_1, ← new]
  constructor
  · rintro ⟨_, ⟨low, high⟩, rfl, code⟩
    exact ⟨by omega, low, code⟩
  · rintro ⟨high, low, code⟩
    exact ⟨m, ⟨low, by omega⟩, rfl, code⟩

/-! ### The recording write (R144, R179, R181) -/

theorem storeRecord_findTake {k : Take} {s : State} (found : s.findTake k.id = some k) (n : Nat) (written : ChanSet)
    (r : Sample) : ∃ l, (storeRecord k n written r s).findTake k.id = some { k with latch := l } := by
  have found' : ({ s with ts.store := s.ts.store.write (k.position n) r } : State).findTake k.id = some k :=
    (findTake_congr rfl k.id).trans found
  by_cases fails : RangeFails s.cfg written k.chanSet r
  · rw [storeRecord_of_fails fails]
    by_cases empty : k.latch = none
    · exact ⟨some n, latchRange_findTake found' empty n⟩
    · exact ⟨k.latch, (congrArg (State.findTake · k.id) (latchRange_of_latched found' empty n)).trans found'⟩
  · rw [storeRecord_of_inRange fails]
    exact ⟨k.latch, found'⟩

/-- The node with the record of a tick stored and counted, before the test of the extent. -/
def recordCounted (k : Take) (s : State) : State :=
  modTake k.id (fun t => { t with length := t.length + 1 })
    (storeRecord k k.length s.allChans (s.sourceRecord s.tpr.markPrev) s)

/-- The node at a full extent: the recording ends, and the live control stands. -/
def extentFull (s : State) : State :=
  raise .takeFull { endRecording s with
    tpr.take := none
    tpr.activity := .live }

section recording

variable {s : State} {id : Nat} {k : Take}

theorem recordingWrite_of_recording (recording : s.tpr.activity = .recording) (take : s.tpr.take = some id)
    (found : s.findTake id = some k) (state : k.state = .recording) (room : k.length < k.size) : recordingWrite s =
    if k.length + 1 = k.size then extentFull (recordCounted k s) else recordCounted k s := by
  unfold recordingWrite
  rw [recording, take]
  simp only [Option.bind_some, found]
  rw [if_pos ⟨state, room⟩]
  rfl

theorem recordCounted_tpr : (recordCounted k s).tpr = s.tpr := by simp [recordCounted]

theorem recordCounted_onlyChanges : OnlyChanges [.ts, .store, .tpr, .attention] s (recordCounted k s) := by
  refine ((storeRecord_onlyChanges k k.length s.allChans (s.sourceRecord s.tpr.markPrev) s).mono (by simp)).trans ?_
  unfold recordCounted
  simp [onlyChanges_iff, modTake]

theorem recordCounted_findTake (found : s.findTake k.id = some k) :
    ∃ l, (recordCounted k s).findTake k.id = some { k with
      length := k.length + 1
      latch := l } := by
  obtain ⟨l, stored⟩ := storeRecord_findTake found k.length s.allChans (s.sourceRecord s.tpr.markPrev)
  exact ⟨l, findTake_modTake (f := fun t => { t with length := t.length + 1 }) (fun _ => rfl) stored⟩

theorem recordCounted_read (resident : k.kind = .resident) (room : k.length < k.size) (extent : k.base + k.size ≤ 8192)
    (wf : StoreWf s) (p : Nat) : (recordCounted k s).ts.store.read p =
    if p = k.base + k.length then s.sourceRecord s.tpr.markPrev else s.ts.store.read p := by
  have at_ := position_resident resident k.length
  rw [← at_]
  exact storeRecord_read wf (by rw [at_]; omega) p

theorem extentFull_findTake (take : s.tpr.take = some id) (found : s.findTake id = some k) (some_ : k.length ≠ 0) :
    (extentFull s).findTake id = some { k with state := .ready } := by
  have ended := findTake_modTake (f := fun t : Take => { t with state := if t.length = 0 then .loading else .ready })
    (fun _ => rfl) found
  rw [← endRecording_eq take, if_neg some_] at ended
  exact ended

theorem extentFull_tpr : (extentFull s).tpr = { s.tpr with
    take := none
    activity := .live } := by
  simp [extentFull, raise]

theorem extentFull_onlyChanges : OnlyChanges [.ts, .store, .tpr, .attention] s (extentFull s) := by
  simp [onlyChanges_iff, extentFull, raise]

theorem extentFull_read (p : Nat) : (extentFull s).ts.store.read p = s.ts.store.read p := by
  simp [extentFull, raise]

end recording

/-! ### The half-up interpolation (R60, R62) -/

theorem interpolate_eq (a b f : Nat) (ha : a ≤ 65535) (hb : b ≤ 65535) (hf : f ≤ 4095) :
    4096 * ((interpolate a b f : Int) - a) ≤ ((b : Int) - a) * f + 2048 ∧
    ((b : Int) - a) * f + 2048 < 4096 * ((interpolate a b f : Int) - a + 1) ∧
    min a b ≤ interpolate a b f ∧ interpolate a b f ≤ max a b := by
  have slope : min (0 : Int) (((b : Int) - a) * 4095) ≤ ((b : Int) - a) * f ∧
      ((b : Int) - a) * f ≤ max (0 : Int) (((b : Int) - a) * 4095) := by
    rcases Nat.le_total a b with rise | fall
    · have low : 0 ≤ ((b : Int) - a) * f := Int.mul_nonneg (by omega) (by omega)
      have high : ((b : Int) - a) * f ≤ ((b : Int) - a) * 4095 := Int.mul_le_mul_of_nonneg_left (by omega) (by omega)
      omega
    · have low : ((a : Int) - b) * f ≤ ((a : Int) - b) * 4095 := Int.mul_le_mul_of_nonneg_left (by omega) (by omega)
      have high : 0 ≤ ((a : Int) - b) * f := Int.mul_nonneg (by omega) (by omega)
      have mirrored : ((b : Int) - a) * f = -(((a : Int) - b) * f) := by ring
      omega
  unfold interpolate
  generalize ((b : Int) - a) * f = p at *
  omega

theorem interpolate_zero (a b : Nat) : interpolate a b 0 = a := by
  unfold interpolate
  rw [Int.natCast_zero, Int.mul_zero]
  omega

/-! ### The value of a take (R60, R63) -/

theorem takeValue_of_plays {s : State} {id : Nat} {k : Take} (take : s.tpr.take = some id) (found : s.findTake id = some k)
    (plays : s.tpr.activity.plays = true) (i : Nat) : s.takeValue i =
    if s.tpr.cursor % 4096 = 0 then ((s.ts.store.read (k.position (s.tpr.cursor / 4096))).value i).toNat
    else interpolate ((s.ts.store.read (k.position (s.tpr.cursor / 4096))).value i).toNat
      ((s.ts.store.read (k.position (s.tpr.cursor / 4096 + 1))).value i).toNat (s.tpr.cursor % 4096) := by
  simp [State.takeValue, State.sampleAt, take, found, plays]

theorem takeValue_of_cue {s : State} {id : Nat} {k : Take} (take : s.tpr.take = some id) (found : s.findTake id = some k)
    (cued : s.tpr.activity.plays = false) (i : Nat) :
    s.takeValue i = ((s.ts.store.read (k.position 0)).value i).toNat := by
  simp [State.takeValue, State.sampleAt, take, found, cued]

/-- Settles O51: the cursor by the take that plays, the marks by the list of those newly reached, the recording write by
the record stored and the test of the extent. -/
theorem cursorAndRecordingMoveInTheTake : Obligations.CursorAndRecordingMoveInTheTake := by
  unfold Obligations.CursorAndRecordingMoveInTheTake
  have resident_cursor (j id : Nat) (k : Take) (s : State) (plays : s.tpr.activity.plays = true)
      (take : s.tpr.take = some id) (found : s.findTake id = some k) (resident : k.kind = .resident) :
      formCursor j s = takeMarks id k (s.cursorAt k j / 4096) { s with tpr.cursor := s.cursorAt k j } := by
    obtain ⟨_, rfl⟩ := findTake_some found
    rw [formCursor_of_held (playedTake_of_plays plays take found) (readsHeld_resident resident _)]
    exact retire_of_resident ((findTake_congr (by simp) k.id).trans found) resident
  refine ⟨?resident, ?short, ?held, ?idle, ?stream, ?reads, ?recording, resident_cursor,
    fun id n k s => ⟨_, takeMarks_eq id n k s, newMarks_sorted n k s, mem_newMarks n k s⟩,
    fun k m => ⟨fun resident => position_resident resident m, fun stream => position_stream stream m⟩, ?interpolate, ?value⟩
  case resident =>
    intro j id r k s plays take found rate resident
    rw [resident_cursor j id k s plays take found resident]
    refine ⟨?_, ?_, by simp [onlyChanges_iff], ?_⟩
    · rw [takeMarks_tpr]
      simp [State.cursorAt, limitCursor_resident resident, rate]
    · rw [advanceBase_of_plays plays take found, limitCursor_resident resident, rate]
      rfl
    · rw [advanceBase_of_plays plays take found]
      simp [onlyChanges_iff]
  case short =>
    intro j id k s plays take found stream short
    obtain ⟨_, rfl⟩ := findTake_some found
    have played := playedTake_of_plays plays take found
    have under := underrunTake_of_short played short
    exact ⟨formCursor_of_short played short, under, by rw [raiseUnderrun, under]; rfl, by rw [under]; rfl⟩
  case held =>
    intro j s enough
    have none_ : s.underrunTake j = none := underrunTake_of_held fun k played => by
      obtain ⟨plays, id, take, found⟩ := playedTake_some played
      rcases enough with idle | all
      · simp [plays] at idle
      · exact (all id k take found).elim (fun resident => readsHeld_resident resident _) (fun held => held)
    exact ⟨none_, by rw [raiseUnderrun, none_]; rfl⟩
  case idle => exact fun j s idle => formCursor_of_none j (playedTake_of_not_plays idle)
  case stream =>
    intro j id k s plays take found stream held
    obtain ⟨_, rfl⟩ := findTake_some found
    have found' : (takeMarks k.id k (s.cursorAt k j / 4096) { s with tpr.cursor := s.cursorAt k j }).findTake k.id = some k :=
      (findTake_congr (by simp) k.id).trans found
    obtain ⟨k', retired, past, fill⟩ := retire_findTake found' stream
    rw [takeMarks_tpr] at past
    rw [formCursor_of_held (playedTake_of_plays plays take found) held]
    refine ⟨?_, ?_, k', retired, past, fill⟩
    · rw [show ∀ u, (retire k.id u).tpr = u.tpr by simp, takeMarks_tpr]
    · unfold State.cursorAt Take.limitCursor
      cases k.cap with
      | none => rfl
      | some m => exact Nat.min_comm _ _
  case reads => exact fun k c stream => readsHeld_stream stream c
  case recording =>
    intro id k s recording take found resident state room extent wf
    obtain ⟨_, rfl⟩ := findTake_some found
    have read := recordCounted_read resident room extent wf
    obtain ⟨l, counted⟩ := recordCounted_findTake found
    rw [recordingWrite_of_recording recording take found state room]
    by_cases full : k.length + 1 = k.size
    · rw [if_pos full]
      have ended := extentFull_findTake (s := recordCounted k s) (by rw [recordCounted_tpr]; exact take) counted (by simp)
      refine ⟨?_, fun p other => ?_, ⟨_, ended, rfl, by simp [full]⟩, fun _ => ?_, fun less => by omega,
        recordCounted_onlyChanges.trans extentFull_onlyChanges⟩
      · rw [extentFull_read, read, if_pos rfl]
      · rw [extentFull_read, read, if_neg other]
      · rw [extentFull_tpr]
        exact ⟨rfl, rfl, attentionHas_attentionRaise_self ..⟩
    · rw [if_neg full]
      exact ⟨(read _).trans (if_pos rfl), fun p other => (read p).trans (if_neg other),
        ⟨_, counted, rfl, by simp [full, state]⟩, fun less => absurd less full, fun _ => recordCounted_tpr,
        recordCounted_onlyChanges⟩
  case interpolate =>
    intro a b f ha hb hf
    obtain ⟨low, high, least, most⟩ := interpolate_eq a b f ha hb hf
    exact ⟨low, high, least, most, interpolate_zero a b⟩
  case value =>
    intro s id i k take found
    refine ⟨fun plays => ⟨fun whole => ?_, fun part => ?_⟩, fun cued => takeValue_of_cue take found cued i⟩
    · rw [takeValue_of_plays take found plays, if_pos whole]
    · rw [takeValue_of_plays take found plays, if_neg part]

end Sys2Proof.Machine
end

section
/-! LIVE messages (O29). -/

namespace Sys2Proof.Machine

open Sys2Proof

/-! ### A request that is taken (R54) -/

theorem enter_entersMode {table : List (Nat × Int)} {m : Mode} {c : Chan} (other : c.mode ≠ m) :
    EntersMode table m c (c.enter table m) := by
  unfold EntersMode Chan.enter
  refine ⟨rfl, ?_, ?_, ?_, ?_, ?_, ?_, ?_, ?_, ?_, ?_⟩ <;> cases m <;> simp_all

theorem requested_entersMode {table : List (Nat × Int)} {m : Mode} {c : Chan} (ne : m ≠ .hold) (other : c.mode ≠ m) :
    EntersMode table m c (requested true table m c) := by
  have leads : c.modeFor m = m := by simp [Chan.modeFor, ne]
  rw [requested, leads, if_neg (by simp [other])]
  exact enter_entersMode other

/-! ### One channel of a LIVE (R172, R174) -/

/-- What a goal dated `d` makes of a channel. -/
def goaled (s : State) (d : FrameNo) (v i : Nat) (view : LiveView) : LiveView :=
  if view.inSet then { view with live.pend := setPend view.live.pend d v }
  else
    { chan := requested (s.dlu.lines.get i).enable (s.cfg.chan.get i).table .live view.chan
      live := { age := 0, pend := setPend [] d v }
      inSet := true }

theorem modLive_view {i j : Nat} (hi : i < 4) (hj : j < 4) (f : LiveChan → LiveChan) (s : State) :
    (modLive i f s).liveView j = if j = i then { s.liveView j with live := f (s.tpr.live.get j) } else s.liveView j := by
  simp only [State.liveView, modLive, quad_get_set _ _ _ _ hi hj]
  by_cases same : j = i
  · subst same; simp
  · simp [same]

theorem takeGoal_view {d : FrameNo} {v i j : Nat} (hi : i < 4) (hj : j < 4) {s : State} (armed : s.ss.safety = .armed) :
    (takeGoal d i v s).liveView j = if j = i then goaled s d v j (s.liveView j) else s.liveView j := by
  unfold takeGoal
  rw [modLive_view hi hj]
  by_cases same : j = i
  · subst same
    rw [if_pos rfl, if_pos rfl]
    unfold goaled
    by_cases inSet : s.tpr.liveSet.getLsbD j = true
    · have inSet' : (s.liveView j).inSet = true := inSet
      rw [if_pos inSet, if_pos inSet']
      rfl
    · have inSet' : ¬ (s.liveView j).inSet = true := inSet
      rw [if_neg inSet, if_neg inSet']
      have entered := enterLive_view hj hj armed
      rw [if_pos rfl] at entered
      have live : (enterLive j s).tpr.live.get j = { age := 0, pend := [] } := congrArg LiveView.live entered
      rw [entered, live]
      rfl
  · rw [if_neg same, if_neg same]
    split
    case isTrue => rfl
    case isFalse => exact (enterLive_view hi hj armed).trans (if_neg same)

theorem takeGoal_tpr (d : FrameNo) (i v : Nat) (s : State) : (takeGoal d i v s).tpr =
    { s.tpr with
      liveSet := (takeGoal d i v s).tpr.liveSet
      live := (takeGoal d i v s).tpr.live } := by
  unfold takeGoal modLive
  dsimp only
  split
  case isTrue => rfl
  case isFalse => rw [enterLive_tpr]

theorem takeGoal_onlyChanges (d : FrameNo) (i v : Nat) (s : State) : OnlyChanges [.chans, .tpr] s (takeGoal d i v s) := by
  simp [onlyChanges_iff]

/-- What a release makes of a channel. -/
def released (s : State) (i : Nat) (view : LiveView) : LiveView := if view.inSet then unlive s i view else view

theorem releaseLive_view {i j : Nat} (hi : i < 4) (hj : j < 4) {s : State} (armed : s.ss.safety = .armed) :
    (releaseLive i s).liveView j = if j = i then released s j (s.liveView j) else s.liveView j := by
  unfold releaseLive released
  by_cases same : j = i
  · subst same
    rw [if_pos rfl]
    by_cases inSet : s.tpr.liveSet.getLsbD j = true
    · have inSet' : (s.liveView j).inSet = true := inSet
      rw [if_pos inSet, if_pos inSet', leaveLive_view hj hj armed, if_pos rfl]
    · have inSet' : ¬ (s.liveView j).inSet = true := inSet
      rw [if_neg inSet, if_neg inSet']
  · rw [if_neg same]
    split
    case isTrue => exact (leaveLive_view hi hj armed).trans (if_neg same)
    case isFalse => rfl

theorem releaseLive_tpr (i : Nat) (s : State) : (releaseLive i s).tpr =
    { s.tpr with
      liveSet := (releaseLive i s).tpr.liveSet
      live := (releaseLive i s).tpr.live } := by
  unfold releaseLive
  split
  case isTrue => rw [leaveLive_tpr]
  case isFalse => rfl

theorem releaseLive_onlyChanges (i : Nat) (s : State) : OnlyChanges [.chans, .tpr] s (releaseLive i s) := by
  simp [onlyChanges_iff]

/-! ### The channels of a LIVE -/

/-- One channel of a LIVE handled: a goal with ENABLE set, a release with it clear. -/
def liveStep (enable : Bool) (d : FrameNo) (mask : ChanSet) (values : List U16) (s : State) (i : Nat) : State :=
  if enable then takeGoal d i (liveValue mask values i) s else releaseLive i s

/-- What a LIVE makes of a channel it applies to. -/
def handled (enable : Bool) (d : FrameNo) (mask : ChanSet) (values : List U16) (s : State) (i : Nat) (view : LiveView) :
    LiveView :=
  if enable then goaled s d (liveValue mask values i) i view else released s i view

section steps

variable (enable : Bool) (d : FrameNo) (mask : ChanSet) (values : List U16)

theorem liveStep_view {i j : Nat} (hi : i < 4) (hj : j < 4) {s : State} (armed : s.ss.safety = .armed) :
    (liveStep enable d mask values s i).liveView j =
      if j = i then handled enable d mask values s j (s.liveView j) else s.liveView j := by
  unfold liveStep handled
  cases enable with
  | true =>
    refine (takeGoal_view hi hj armed).trans ?_
    split
    case isTrue same => rw [same]; rfl
    case isFalse => rfl
  | false => exact releaseLive_view hi hj armed

theorem liveStep_onlyChanges (s : State) (i : Nat) : OnlyChanges [.chans, .tpr] s (liveStep enable d mask values s i) := by
  unfold liveStep
  split
  case isTrue => exact takeGoal_onlyChanges d i _ s
  case isFalse => exact releaseLive_onlyChanges i s

theorem liveStep_tpr (s : State) (i : Nat) : (liveStep enable d mask values s i).tpr =
    { s.tpr with
      liveSet := (liveStep enable d mask values s i).tpr.liveSet
      live := (liveStep enable d mask values s i).tpr.live } := by
  unfold liveStep
  split
  case isTrue => exact takeGoal_tpr ..
  case isFalse => exact releaseLive_tpr ..

theorem foldl_liveStep_tpr (is : List Nat) : ∀ s : State, (is.foldl (liveStep enable d mask values) s).tpr =
    { s.tpr with
      liveSet := (is.foldl (liveStep enable d mask values) s).tpr.liveSet
      live := (is.foldl (liveStep enable d mask values) s).tpr.live } := by
  induction is with
  | nil => exact fun _ => rfl
  | cons i is ih =>
    intro s
    rw [List.foldl_cons, ih, liveStep_tpr]

theorem liveStep_same {s u : State} (same : SameOutputs s u) (i : Nat) :
    SameOutputs s (liveStep enable d mask values u i) := by
  obtain ⟨ss, dlu, cfg⟩ := same
  have only := liveStep_onlyChanges enable d mask values u i
  have ss' : (liveStep enable d mask values u i).ss = u.ss := only .ss (by simp)
  have dlu' : (liveStep enable d mask values u i).dlu = u.dlu := only .dlu (by simp)
  have cfg' : (liveStep enable d mask values u i).cfg = u.cfg := only .cfg (by simp)
  exact ⟨ss'.trans ss, dlu'.trans dlu, cfg'.trans cfg⟩

theorem foldl_liveStep_view {s : State} (armed : s.ss.safety = .armed) {is : List Nat} (each : is.Nodup)
    (inside : ∀ i ∈ is, i < 4) :
    (∀ i ∈ is, (is.foldl (liveStep enable d mask values) s).liveView i =
      handled enable d mask values s i (s.liveView i)) ∧
    ∀ j < 4, j ∉ is → (is.foldl (liveStep enable d mask values) s).liveView j = s.liveView j := by
  have armedAt {u : State} (same : SameOutputs s u) : u.ss.safety = .armed := by rw [same.1, armed]
  refine foldl_each (side := SameOutputs s) (view := State.liveView)
    (change := fun i v w => w = handled enable d mask values s i v) each inside
    (fun u i _ same => liveStep_same enable d mask values same i) (fun u i hi same => ?own)
    (fun u i hi j hj ne same => ?other) (.refl s)
  case own =>
    rw [liveStep_view enable d mask values (inside i hi) (inside i hi) (armedAt same), if_pos rfl]
    simp only [handled, goaled, released, unlive, same.2.1, same.2.2]
  case other => rw [liveStep_view enable d mask values (inside i hi) hj (armedAt same), if_neg ne]

/-- The node after the channels of a LIVE: with one that begins live control it is LIVE. -/
def liveBegun (is : List Nat) (s : State) : State :=
  if enable = true ∧ s.tpr.activity = .idle ∧ is ≠ [] then { s with tpr.activity := .live } else s

/-- The MARK of a LIVE taken in LIVE and RECORDING (R178; log entry 48). -/
def liveMarked (mark : Nat) (s : State) : State :=
  if s.tpr.activity = .live ∨ s.tpr.activity = .recording then takeMark d mark s else s

theorem liveMarked_tpr (mark : Nat) (s : State) : (liveMarked d mark s).tpr = { s.tpr with
    markPend := if s.tpr.activity = .live ∨ s.tpr.activity = .recording then setPend s.tpr.markPend d mark
      else s.tpr.markPend } := by
  unfold liveMarked takeMark
  split
  case isTrue => rfl
  case isFalse => rfl

/-- The channels a LIVE applies to. -/
def State.applicable (s : State) (mask : ChanSet) : List Nat := chanList (mask &&& s.allChans &&& s.admitted)

theorem takeLive_of_armed {o : Nat} {s : State} (control : s.isControl o = true) (armed : s.ss.safety = .armed) (mark : Nat) :
    takeLive o d enable mask mark values s = liveMarked d mark (liveBegun enable (s.applicable mask)
      ((s.applicable mask).foldl (liveStep enable d mask values) s)) := by
  unfold takeLive
  rw [if_neg (by simp [control, armed])]
  have handled : (if enable = true then
      let u := (s.applicable mask).foldl (fun u i => takeGoal d i (liveValue mask values i) u) s
      if u.tpr.activity = .idle ∧ s.applicable mask ≠ [] then { u with tpr.activity := .live } else u
      else (s.applicable mask).foldl (fun u i => releaseLive i u) s) =
      liveBegun enable (s.applicable mask) ((s.applicable mask).foldl (liveStep enable d mask values) s) := by
    cases enable with
    | true =>
      have steps : liveStep true d mask values = fun s i => takeGoal d i (liveValue mask values i) s := rfl
      rw [steps]
      simp only [liveBegun, if_true, true_and]
    | false =>
      have steps : liveStep false d mask values = fun s i => releaseLive i s := rfl
      rw [steps]
      simp only [liveBegun, Bool.false_eq_true, if_false, false_and]
  unfold State.applicable at handled ⊢
  dsimp only at handled ⊢
  rw [handled]
  generalize liveBegun enable _ _ = u
  unfold liveMarked
  cases u.tpr.activity <;> simp

end steps

/-! ### A LIVE that is taken -/

/-- The node after a LIVE from a control station at an ARMED node. -/
def liveTaken (h : Header) (enable : Bool) (mask : ChanSet) (mark : Byte) (values : List U16) (s : State) : State :=
  takeLive h.source.toNat (heard h s).dateNow enable mask mark.toNat values (heard h s)

theorem applicable_heard (h : Header) (s : State) (mask : ChanSet) : (heard h s).applicable mask = s.applicable mask := by
  simp [State.applicable, State.admitted, State.allChans]

theorem mem_applicable {s : State} {mask : ChanSet} {i : Nat} : i ∈ s.applicable mask ↔
    i < 4 ∧ mask.getLsbD i = true ∧ i < s.cfg.nChans ∧ s.admitted.getLsbD i = true := by
  simp only [State.applicable, mem_chanList, BitVec.getLsbD_and, Bool.and_eq_true, and_assoc]
  refine and_congr_right fun hi => ?_
  rw [allChans_getLsbD s hi, decide_eq_true_iff]

/-- The activity after a LIVE. -/
def State.liveActivity (s : State) (enable : Bool) (mask : ChanSet) : Activity :=
  if enable = true ∧ s.tpr.activity = .idle ∧ s.applicable mask ≠ [] then .live else s.tpr.activity

section taken

variable {h : Header} {mask : ChanSet} {s : State} (enable : Bool) (mark : Byte) (values : List U16)

theorem exec_live_of_hears (hear : hears h (2 + 2 * maskCount mask) s = true) (addressed : s.addressed h = true) :
    exec (.live h enable mask mark values) s = .next (liveTaken h enable mask mark values s) :=
  addressedKind_of_hears h _ _ s hear addressed

variable (control : s.isControl h.source.toNat = true) (armed : s.ss.safety = .armed)
include control armed

theorem liveTaken_eq : liveTaken h enable mask mark values s =
    liveMarked s.dateNow mark.toNat (liveBegun enable (s.applicable mask)
      ((s.applicable mask).foldl (liveStep enable s.dateNow mask values) (heard h s))) := by
  unfold liveTaken
  have date : (heard h s).dateNow = s.dateNow := by simp [State.dateNow]
  rw [takeLive_of_armed enable _ mask values (by simpa using control) (by simpa using armed), applicable_heard, date]

theorem liveTaken_view : (∀ i ∈ s.applicable mask, (liveTaken h enable mask mark values s).liveView i =
      handled enable s.dateNow mask values s i (s.liveView i)) ∧
    ∀ j < 4, j ∉ s.applicable mask → (liveTaken h enable mask mark values s).liveView j = s.liveView j := by
  have columns : (liveTaken h enable mask mark values s).liveView =
      ((s.applicable mask).foldl (liveStep enable s.dateNow mask values) (heard h s)).liveView := by
    rw [liveTaken_eq enable mark values control armed]
    funext i
    unfold liveMarked liveBegun takeMark
    repeat' split
    all_goals rfl
  have view : (heard h s).liveView = s.liveView := by
    funext i
    simp [State.liveView]
  obtain ⟨own, other⟩ := foldl_liveStep_view enable s.dateNow mask values (s := heard h s) (by simpa using armed)
    (chanList_nodup _) (fun i listed => (mem_applicable.mp listed).1)
  rw [columns]
  rw [view] at own other
  refine ⟨fun i listed => (own i listed).trans ?_, other⟩
  simp [handled, goaled, released, unlive]

theorem liveTaken_tpr : (liveTaken h enable mask mark values s).tpr = { s.tpr with
    activity := s.liveActivity enable mask
    markPend := if s.liveActivity enable mask = .live ∨ s.liveActivity enable mask = .recording then
      setPend s.tpr.markPend s.dateNow mark.toNat else s.tpr.markPend
    liveSet := (liveTaken h enable mask mark values s).tpr.liveSet
    live := (liveTaken h enable mask mark values s).tpr.live } := by
  rw [liveTaken_eq enable mark values control armed]
  have steps := foldl_liveStep_tpr enable s.dateNow mask values (s.applicable mask) (heard h s)
  generalize (s.applicable mask).foldl (liveStep enable s.dateNow mask values) (heard h s) = u at steps
  rw [show (heard h s).tpr = s.tpr by simp] at steps
  have activity : u.tpr.activity = s.tpr.activity := by rw [steps]
  have begun : (liveBegun enable (s.applicable mask) u).tpr = { u.tpr with activity := s.liveActivity enable mask } := by
    unfold liveBegun State.liveActivity
    rw [activity]
    split
    case isTrue => rfl
    case isFalse => rw [← activity]
  rw [liveMarked_tpr, begun, steps]

theorem liveTaken_onlyChanges :
    OnlyChanges [.lif, .ru, .chans, .tpr, .attention] s (liveTaken h enable mask mark values s) := by
  rw [liveTaken_eq enable mark values control armed]
  refine ((heard_onlyChanges h s).mono (by simp)).trans
    (((foldl_onlyChanges (fun u i => liveStep_onlyChanges enable s.dateNow mask values u i) (s.applicable mask)
      (heard h s)).mono (by simp)).trans ?_)
  unfold liveMarked liveBegun takeMark
  repeat' split
  all_goals simp [onlyChanges_iff]

end taken

/-! ### What a goal and a release leave -/

theorem goaled_pend (s : State) (d : FrameNo) (v i : Nat) (view : LiveView) :
    getPend (goaled s d v i view).live.pend d = some v := by
  unfold goaled
  split <;> simp [getPend_setPend]

theorem goaled_inSet (s : State) (d : FrameNo) (v i : Nat) (view : LiveView) : (goaled s d v i view).inSet = true := by
  unfold goaled
  split
  case isTrue inSet => exact inSet
  case isFalse => rfl

theorem goaled_of_new {s : State} {d : FrameNo} {v i : Nat} {view : LiveView} (new : view.inSet = false) :
    (goaled s d v i view).live.age = 0 ∧ ((s.dlu.lines.get i).enable = true →
      (goaled s d v i view).chan.mode = .live ∧ (view.chan.mode ≠ .live →
        EntersMode (s.cfg.chan.get i).table .live view.chan (goaled s d v i view).chan)) := by
  unfold goaled
  rw [if_neg (by simp [new])]
  refine ⟨rfl, fun on => ?_⟩
  rw [on]
  exact ⟨requested_mode_of_ne_hold (by simp) _, requested_entersMode (by simp)⟩

theorem goaled_of_live {s : State} {d : FrameNo} {v i : Nat} {view : LiveView} (live : view.inSet = true) :
    (goaled s d v i view).live.age = view.live.age ∧ (goaled s d v i view).chan = view.chan := by
  unfold goaled
  rw [if_pos live]
  exact ⟨rfl, rfl⟩

theorem released_of_live {s : State} {i : Nat} {view : LiveView} (live : view.inSet = true) :
    (released s i view).inSet = false ∧ (released s i view).live.pend = [] ∧ ((s.dlu.lines.get i).enable = true →
      (released s i view).chan.mode = .halt ∧ (view.chan.mode ≠ .halt →
        EntersMode (s.cfg.chan.get i).table .halt view.chan (released s i view).chan)) := by
  unfold released
  rw [if_pos live]
  refine ⟨rfl, rfl, fun on => ?_⟩
  unfold unlive
  rw [on]
  exact ⟨requested_mode_of_ne_hold (by simp) _, requested_entersMode (by simp)⟩

/-! ### The channels that an activity admits (R171) -/

theorem admitted_of_free {s : State} (free : s.tpr.activity = .idle ∨ s.tpr.activity = .live ∨ s.tpr.activity = .recording) :
    s.admitted = s.allChans := by
  unfold State.admitted
  rcases free with idle | live | recording <;> simp [*]

theorem admitted_of_take {s : State} (take : s.tpr.activity.hasTake = true) {i : Nat} : s.admitted.getLsbD i = true ↔
    s.tpr.override.getLsbD i = true ∨
      s.tpr.activity = .playing ∧ s.tpr.punch = true ∧ s.tpr.punchMask.getLsbD i = true := by
  unfold State.admitted
  cases activity : s.tpr.activity with
  | playing => cases s.tpr.punch <;> simp
  | cueing => simp
  | cued => simp
  | easing => simp
  | idle => simp [activity, Activity.hasTake] at take
  | live => simp [activity, Activity.hasTake] at take
  | recording => simp [activity, Activity.hasTake] at take

/-- Settles O29: the channels a LIVE applies to, each with its goal or its release, by the fold over them; the others and the
MARK by what the fold leaves. -/
theorem liveMessageDrivesItsChannels : Obligations.LiveMessageDrivesItsChannels := by
  unfold Obligations.LiveMessageDrivesItsChannels
  have listed_of_free {s : State} {mask : ChanSet} {i : Nat} (few : s.cfg.nChans ≤ 4) (hi : i < s.cfg.nChans)
      (free : s.tpr.activity = .idle ∨ s.tpr.activity = .live ∨ s.tpr.activity = .recording)
      (named : mask.getLsbD i = true) : i ∈ s.applicable mask := by
    refine mem_applicable.mpr ⟨by omega, named, hi, ?_⟩
    rw [admitted_of_free free, allChans_getLsbD s (by omega), decide_eq_true hi]
  refine ⟨?goals, ?releases, ?reported, ?take⟩
  case goals =>
    intro h mask mark values s i hear addressed control armed free few hi named
    have listed := listed_of_free few hi free named
    obtain ⟨own, other⟩ := liveTaken_view (h := h) (mask := mask) true mark values control armed
    have view : _ = goaled s s.dateNow (liveValue mask values i) i (s.liveView i) := own i listed
    have tpr := liveTaken_tpr (h := h) (mask := mask) true mark values control armed
    have only := liveTaken_onlyChanges (h := h) (mask := mask) true mark values control armed
    rw [exec_live_of_hears true mark values hear addressed]
    generalize liveTaken h true mask mark values s = t at *
    have inSet : t.tpr.liveSet.getLsbD i = _ := congrArg LiveView.inSet view
    have live : t.tpr.live.get i = _ := congrArg LiveView.live view
    have chan : t.chans.get i = _ := congrArg LiveView.chan view
    have activity : t.tpr.activity = s.liveActivity true mask := by rw [tpr]
    have goesLive : s.liveActivity true mask = .live ∨ s.liveActivity true mask = .recording := by
      unfold State.liveActivity
      split
      case isTrue => exact .inl rfl
      case isFalse not =>
        exact free.resolve_left fun idle => not ⟨rfl, idle, List.ne_nil_of_mem listed⟩
    refine ⟨t, rfl, inSet.trans (goaled_inSet ..), by rw [live]; exact goaled_pend .., fun idle => ?_, fun busy => ?_, ?_,
      fun new => ?_, fun j hj unnamed => ?_, only⟩
    · exact activity.trans (if_pos ⟨rfl, idle, List.ne_nil_of_mem listed⟩)
    · exact activity.trans (if_neg fun begins => busy begins.2.1)
    · rw [tpr]
      dsimp only
      rw [if_pos goesLive, getPend_setPend, if_pos rfl]
    · rw [live, chan]
      exact goaled_of_new (view := s.liveView i) new
    · have kept := other j hj fun listed => by
        obtain ⟨_, named, _⟩ := mem_applicable.mp listed
        simp [unnamed] at named
      exact ⟨congrArg LiveView.chan kept, congrArg LiveView.live kept⟩
  case releases =>
    intro h mask mark values s i hear addressed control armed busy few hi named inSet
    have listed := listed_of_free few hi (.inr busy) named
    obtain ⟨own, -⟩ := liveTaken_view (h := h) (mask := mask) false mark values control armed
    have view : _ = released s i (s.liveView i) := own i listed
    have tpr := liveTaken_tpr (h := h) (mask := mask) false mark values control armed
    have only := liveTaken_onlyChanges (h := h) (mask := mask) false mark values control armed
    rw [exec_live_of_hears false mark values hear addressed]
    generalize liveTaken h false mask mark values s = t at *
    obtain ⟨out, empty, halts⟩ := released_of_live (s := s) (i := i) (view := s.liveView i) inSet
    rw [← view] at out empty halts
    exact ⟨t, rfl, out, empty, halts, by rw [tpr]; simp [State.liveActivity], only⟩
  case reported =>
    intro h enable mask mark values s hear reason
    obtain ⟨received, -, -⟩ := (hears_iff h _ s).1 hear
    rcases reason with elsewhere | stranger
    · exact addressedKind_of_elsewhere received elsewhere _ _
    · refine addressedKind_of_idle received _ (if_pos ?_)
      simpa using stranger
  case take =>
    intro h enable mask mark values s i hear addressed control armed take few hi
    obtain ⟨own, other⟩ := liveTaken_view (h := h) (mask := mask) enable mark values control armed
    have tpr := liveTaken_tpr (h := h) (mask := mask) enable mark values control armed
    have only := liveTaken_onlyChanges (h := h) (mask := mask) enable mark values control armed
    rw [exec_live_of_hears enable mark values hear addressed]
    generalize liveTaken h enable mask mark values s = t at *
    have notIdle : s.tpr.activity ≠ .idle := fun idle => by simp [idle, Activity.hasTake] at take
    have stays : s.liveActivity enable mask = s.tpr.activity := if_neg fun begins => notIdle begins.2.1
    have notMarked : ¬ (s.liveActivity enable mask = .live ∨ s.liveActivity enable mask = .recording) := by
      rw [stays]
      rintro (live | recording)
      · simp [live, Activity.hasTake] at take
      · simp [recording, Activity.hasTake] at take
    refine ⟨t, rfl, by rw [tpr]; exact stays, by rw [tpr]; exact if_neg notMarked, only, ?_, ?_⟩
    · rintro ⟨named, inside, admitted⟩
      have view := own i (mem_applicable.mpr ⟨hi, named, inside, (admitted_of_take take).mpr admitted⟩)
      refine ⟨fun set => ?_, fun clear inSet => ?_⟩
      · subst set
        have view : _ = goaled s s.dateNow (liveValue mask values i) i (s.liveView i) := view
        have inSet : t.tpr.liveSet.getLsbD i = _ := congrArg LiveView.inSet view
        have live : t.tpr.live.get i = _ := congrArg LiveView.live view
        have chan : t.chans.get i = _ := congrArg LiveView.chan view
        rw [inSet, live, chan]
        exact ⟨goaled_inSet .., goaled_pend .., goaled_of_new (view := s.liveView i),
          goaled_of_live (view := s.liveView i)⟩
      · subst clear
        have view : _ = released s i (s.liveView i) := view
        obtain ⟨out, empty, halts⟩ := released_of_live (s := s) (i := i) (view := s.liveView i) inSet
        rw [← view] at out empty halts
        exact ⟨out, empty, halts⟩
    · intro none_
      have kept := other i hi fun listed => by
        obtain ⟨_, named, inside, admitted⟩ := mem_applicable.mp listed
        have admitted := (admitted_of_take take).mp admitted
        rcases none_ with unnamed | outside | ⟨noOverride, noPunch⟩
        · simp [unnamed] at named
        · omega
        · rcases admitted with override | ⟨playing, punch, punched⟩
          · simp [noOverride] at override
          · simp [playing, punch, punched] at noPunch
      exact ⟨congrArg LiveView.inSet kept, congrArg LiveView.live kept, congrArg LiveView.chan kept⟩

end Sys2Proof.Machine
end

section
/-! What the operations of a tick leave: the queues, the safety state and the Pace Unit along a frame tick (O6, O17, O18, O26,
O30, O52). -/

namespace Sys2Proof.Machine

open Sys2Proof

/-! ### A message in a queue (R11 to R13) -/

theorem renew_key {e : QEntry} {m : Msg} {k : Key} (has : e.hasKey k = true) (key : m.body.key = some k) :
    (e.renew m).hasKey k = true := by
  unfold QEntry.hasKey QEntry.renew at *
  split
  case isTrue => exact has
  case isFalse => simp [key]

theorem enqueue_of_key {q : List QEntry} {m : Msg} {k : Key} (key : m.body.key = some k) : enqueue q m =
    if q.any (·.hasKey k) then some (q.map fun e => if e.hasKey k then e.renew m else e)
    else if q.length < Config.queueSize then some (q ++ [{ msg := m, succ := none, active := false }]) else none := by
  simp only [enqueue, key]

theorem enqueue_of_no_key {q : List QEntry} {m : Msg} (key : m.body.key = none) : enqueue q m =
    if q.length < Config.queueSize then some (q ++ [{ msg := m, succ := none, active := false }]) else none := by
  simp only [enqueue, key]

/-- A message leaves the order of the entries of other keys: those that stand first stay first. -/
theorem enqueue_keeps_front {pre post u : List QEntry} {m : Msg} (other : ∀ e ∈ pre, ∀ k, m.body.key = some k → e.hasKey k = false)
    (placed : enqueue (pre ++ post) m = some u) : ∃ post', u = pre ++ post' := by
  cases key : m.body.key with
  | none =>
    rw [enqueue_of_no_key key] at placed
    split at placed
    case isTrue => exact ⟨_, (Option.some.inj placed).symm.trans (List.append_assoc ..)⟩
    case isFalse => cases placed
  | some k =>
    rw [enqueue_of_key key] at placed
    split at placed
    case isTrue =>
      have kept : pre.map (fun e => if e.hasKey k then e.renew m else e) = pre :=
        (List.map_congr_left fun e he => if_neg (by simp [other e he k key])).trans (List.map_id' pre)
      exact ⟨_, (Option.some.inj placed).symm.trans (by rw [List.map_append, kept])⟩
    case isFalse =>
      split at placed
      case isTrue => exact ⟨_, (Option.some.inj placed).symm.trans (List.append_assoc ..)⟩
      case isFalse => cases placed

/-- An entry of another key stays in the queue. -/
theorem enqueue_keeps_other {q u : List QEntry} {m : Msg} {e : QEntry} (listed : e ∈ q)
    (other : ∀ k, m.body.key = some k → e.hasKey k = false) (placed : enqueue q m = some u) : e ∈ u := by
  cases key : m.body.key with
  | none =>
    rw [enqueue_of_no_key key] at placed
    split at placed
    case isTrue =>
      obtain rfl := Option.some.inj placed
      exact List.mem_append_left _ listed
    case isFalse => cases placed
  | some k =>
    rw [enqueue_of_key key] at placed
    split at placed
    case isTrue =>
      obtain rfl := Option.some.inj placed
      exact List.mem_map.mpr ⟨e, listed, if_neg (by simp [other k key])⟩
    case isFalse =>
      split at placed
      case isTrue =>
        obtain rfl := Option.some.inj placed
        exact List.mem_append_left _ listed
      case isFalse => cases placed

/-- An entry of the message's key takes it up. -/
theorem enqueue_renews {q : List QEntry} {m : Msg} {k : Key} {e : QEntry} (listed : e ∈ q) (has : e.hasKey k = true)
    (key : m.body.key = some k) : ∃ u, enqueue q m = some u ∧ e.renew m ∈ u := by
  refine ⟨_, (enqueue_of_key key).trans (if_pos (List.any_eq_true.mpr ⟨e, listed, has⟩)), ?_⟩
  exact List.mem_map.mpr ⟨e, listed, if_pos has⟩

/-- An entry of a key stands in the queue after every message. -/
theorem enqueue_keeps_key {q u : List QEntry} {m : Msg} {k : Key} (queued : ∃ e ∈ q, e.hasKey k = true)
    (placed : enqueue q m = some u) : ∃ e ∈ u, e.hasKey k = true := by
  obtain ⟨e, listed, has⟩ := queued
  by_cases key : m.body.key = some k
  · obtain ⟨u', placed', renewed⟩ := enqueue_renews listed has key
    obtain rfl : u' = u := Option.some.inj (placed'.symm.trans placed)
    exact ⟨_, renewed, renew_key has key⟩
  · refine ⟨e, enqueue_keeps_other listed (fun j other => ?_) placed, has⟩
    unfold QEntry.hasKey at has ⊢
    rw [beq_eq_false_iff_ne]
    intro same
    rw [beq_iff_eq.mp has] at same
    exact key (other.trans same.symm)

/-! ### The ROLL that states the node's claims (R101) -/

/-- The message that states the node's own claims and its own pace factor. -/
def State.ownRoll (s : State) : Msg := { dest := 0, body := s.rollBody }

/-- An entry carries a message: as its own, or during its attempt as its successor. -/
def Carries (m : Msg) (e : QEntry) : Prop := if e.active then e.succ = some m else e.msg = m

/-- A ROLL waits in the ordinary queue of a node in an open state. -/
def RollQueued (s : State) : Prop := s.ss.safety.isOpen = true ∧ ∃ e ∈ s.lif.ordinary, e.hasKey .roll = true

/-- A ROLL waits there that states the claims and the factor as they stand. -/
def RollFresh (s : State) : Prop :=
  s.ss.safety.isOpen = true ∧ ∃ e ∈ s.lif.ordinary, e.hasKey .roll = true ∧ Carries s.ownRoll e

theorem RollFresh.queued {s : State} : RollFresh s → RollQueued s
  | ⟨open_, e, listed, has, _⟩ => ⟨open_, e, listed, has⟩

theorem carries_renew (e : QEntry) (m : Msg) : Carries m (e.renew m) := by
  unfold Carries QEntry.renew
  cases active : e.active <;> simp

theorem rollBody_key (s : State) : s.rollBody.key = some .roll := rfl

theorem silent_of_parked {s : State} (parked : s.ss.safety = .parked) : s.silent = true := by
  simp [State.silent, parked]

theorem silent_of_open {s : State} (open_ : s.ss.safety.isOpen = true) : s.silent = false := by
  unfold State.silent
  cases safety : s.ss.safety <;> simp [safety, Safety.isOpen] at open_ ⊢

/-- The ordinary queue after a message: as it was, or with the message placed. -/
theorem place_ordinary (m : Msg) (s : State) : (place m s).lif.ordinary = s.lif.ordinary ∨
    enqueue s.lif.ordinary m = some (place m s).lif.ordinary := by
  unfold place
  split
  case isTrue => exact .inl rfl
  case isFalse =>
    split
    case isTrue => exact .inl rfl
    case isFalse =>
      split
      case isTrue =>
        split
        next => exact .inl rfl
        next => exact .inl rfl
      case isFalse =>
        split
        next placed => exact .inr placed
        next => exact .inl rfl

/-- A message of the ordinary queue that finds a place there, at a node in an open state. -/
theorem place_ordinary_of_room {m : Msg} {s : State} {u : List QEntry} (open_ : s.ss.safety.isOpen = true)
    (ordinary : 2 ≤ m.body.cls) (placed : enqueue s.lif.ordinary m = some u) : (place m s).lif.ordinary = u := by
  obtain ⟨-, toOrdinary⟩ := place_of_taken m s (mayQueue_of_open _ s open_)
  rw [toOrdinary ordinary, placed]
  rfl

theorem place_parked {s : State} (parked : s.ss.safety = .parked) (m : Msg) : place m s = s :=
  if_pos (silent_of_parked parked)

/-! ### What an operation of a tick leaves -/

/-- Every condition of the attention set stands. -/
def Raises (s t : State) : Prop := ∀ a, attentionHas s.attention a = true → attentionHas t.attention a = true

/-- What every operation of a tick's work leaves, whatever it does to the claims: the Pace Unit but for its pending ease
settings, the counts of the LIF, the conditions of the attention set, an open state, DISARMED and PARKED, a queued ROLL, and, where no STATE is composed, a STATE
that stands first. -/
structure Steps (noState : Prop) (s t : State) : Prop where
  pu : t.pu = { s.pu with easePend := t.pu.easePend }
  sends : SendsOnly s t
  raised : Raises s t
  isOpen : s.ss.safety.isOpen = true → t.ss.safety.isOpen = true
  disarmed : s.ss.safety = .disarmed → t.ss.safety = .disarmed
  parked : s.ss.safety = .parked → t.ss = s.ss ∧ t.lif = s.lif
  queued : RollQueued s → RollQueued t
  head : noState → ∀ e rest, s.lif.ordinary = e :: rest → e.hasKey .state = true → ∃ rest', t.lif.ordinary = e :: rest'

/-- What an operation of a tick's work leaves that states its changes of the claims: a ROLL that is up to date stays so. -/
structure Works (noState : Prop) (s t : State) : Prop extends Steps noState s t where
  fresh : RollFresh s → RollFresh t

/-- What the ROLL, the queues and the Pace Unit are read from is the same, and no condition is released. -/
def Untouched (s t : State) : Prop :=
  t.lif = s.lif ∧ t.ss = s.ss ∧ t.pu = s.pu ∧ t.zu.ownFactor = s.zu.ownFactor ∧ t.cfg.station = s.cfg.station ∧
    ∀ a, attentionHas s.attention a = true → attentionHas t.attention a = true

section relation

variable {q : Prop} {s t u : State}

theorem Steps.trans (first : Steps q s t) (second : Steps q t u) : Steps q s u where
  pu := by rw [second.pu, first.pu]
  sends := first.sends.trans second.sends
  raised a present := second.raised a (first.raised a present)
  isOpen open_ := second.isOpen (first.isOpen open_)
  disarmed d := second.disarmed (first.disarmed d)
  parked p := by
    obtain ⟨ss, lif⟩ := first.parked p
    obtain ⟨ss', lif'⟩ := second.parked (by rw [ss, p])
    exact ⟨ss'.trans ss, lif'.trans lif⟩
  queued r := second.queued (first.queued r)
  head none_ e rest here has := by
    obtain ⟨rest', here'⟩ := first.head none_ e rest here has
    exact second.head none_ e rest' here' has

theorem Works.trans (first : Works q s t) (second : Works q t u) : Works q s u where
  toSteps := first.toSteps.trans second.toSteps
  fresh r := second.fresh (first.fresh r)

theorem Steps.of_lif (lif : t.lif = s.lif) (pu : t.pu = { s.pu with easePend := t.pu.easePend })
    (isOpen : s.ss.safety.isOpen = true → t.ss.safety.isOpen = true)
    (disarmed : s.ss.safety = .disarmed → t.ss.safety = .disarmed) (parked : s.ss.safety = .parked → t.ss = s.ss)
    (raised : Raises s t) : Steps q s t where
  pu := pu
  sends := .of_eq lif
  raised := raised
  isOpen := isOpen
  disarmed := disarmed
  parked p := ⟨parked p, lif⟩
  queued := fun ⟨open_, waits⟩ => ⟨isOpen open_, lif ▸ waits⟩
  head _ _ rest here _ := ⟨rest, lif ▸ here⟩

theorem Works.of_claims (steps : Steps q s t) (lif : t.lif = s.lif) (claims : t.ss.claims = s.ss.claims)
    (factor : t.zu.ownFactor = s.zu.ownFactor) (station : t.cfg.station = s.cfg.station) : Works q s t where
  toSteps := steps
  fresh := fun ⟨open_, waits⟩ => by
    have roll : t.ownRoll = s.ownRoll := by
      simp only [State.ownRoll, State.rollBody, State.ownClaims, claims, factor, station]
    exact ⟨steps.isOpen open_, by rw [lif, roll]; exact waits⟩

theorem Works.of_same (same : Untouched s t) : Works q s t := by
  obtain ⟨lif, ss, pu, factor, station, raised⟩ := same
  exact .of_claims (.of_lif lif (by rw [pu]) (by rw [ss]; exact id) (by rw [ss]; exact id) (fun _ => ss) raised) lif (by rw [ss])
    factor station

theorem Works.refl (s : State) : Works q s s := .of_same ⟨rfl, rfl, rfl, rfl, rfl, fun _ => id⟩

/-- A change of the Safety Supervisor in an open state that leaves the claims. -/
theorem Works.of_ss {p : Ss} (open_ : s.ss.safety.isOpen = true) (claims : p.claims = s.ss.claims)
    (after : p.safety.isOpen = true) (disarmed : s.ss.safety = .disarmed → p.safety = .disarmed) :
    Works q s { s with ss := p } := by
  refine .of_claims (.of_lif rfl rfl (fun _ => after) disarmed (fun parked => ?_) fun _ => id) rfl claims rfl rfl
  simp [parked, Safety.isOpen] at open_

/-- A change of the claims in an open state. -/
theorem Steps.of_claims {l : List Claim} (open_ : s.ss.safety.isOpen = true) : Steps q s { s with ss.claims := l } := by
  refine .of_lif rfl rfl id id (fun parked => ?_) fun _ => id
  simp [parked, Safety.isOpen] at open_

/-- A change of the Pace Unit's pending ease settings. -/
theorem Works.easePend (l : List (FrameNo × Bool)) : Works q s { s with pu.easePend := l } :=
  .of_claims (.of_lif rfl rfl id id (fun _ => rfl) fun _ => id) rfl rfl rfl rfl

theorem Works.when {p : Prop} [Decidable p] (yes : p → Works q s t) : Works q s (if p then t else s) := by
  split
  case isTrue h => exact yes h
  case isFalse => exact .refl s

theorem Works.ite {p : Prop} [Decidable p] (yes : p → Works q s t) (no : ¬ p → Works q s u) :
    Works q s (if p then t else u) := by
  split
  case isTrue h => exact yes h
  case isFalse h => exact no h

theorem Works.foldl {α : Type} {f : State → α → State} (each : ∀ u a, Works q u (f u a)) (l : List α) (s : State) :
    Works q s (l.foldl f s) := by
  induction l generalizing s with
  | nil => exact .refl s
  | cons a l ih => exact (each s a).trans (ih _)

/-! ### Messages placed -/

theorem place_steps (m : Msg) (s : State) (other : q → m.body.key ≠ some .state) : Steps q s (place m s) where
  pu := by simp
  sends := place_sends m s
  raised _ present := attentionHas_place present m
  isOpen open_ := by simpa using open_
  disarmed d := by simpa using d
  parked p := by rw [place_parked p]; exact ⟨rfl, rfl⟩
  queued := fun ⟨open_, waits⟩ => by
    refine ⟨by simpa using open_, ?_⟩
    rcases place_ordinary m s with same | placed
    · rwa [same]
    · exact enqueue_keeps_key waits placed
  head none_ e rest here has := by
    rcases place_ordinary m s with same | placed
    · exact ⟨rest, same.trans here⟩
    · rw [here] at placed
      refine enqueue_keeps_front (pre := [e]) (post := rest) (fun d hd k key => ?_) placed
      obtain rfl := List.mem_singleton.mp hd
      unfold QEntry.hasKey at has ⊢
      rw [beq_iff_eq.mp has, beq_eq_false_iff_ne]
      rintro same
      exact other none_ (key.trans same.symm)

/-- A message that is not a ROLL. -/
theorem place_works (m : Msg) (s : State) (state : q → m.body.key ≠ some .state) (roll : m.body.key ≠ some .roll) :
    Works q s (place m s) where
  toSteps := place_steps m s state
  fresh := fun ⟨open_, e, listed, has, carries⟩ => by
    have same : (place m s).ownRoll = s.ownRoll := by simp [State.ownRoll, State.rollBody, State.ownClaims]
    refine ⟨by simpa using open_, e, ?_, has, same ▸ carries⟩
    rcases place_ordinary m s with kept | placed
    · rwa [kept]
    · refine enqueue_keeps_other listed (fun k key => ?_) placed
      unfold QEntry.hasKey at has ⊢
      rw [beq_iff_eq.mp has, beq_eq_false_iff_ne]
      rintro same
      exact roll (key.trans same.symm)

/-- A message without a key: a REPLY, HOLD, RESUME or MARK. -/
theorem place_works_of_no_key {m : Msg} (s : State) (key : m.body.key = none) : Works q s (place m s) :=
  place_works m s (fun _ => by simp [key]) (by simp [key])

theorem reply_works (who : Slot) (code : Nat) (st : Status) (data : ReplyData) (s : State) :
    Works q s (reply who code st data s) := place_works_of_no_key s rfl

/-- The ROLL is offered, and one waits or has room to. -/
theorem offerRoll_fresh {u : List QEntry} {e : QEntry} (open_ : s.ss.safety.isOpen = true)
    (placed : enqueue s.lif.ordinary s.ownRoll = some u) (listed : e ∈ u) (has : e.hasKey .roll = true)
    (carries : Carries s.ownRoll e) : RollFresh (broadcast s.rollBody s) := by
  have ordinary : (broadcast s.rollBody s).lif.ordinary = u :=
    place_ordinary_of_room open_ (m := s.ownRoll) (show 2 ≤ s.rollBody.cls by simp [State.rollBody, Body.cls]) placed
  have same : (broadcast s.rollBody s).ownRoll = s.ownRoll := by simp [State.ownRoll, State.rollBody, State.ownClaims]
  exact ⟨by simpa using open_, e, ordinary ▸ listed, has, same ▸ carries⟩

theorem broadcastRoll_fresh (waits : RollQueued s) : RollFresh (broadcast s.rollBody s) := by
  obtain ⟨open_, e, listed, has⟩ := waits
  obtain ⟨u, placed, renewed⟩ := enqueue_renews (m := s.ownRoll) listed has rfl
  exact offerRoll_fresh open_ placed renewed (renew_key has rfl) (carries_renew e _)

/-- A ROLL that finds room in the ordinary queue waits there, up to date. -/
theorem broadcastRoll_fresh_of_room (open_ : s.ss.safety.isOpen = true) (room : s.lif.ordinary.length < 16) :
    RollFresh (broadcast s.rollBody s) := by
  by_cases waits : ∃ e ∈ s.lif.ordinary, e.hasKey .roll = true
  · exact broadcastRoll_fresh ⟨open_, waits⟩
  · have placed := enqueue_of_key (q := s.lif.ordinary) (m := s.ownRoll) (rollBody_key s)
    rw [if_neg (by simpa using waits), if_pos (by simpa [Config.queueSize] using room)] at placed
    exact offerRoll_fresh open_ placed (List.mem_append_right _ (List.mem_singleton.mpr rfl)) rfl rfl

theorem broadcastRoll_works (s : State) : Works q s (broadcast s.rollBody s) where
  toSteps := place_steps _ s fun _ => by simp [rollBody_key]
  fresh waits := broadcastRoll_fresh waits.queued

/-- A change of the claims that composes the queued ROLL afresh. -/
theorem Works.recomposed (steps : Steps q s u) : Works q s (recomposeRoll u) := by
  unfold recomposeRoll
  by_cases waits : u.lif.rollQueued = true
  · rw [if_pos waits]
    exact ⟨steps.trans (broadcastRoll_works u).toSteps, fun fresh => broadcastRoll_fresh (steps.queued fresh.queued)⟩
  · rw [if_neg waits]
    refine ⟨steps, fun fresh => absurd ?_ waits⟩
    obtain ⟨_, e, listed, has⟩ := steps.queued fresh.queued
    exact List.any_eq_true.mpr ⟨e, listed, has⟩

end relation

end Sys2Proof.Machine
end

section
/-! The work of a tick, operation by operation (O6, O17, O18, O26, O30, O52). -/

namespace Sys2Proof.Machine

open Sys2Proof

section operations

variable {q : Prop} {s : State}

/-! ### The Take Player -/

theorem raise_works (a : Attention) (s : State) : Works q s (raise a s) :=
  .of_same ⟨rfl, rfl, rfl, rfl, rfl, fun _ present => attentionHas_attentionRaise present a⟩

theorem easeFor_works (f : FrameNo) (b : Bool) (s : State) : Works q s (easeFor f b s) := .easePend _

theorem completeCue_works (st : Status) (s : State) : Works q s (completeCue st s) := by
  unfold completeCue
  split
  next => exact (reply_works _ _ _ _ s).trans (.of_same ⟨rfl, rfl, rfl, rfl, rfl, fun _ => id⟩)
  next => exact .refl s

theorem spendPlayed_works (s : State) : Works q s (spendPlayed s) := .of_same (by simp [Untouched])

theorem holdAll_works (s : State) : Works q s (holdAll s) := .of_same (by simp [Untouched])

theorem cleared_works (s : State) : Works q s (clearLive (clearPlay s)) := .of_same (by simp [Untouched])

theorem passageToIdle_works (st : Status) (s : State) : Works q s (passageToIdle st s) := by
  have ended : Works q s (completeCue st (spendPlayed (holdAll s))) :=
    (holdAll_works s).trans ((spendPlayed_works _).trans (completeCue_works st _))
  exact ended.trans (.trans (.when fun _ => easeFor_works _ _ _) (cleared_works _))

theorem forceIdle_works (s : State) : Works q s (forceIdle s) := by
  have played : Works q s (clearLive (clearPlay (easeFor (s.ft.frame + 1) false (completeCue .stopped (spendPlayed s))))) :=
    (spendPlayed_works s).trans ((completeCue_works _ _).trans ((easeFor_works _ _ _).trans (cleared_works _)))
  unfold forceIdle
  cases s.tpr.activity with
  | idle => exact .refl s
  | live => exact .of_same (by simp [Untouched])
  | recording => exact .of_same (by simp [Untouched])
  | cueing | cued | playing | easing => exact played

theorem withTpr_works (p : Tpr) (s : State) : Works q s { s with tpr := p } := .of_same ⟨rfl, rfl, rfl, rfl, rfl, fun _ => id⟩

theorem mark_works (id m c : Nat) (s : State) : Works q s (broadcast (.mark id m c) s) := place_works_of_no_key s rfl

theorem takeMarks_works (id : Nat) (k : Take) (n : Nat) (s : State) : Works q s (takeMarks id k n s) :=
  (Works.foldl (fun u _ => .ite (fun _ => .refl u) fun _ => mark_works _ _ _ u) _ s).trans (withTpr_works _ _)

/-! ### The channels and the drives -/

theorem stopAll_works (s : State) : Works q s (stopAll s) := .of_same (by simp [Untouched])

theorem setBrakes_works (s : State) : Works q s (setBrakes s) := .of_same (by simp [Untouched])

theorem releaseBrakes_works (s : State) : Works q s (releaseBrakes s) := .of_same (by simp [Untouched])

theorem allDrivesOff_works (s : State) : Works q s (allDrivesOff s) := .of_same (by simp [Untouched])

theorem clearFaultOff_works (s : State) : Works q s (clearFaultOff s) := .of_same (by simp [Untouched, clearFaultOff])

theorem requestEach_works (m : Mode) (is : List Nat) (s : State) : Works q s (requestEach m is s) :=
  .of_same (by simp [Untouched])

theorem enterLive_works (i : Nat) (s : State) : Works q s (enterLive i s) := .of_same (by simp [Untouched])

theorem modTake_works (id : Nat) (f : Take → Take) (s : State) : Works q s (modTake id f s) := .of_same (by simp [Untouched])

/-! ### The passages of the safety state -/

theorem not_parked_of_open (open_ : s.ss.safety.isOpen = true) : s.ss.safety ≠ .parked := by
  intro parked
  simp [parked, Safety.isOpen] at open_

theorem withSs_works {p : Ss} (open_ : s.ss.safety.isOpen = true) (claims : p.claims = s.ss.claims)
    (safety : p.safety = s.ss.safety) : Works q s { s with ss := p } :=
  .of_ss open_ claims (by rw [safety, open_]) fun d => safety.trans d

theorem completeArm_works (open_ : s.ss.safety.isOpen = true) (st : Status) : Works q s (completeArm st s) := by
  unfold completeArm
  split
  next w _ =>
    refine (reply_works w codeArm st .none s).trans (.of_ss (by simpa using open_) rfl (by simpa using open_) ?_)
    exact fun d => d
  next => exact .refl s

theorem completeDisarm_works (open_ : s.ss.safety.isOpen = true) : Works q s (completeDisarm s) := by
  unfold completeDisarm
  split
  next w _ =>
    refine (reply_works w codeDisarm .done .none s).trans (.of_ss (by simpa using open_) rfl (by simpa using open_) ?_)
    exact fun d => d
  next => exact .refl s

theorem enterStopping_works (moving : s.ss.safety.canStop = true) : Works q s (enterStopping s) := by
  have open_ : s.ss.safety.isOpen = true := isOpen_of_canStop moving
  have stopping : Works q s { s with ss := { s.ss with safety := .stopping, timer := none } } :=
    .of_ss open_ rfl rfl fun disarmed => by simp [disarmed, Safety.canStop] at moving
  exact stopping.trans ((completeArm_works rfl .stopped).trans ((forceIdle_works _).trans (stopAll_works _)))

theorem stopIfMoving_works (s : State) : Works q s (stopIfMoving s) := .when fun moving => enterStopping_works moving

theorem enterSecuring_works (stopping : s.ss.safety = .stopping) : Works q s (enterSecuring s) := by
  have open_ : s.ss.safety.isOpen = true := by rw [stopping]; rfl
  have entered : Works q s { s with ss := { s.ss with
      safety := .securing
      timer := some { phase := .set, frames := s.cfg.brakeSet } } } :=
    .of_ss open_ rfl rfl fun disarmed => by simp [disarmed] at stopping
  exact entered.trans (setBrakes_works _)

theorem enterDisarmed_works (open_ : s.ss.safety.isOpen = true) : Works q s (enterDisarmed s) := by
  have off : (allDrivesOff s).ss.safety.isOpen = true := by simpa using open_
  have timed : Works q (allDrivesOff s) { allDrivesOff s with ss.timer := none } := withSs_works off rfl rfl
  have idled : Works q s (forceIdle { allDrivesOff s with ss.timer := none }) :=
    (allDrivesOff_works s).trans (timed.trans (forceIdle_works _))
  have armed := idled.trans (completeArm_works (idled.isOpen open_) .stopped)
  have done := armed.trans (completeDisarm_works (armed.isOpen open_))
  have disarmed (u : State) (open_ : u.ss.safety.isOpen = true) :
      Works q u (clearFaultOff { u with ss.safety := .disarmed }) := by
    have entered : Works q u { u with ss.safety := .disarmed } := .of_ss open_ rfl rfl fun _ => rfl
    exact entered.trans (clearFaultOff_works _)
  exact done.trans (disarmed _ (done.isOpen open_))

theorem estopCut_works (s : State) : Works q s (estopCut s) := .when fun driven => enterDisarmed_works (isOpen_of_driven driven)

theorem refuseClaim_works (open_ : s.ss.safety.isOpen = true) : Works q s (refuseClaim s) := by
  have refused : Works q s { s with ss := { s.ss with overflow := true, overflowQuiet := 0 } } :=
    withSs_works open_ rfl rfl
  exact refused.trans ((raise_works _ _).trans (stopIfMoving_works _))

/-! ### Own claims -/

theorem afterOwnClaim_works (c : Cause) (s : State) : Works q s (afterOwnClaim c s) :=
  .ite (fun _ => estopCut_works s) fun _ => stopIfMoving_works s

/-- A STOP or CLEAR is no STATE. -/
theorem broadcastClaim_steps {b : Body} {l : List Claim} (open_ : s.ss.safety.isOpen = true) (key : b.key ≠ some .state) :
    Steps q s (broadcast b { s with ss.claims := l }) :=
  (Steps.of_claims open_).trans (place_steps _ _ fun _ => key)

theorem addOwn_works (open_ : s.ss.safety.isOpen = true) (c : Cause) (d : Nat) : Works q s (addOwn c d s) :=
  .recomposed (broadcastClaim_steps open_ (by simp [Body.key]))

/-- A list trimmed of a claim of another station states the same ROLL. -/
theorem trimmed_works (open_ : s.ss.safety.isOpen = true) {l : List Claim}
    (own : (l.filter fun k => k.origin == s.cfg.station) = s.ss.claims.filter fun k => k.origin == s.cfg.station) :
    Works q s { s with ss.claims := l } where
  toSteps := .of_claims open_
  fresh := fun ⟨open_, waits⟩ => by
    have roll : ({ s with ss.claims := l } : State).ownRoll = s.ownRoll := by
      simp only [State.ownRoll, State.rollBody, State.ownClaims, own]
    exact ⟨open_, by rw [roll]; exact waits⟩

theorem filter_removeLastRemote (station : Nat) (l : List Claim) :
    ((removeLastRemote station l).filter fun k => k.origin == station) = l.filter fun k => k.origin == station := by
  induction l with
  | nil => rfl
  | cons e l ih =>
    unfold removeLastRemote
    split
    case isTrue remote => rw [List.filter_cons_of_neg (by simpa using remote.1)]
    case isFalse => rw [List.filter_cons, List.filter_cons, ih]

theorem raiseOwn_works (c : Cause) (d : Nat) (s : State) : Works q s (raiseOwn c d s) := by
  refine .ite (fun _ => .refl s) fun open_ => ?_
  have open_ : s.ss.safety.isOpen = true := by simpa using open_
  cases findClaim s.ss.claims s.cfg.station c with
  | some e =>
    exact .ite (fun _ => .refl s) fun _ => .recomposed (broadcastClaim_steps open_ (by simp [Body.key]))
  | none =>
    refine .ite (fun _ => (addOwn_works open_ c d).trans (afterOwnClaim_works c _)) fun _ => .when fun _ => ?_
    have trimmed : Works q s { s with ss.claims := removeLastRemote s.cfg.station s.ss.claims } :=
      trimmed_works open_ (filter_removeLastRemote _ _)
    have added := trimmed.trans (addOwn_works (trimmed.isOpen open_) c d)
    exact added.trans ((refuseClaim_works (added.isOpen open_)).trans (afterOwnClaim_works c _))

theorem raiseFiltered_works (c : Cause) (d : Nat) (s : State) : Works q s (raiseFiltered c d s) := by
  unfold raiseFiltered
  split
  next => exact .when fun _ => raiseOwn_works c d s
  next => exact raiseOwn_works c d s

theorem withdrawOwn_works (open_ : s.ss.safety.isOpen = true) (c : Cause) : Works q s (withdrawOwn c s) := by
  unfold withdrawOwn
  split
  next => exact .recomposed (broadcastClaim_steps open_ (by simp [Body.key]))
  next => exact .refl s

theorem raisePeer_works (s : State) : Works q s (raisePeer s) := by
  unfold raisePeer
  split
  next => exact raiseOwn_works _ _ s
  next => exact .refl s

theorem losePeers_works (s : State) : Works q s (losePeers s) := .when fun _ => raisePeer_works s

/-! ### Cross-limits and zones -/

theorem raiseCross_works (before : List Bool) (s : State) : Works q s (raiseCross before s) := by
  unfold raiseCross
  split
  next => exact raiseFiltered_works _ _ s
  next => exact .refl s

theorem raiseConflict_works (s : State) : Works q s (raiseConflict s) := by
  unfold raiseConflict
  split
  next => exact raiseFiltered_works _ _ s
  next => exact .refl s

theorem reportCondition_works (open_ : s.ss.safety.isOpen = true) (c : Cause) (before after : Option Nat) :
    Works q s (reportCondition c before after s) := by
  unfold reportCondition
  split
  next => exact .ite (fun _ => .refl s) fun _ => raiseOwn_works _ _ s
  next => exact .ite (fun _ => .refl s) fun _ => withdrawOwn_works open_ c

theorem reportFactor_works (s : State) : Works q s (reportFactor s) := by
  refine .ite (fun _ => .refl s) fun _ => .recomposed ?_
  have changed : Steps q s { s with zu.ownFactor := s.slowFactor } := .of_lif rfl rfl id id (fun _ => rfl) fun _ => id
  exact changed.trans (place_steps _ _ fun _ => by simp [Body.key])

theorem changeZones_works (open_ : s.ss.safety.isOpen = true) (f : State → List LineFilter) : Works q s (changeZones f s) := by
  have changed : Works q s { s with zu.lines := f s } := .of_same ⟨rfl, rfl, rfl, rfl, rfl, fun _ => id⟩
  exact changed.trans ((reportCondition_works (changed.isOpen open_) _ _ _).trans (reportFactor_works _))

theorem changeEstop_works (open_ : s.ss.safety.isOpen = true) (f : State → List LineFilter) : Works q s (changeEstop f s) := by
  have changed : Works q s { s with zu.estop := f s } := .of_same ⟨rfl, rfl, rfl, rfl, rfl, fun _ => id⟩
  exact changed.trans (reportCondition_works (changed.isOpen open_) _ _ _)

theorem sampleSafetyLines_works (l : LineLevels) (s : State) : Works q s (sampleSafetyLines l s) :=
  .when fun open_ => by
    have estop : Works q s (sampleEstop l s) := changeEstop_works open_ _
    exact estop.trans (changeZones_works (estop.isOpen open_) _)

theorem zoneFrameTick_works (open_ : s.ss.safety.isOpen = true) : Works q s (zoneFrameTick s) := by
  have counted : Works q s { s with zu := { s.zu with
      lines := s.zu.lines.map (LineFilter.count s.cfg.zoneClearTime)
      estop := s.zu.estop.map (LineFilter.count Config.estopClearTime) } } := .of_same ⟨rfl, rfl, rfl, rfl, rfl, fun _ => id⟩
  have cleared (u : State) (open_ : u.ss.safety.isOpen = true) : Works q u (clearZones (clearEstop u)) := by
    have estop : Works q u (clearEstop u) := changeEstop_works open_ _
    exact estop.trans (changeZones_works (estop.isOpen open_) _)
  exact counted.trans (cleared _ open_)

/-! ### The sensor line and the lines of the drives -/

theorem staleTick_works (i : Nat) (s : State) : Works q s (staleTick i s) := by
  have counted : Works q s (modReading i (fun r => { r with stale := satSucc 255 r.stale }) s) := .of_same (by simp [Untouched])
  have raised (u : State) : Works q u (raiseStale u) := .ite (fun _ => .refl u) fun _ => raise_works _ u
  exact counted.trans (.when fun _ => (raised _).trans (.when fun _ => raiseFiltered_works _ _ _))

theorem staleTicks_works (is : List Nat) (s : State) : Works q s (staleTicks is s) := .foldl (fun u i => staleTick_works i u) is s

theorem withSpl_works (p : Spl) (s : State) : Works q s { s with spl := p } := .of_same ⟨rfl, rfl, rfl, rfl, rfl, fun _ => id⟩

theorem pollTick_works (s : State) : Works q s (pollTick s) := by
  have ended : Works q s (endRound s) :=
    .ite (fun _ => (withSpl_works _ s).trans (staleTicks_works _ _)) fun _ =>
      .when fun _ => (withSpl_works _ s).trans (staleTicks_works _ _)
  unfold pollTick
  split
  next => exact .refl s
  next => exact .refl s
  next => exact ended.trans (.ite (fun _ => withSpl_works _ _) fun _ => withSpl_works _ _)

theorem modLine_works (i : Nat) (f : DriveLine → DriveLine) (s : State) : Works q s (modLine i f s) :=
  .of_same (by simp [Untouched])

theorem driveOff_works (i : Nat) (s : State) : Works q s (driveOff i s) := .of_same (by simp [Untouched])

theorem sampleFault_works (active : Bool) (i : Nat) (s : State) : Works q s (sampleFault active i s) :=
  (modLine_works i _ s).trans (.when fun _ => .trans
    (.when fun _ => (driveOff_works i _).trans (modLine_works i _ _)) (raiseFiltered_works _ _ _))

theorem sampleFaults_works (l : LineLevels) (s : State) : Works q s (sampleFaults l s) := by
  unfold sampleFaults
  split
  next => exact .refl s
  next => exact .refl s
  next => exact .foldl (fun u i => sampleFault_works _ i u) _ s

theorem sampleLow_works (a : Bool) (i : Nat) (s : State) : Works q s (sampleLow a i s) :=
  .when fun _ => (modLine_works i _ s).trans (.when fun _ => raiseFiltered_works _ _ _)

theorem sampleHigh_works (a : Bool) (i : Nat) (s : State) : Works q s (sampleHigh a i s) :=
  .when fun _ => (modLine_works i _ s).trans (.when fun _ => raiseFiltered_works _ _ _)

theorem sampleLimits_works (l : LineLevels) (s : State) : Works q s (sampleLimits l s) := by
  unfold sampleLimits
  split
  next => exact .refl s
  next => exact .refl s
  next => exact .foldl (fun u i => (sampleLow_works _ i u).trans (sampleHigh_works _ i _)) _ s

/-! ### The brake timer -/

theorem endEnable_works (s : State) : Works q s (endEnable s) := by
  refine .when fun ⟨arming, _⟩ => ?_
  have timed : Works q s { s with ss.timer := some { phase := .release, frames := s.cfg.brakeRelease } } :=
    withSs_works (by rw [arming]; rfl) rfl rfl
  exact timed.trans (releaseBrakes_works _)

theorem endRelease_works (s : State) : Works q s (endRelease s) := by
  refine .when fun ⟨arming, _⟩ => ?_
  have armed : Works q s { s with ss := { s.ss with safety := .armed, timer := none } } :=
    .of_ss (by rw [arming]; rfl) rfl rfl fun disarmed => by simp [disarmed] at arming
  exact armed.trans (completeArm_works rfl .done)

theorem endBrakeSet_works (s : State) : Works q s (endBrakeSet s) :=
  .when fun ⟨securing, _⟩ => enterDisarmed_works (by rw [securing]; rfl)

theorem brakeTick_works (open_ : s.ss.safety.isOpen = true) : Works q s (brakeTick s) := by
  unfold brakeTick
  split
  next =>
    have ended (u : State) : Works q u (endEnable (endRelease (endBrakeSet u))) :=
      (endBrakeSet_works u).trans ((endRelease_works _).trans (endEnable_works _))
    exact .trans (withSs_works open_ (by rfl) (by rfl)) (ended _)
  next => exact .refl s

theorem brakeIfBegun_works (open_ : s.ss.safety.isOpen = true) (before : TickStart) : Works q s (brakeIfBegun before s) :=
  .when fun _ => brakeTick_works open_

/-! ### START -/

theorem enterPlaying_works (id : Nat) (s : State) : Works q s (enterPlaying id s) := by
  unfold enterPlaying
  have playing : Works q s (requestEach .play (chanList s.tpr.cueSet)
      { s with tpr := { s.tpr with activity := .playing, base := 0, cursor := 0 } }) :=
    (withTpr_works _ s).trans (requestEach_works _ _ _)
  dsimp only
  refine playing.trans (.trans ?marks (.when fun _ => .foldl (fun u i => enterLive_works i u) _ _))
  split
  next => exact takeMarks_works _ _ _ _
  next => exact .refl _

theorem startUnqualified_works (id : Nat) (s : State) : Works q s (startUnqualified id s) := by
  refine .ite (fun _ => .refl s) fun _ => .when fun _ => ?_
  have sent : Works q s (broadcast (.abort id) s) := place_works _ s (fun _ => by simp [Body.key]) (by simp [Body.key])
  exact sent.trans (.when fun _ => passageToIdle_works _ _)

theorem startIfDue_works (s : State) : Works q s (startIfDue s) := by
  have started (id : Nat) (u : State) : Works q u (if u.qualified id then enterPlaying id u else startUnqualified id u) :=
    .ite (fun _ => enterPlaying_works id u) fun _ => startUnqualified_works id u
  unfold startIfDue
  split
  next a _ =>
    have taken : Works q s { s with tpr.startPend := none } := withTpr_works _ s
    exact .when fun _ => taken.trans (started a.take _)
  next => exact .refl s

/-! ### The computation -/

theorem waterMark_works (id : Nat) (s : State) : Works q s (waterMark id s) := by
  have marked (b : Bool) (m : Msg) (key : m.body.key = none) :
      Works q s (place m (modTake id (fun t => { t with held := b }) s)) :=
    .trans (modTake_works _ _ s) (place_works_of_no_key _ key)
  unfold waterMark
  split
  next => exact .when fun _ => .ite (fun _ => marked _ _ rfl) fun _ => .when fun _ => marked _ _ rfl
  next => exact .refl s

theorem retire_works (id : Nat) (s : State) : Works q s (retire id s) := by
  unfold retire
  split
  next => exact .when fun _ => .trans (modTake_works _ _ s) (waterMark_works id _)
  next => exact .refl s

theorem underrunOf_works (short : Option Take) (s : State) : Works q s (underrunOf short s) := by
  unfold underrunOf
  split
  next => exact raiseOwn_works _ _ s
  next => exact .refl s

theorem formCursor_works (j : Nat) (s : State) : Works q s (formCursor j s) := by
  unfold formCursor
  split
  next => exact .when fun _ => (withTpr_works _ s).trans ((takeMarks_works _ _ _ _).trans (retire_works _ _))
  next => exact .refl s

theorem latchRange_works (id n : Nat) (s : State) : Works q s (latchRange id n s) := by
  unfold latchRange
  split
  next => exact .when fun _ => (modTake_works _ _ s).trans (raise_works _ _)
  next => exact .refl s

theorem storeRecord_works (k : Take) (n : Nat) (written : ChanSet) (r : Sample) (s : State) :
    Works q s (storeRecord k n written r s) := by
  have stored : Works q s { s with ts.store := s.ts.store.write (k.position n) r } :=
    .of_same ⟨rfl, rfl, rfl, rfl, rfl, fun _ => id⟩
  exact stored.trans (.when fun _ => latchRange_works _ _ _)

theorem endRecording_works (s : State) : Works q s (endRecording s) := .of_same (by simp [Untouched])

theorem recordingWrite_works (s : State) : Works q s (recordingWrite s) := by
  unfold recordingWrite
  split
  next k _ _ =>
    refine .when fun _ => ?_
    have recorded : Works q s (modTake k.id (fun t => { t with length := t.length + 1 })
        (storeRecord k k.length s.allChans (s.sourceRecord s.tpr.markPrev) s)) :=
      (storeRecord_works _ _ _ _ s).trans (modTake_works _ _ _)
    exact recorded.trans (.ite (fun _ => (endRecording_works _).trans ((withTpr_works _ _).trans (raise_works _ _)))
      fun _ => .refl _)
  next => exact .refl s

theorem punchWrite_works (s : State) : Works q s (punchWrite s) := by
  unfold punchWrite
  split
  next => exact .when fun _ => .trans (.when fun _ => storeRecord_works _ _ _ _ s) (withTpr_works _ _)
  next => exact .refl s

theorem raiseDeviation_works (s : State) : Works q s (raiseDeviation s) := by
  unfold raiseDeviation
  split
  next => exact raiseOwn_works _ _ s
  next => exact .refl s

theorem raiseLimits_works (s : State) : Works q s (raiseLimits s) :=
  .foldl (fun u _ => .trans (.when fun _ => raiseFiltered_works _ _ u) (.when fun _ => raiseFiltered_works _ _ _)) _ s

theorem cueTest_works (s : State) : Works q s (cueTest s) := by
  unfold cueTest
  split
  next =>
    refine .ite (fun _ => passageToIdle_works _ s) fun _ => .when fun _ => ?_
    exact (withTpr_works _ s).trans (.trans (requestEach_works _ _ _) (completeCue_works _ _))
  next => exact .refl s

theorem endOfTake_works (s : State) : Works q s (endOfTake s) := by
  unfold endOfTake
  split
  next =>
    dsimp only
    split
    next => exact .when fun _ => passageToIdle_works _ s
    next => exact .when fun _ => passageToIdle_works _ s
    next => exact .refl s
  next => exact .refl s

theorem endOfLive_works (s : State) : Works q s (endOfLive s) := .of_same (by simp [Untouched])

theorem playerTests_works (s : State) : Works q s (playerTests s) :=
  (cueTest_works s).trans ((endOfTake_works _).trans (endOfLive_works _))

theorem stoppingTest_works (s : State) : Works q s (stoppingTest s) := .when fun ⟨stopping, _⟩ => enterSecuring_works stopping

theorem computeTick_works (j : Nat) (s : State) : Works q s (computeTick j s) := by
  have computed (u : State) : Works q u (sendRecords (handHistory (computeChannels j u))) := .of_same (by simp [Untouched])
  have written (u : State) : Works q u (punchWrite (if j = 0 then recordingWrite u else u)) :=
    .trans (.when fun _ => recordingWrite_works u) (punchWrite_works _)
  have raised (short : Option Take) (u : State) : Works q u (underrunOf short (raiseLimits (raiseDeviation u))) :=
    (raiseDeviation_works u).trans ((raiseLimits_works _).trans (underrunOf_works _ _))
  unfold computeTick
  split
  next => exact .refl s
  next => exact .refl s
  next =>
    exact (formCursor_works j s).trans ((computed _).trans ((written _).trans ((raised _ _).trans
      ((playerTests_works _).trans (.when fun _ => stoppingTest_works _)))))

/-! ### The work of a tick -/

theorem inOpen_works {f : State → State} (works : s.ss.safety.isOpen = true → Works q s (f s)) : Works q s (inOpen f s) :=
  .when works

theorem placeState_works (r : StateReport) (s : State) : Works False s (placeState r s) :=
  place_works _ s False.elim (by simp [Body.key])

/-- A piece of work; without the STATE, which it may be. -/
theorem tickWork_works (b : TickStart) (l : LineLevels) (j : Nat) {w : TickWork} (piece : q → w ≠ .report) (s : State) :
    Works q s (tickWork b l j w s) := by
  cases w with
  | report =>
    refine inOpen_works fun _ => place_works _ s (fun none_ => absurd rfl (piece none_)) (by simp [Body.key])
  | peers => exact inOpen_works fun _ => losePeers_works s
  | cross => exact inOpen_works fun _ => raiseCross_works _ s
  | conflict => exact inOpen_works fun _ => raiseConflict_works s
  | brake => exact inOpen_works fun open_ => brakeIfBegun_works open_ b
  | start => exact inOpen_works fun _ => startIfDue_works s
  | poll => exact pollTick_works s
  | faults => exact sampleFaults_works l s
  | limits => exact sampleLimits_works l s
  | zones => exact sampleSafetyLines_works l s
  | underrun => exact inOpen_works fun _ => underrunOf_works _ s
  | compute => exact computeTick_works j s

theorem worked_works (b : TickStart) (l : LineLevels) (j : Nat) (ws : List TickWork) (pieces : q → .report ∉ ws) (s : State) :
    Works q s (worked b l j ws s) := by
  induction ws generalizing s with
  | nil => exact .refl s
  | cons w ws ih =>
    exact (tickWork_works b l j (fun none_ same => pieces none_ (same ▸ List.mem_cons_self)) s).trans
      (ih (fun none_ later => pieces none_ (List.mem_cons_of_mem _ later)) _)

theorem noteReports_works (s : State) : Works q s (noteReports s) := .of_same (by simp [Untouched])

end operations

theorem worked_frame (b : TickStart) (l : LineLevels) (j : Nat) (ws : List TickWork) (s : State) :
    (worked b l j ws s).ft = s.ft ∧ (worked b l j ws s).ru = s.ru ∧ (worked b l j ws s).iu = s.iu ∧
    (worked b l j ws s).cl = s.cl ∧ (worked b l j ws s).cfg = s.cfg ∧ (worked b l j ws s).pins = s.pins ∧
    (worked b l j ws s).pending = s.pending := by
  induction ws generalizing s with
  | nil => exact ⟨rfl, rfl, rfl, rfl, rfl, rfl, rfl⟩
  | cons w ws ih =>
    obtain ⟨ft, ru, iu, cl, cfg, pins, pending⟩ := ih (tickWork b l j w s)
    refine ⟨ft.trans ?_, ru.trans ?_, iu.trans ?_, cl.trans ?_, cfg.trans ?_, pins.trans ?_, pending.trans ?_⟩
    all_goals simp

end Sys2Proof.Machine
end

section
/-! The frame tick of the open states: its parts, and what it brings to the counts, the roster, the watch slots and the Pace
Unit (O6, O7). -/

namespace Sys2Proof.Machine

open Sys2Proof

/-! ### The parts of a frame tick (R26, R28) -/

/-- The node with the frame begun, the STATE of the tick composed first and the counts of the link advanced. -/
def frameBegun (before : State) (order : List TickWork) (s : State) : State :=
  countDup (countQuiet (composeFirst before order (beginFrame s)))

/-- The node brought to the frame that has begun, but for the cursor base, the pace, the ranges and the zones. -/
def aligned (s : State) : State :=
  turnMarks s.ft.frame (timeOutLive (turnGoals s.ft.frame (easeOn (abortIfDue (rollCall (countOverflow
    (learnTick (turnSlots s.ft.frame (removeAged (ageRoster s))))))))))

theorem alignFrame_eq (s : State) : alignFrame s =
    zoneFrameTick (formRanges (paceTick s.ft.frame (advanceBase (aligned s)))) := rfl

/-- The node with the levels that a tick samples. -/
def withLevels (l : LineLevels) (s : State) : State := { s with pins.lines := l }

@[simp] theorem withLevels_frame (l : LineLevels) (s : State) :
    (withLevels l s).lif = s.lif ∧ (withLevels l s).ft = s.ft ∧ (withLevels l s).ru = s.ru ∧
    (withLevels l s).chans = s.chans ∧ (withLevels l s).spl = s.spl ∧ (withLevels l s).dlu = s.dlu ∧
    (withLevels l s).ss = s.ss ∧ (withLevels l s).pu = s.pu ∧ (withLevels l s).iu = s.iu ∧
    (withLevels l s).zu = s.zu ∧ (withLevels l s).ts = s.ts ∧ (withLevels l s).tpr = s.tpr ∧
    (withLevels l s).attention = s.attention ∧ (withLevels l s).cl = s.cl ∧ (withLevels l s).cfg = s.cfg ∧
    (withLevels l s).pins = { s.pins with lines := l } ∧ (withLevels l s).pending = s.pending :=
  ⟨rfl, rfl, rfl, rfl, rfl, rfl, rfl, rfl, rfl, rfl, rfl, rfl, rfl, rfl, rfl, rfl, rfl⟩

/-- The node at a frame tick of the open states, before the pieces of its work. -/
def frameReady (before : State) (l : LineLevels) (order : List TickWork) (s : State) : State :=
  withLevels l (alignFrame (frameBegun before order s))

theorem beginFrame_ft (s : State) : (beginFrame s).ft = { s.ft with
    frame := s.ft.frame + 1
    tick := 0
    guard := false
    frame0 := false } := by
  unfold beginFrame
  dsimp only
  split <;> rfl

theorem frameBegun_ft (before : State) (order : List TickWork) (s : State) : (frameBegun before order s).ft = { s.ft with
    frame := s.ft.frame + 1
    tick := 0
    guard := false
    frame0 := false } := by
  rw [← beginFrame_ft]
  simp [frameBegun]

theorem frameBegun_frame (before : State) (order : List TickWork) (s : State) :
    (frameBegun before order s).ru = s.ru ∧ (frameBegun before order s).chans = s.chans ∧
    (frameBegun before order s).spl = s.spl ∧ (frameBegun before order s).dlu = s.dlu ∧
    (frameBegun before order s).ss = s.ss ∧ (frameBegun before order s).pu = s.pu ∧
    (frameBegun before order s).iu = s.iu ∧ (frameBegun before order s).zu = s.zu ∧
    (frameBegun before order s).ts = s.ts ∧ (frameBegun before order s).tpr = s.tpr ∧
    (frameBegun before order s).cl = s.cl ∧ (frameBegun before order s).cfg = s.cfg ∧
    (frameBegun before order s).pins = s.pins ∧ (frameBegun before order s).pending = s.pending := by
  simp [frameBegun]

theorem countQuiet_lif {s : State} (counts : s.ss.safety ≠ .loading ∧ s.ss.safety ≠ .parked) :
    (countQuiet s).lif = { s.lif with quiet := satSucc 255 s.lif.quiet } := by
  unfold countQuiet linkQuietAtEight
  split
  next loading => exact absurd loading counts.1
  next parked => exact absurd parked counts.2
  next => split <;> rfl

/-- The counts of the link advance; what waits is as the STATE left it. -/
theorem frameBegun_lif (before : State) (order : List TickWork) {s : State}
    (counts : s.ss.safety ≠ .loading ∧ s.ss.safety ≠ .parked) :
    (frameBegun before order s).lif = { (composeFirst before order (beginFrame s)).lif with
      quiet := satSucc 255 (composeFirst before order (beginFrame s)).lif.quiet
      dupQuiet := satSucc 32 (composeFirst before order (beginFrame s)).lif.dupQuiet } := by
  have same : (composeFirst before order (beginFrame s)).ss = s.ss := by simp
  unfold frameBegun countDup
  rw [countQuiet_lif (by rwa [same])]
  rfl

theorem composeState_sends (before s : State) : SendsOnly s (composeState before s) := by
  unfold composeState
  cases s.ss.safety with
  | disarmed | arming | armed | stopping | securing | faulted => exact broadcast_sends _ s
  | loading | parked => exact .refl s

theorem composeFirst_sends (before : State) (order : List TickWork) (s : State) : SendsOnly s (composeFirst before order s) :=
  .ite (.refl s) (composeState_sends before s)

section noneDue

variable {s : State}

theorem countPark_of_none (none_ : s.ru.parkPending = false) : countPark s = s := if_neg (by simp [none_])

theorem countRestart_of_none (none_ : s.cl.restartPending = false) : countRestart s = s := if_neg (by simp [none_])

theorem zoneFrameTick_isOpen (open_ : s.ss.safety.isOpen = true) : (zoneFrameTick s).ss.safety.isOpen = true :=
  (zoneFrameTick_works (q := False) open_).isOpen open_

end noneDue

/-! ### The node aligned to the frame -/

theorem endPunch_works {q : Prop} (s : State) : Works q s (endPunch s) := .of_same (by simp [Untouched])

theorem abortTake_works {q : Prop} (s : State) : Works q s (abortTake s) := by
  unfold abortTake
  split
  next =>
    have easing : Works q s { s with tpr.activity := .easing } := withTpr_works _ s
    exact easing.trans ((easeFor_works _ _ _).trans (endPunch_works _))
  next => exact passageToIdle_works _ s
  next => exact passageToIdle_works _ s
  next => exact .refl s

theorem abortIfDue_works {q : Prop} (s : State) : Works q s (abortIfDue s) := by
  have dropped (a : Action) (u : State) : Works q u (if u.tpr.startPend = some { take := a.take, frame := a.frame } then
      { u with tpr.startPend := none } else u) := .when fun _ => withTpr_works _ u
  unfold abortIfDue
  split
  next a _ =>
    have taken : Works q s { s with tpr.abortPend := none } := withTpr_works _ s
    exact .when fun _ => taken.trans ((dropped a _).trans (.when fun _ => abortTake_works _))
  next => exact .refl s

theorem countOverflow_works {q : Prop} {s : State} (open_ : s.ss.safety.isOpen = true) : Works q s (countOverflow s) := by
  refine .when fun _ => ?_
  have counted : Works q s { s with ss.overflowQuiet := satSucc Config.quietFrames s.ss.overflowQuiet } :=
    withSs_works open_ rfl rfl
  exact counted.trans (.when fun _ => withSs_works open_ rfl rfl)

theorem rollCall_works {q : Prop} (s : State) : Works q s (rollCall s) := .when fun _ => broadcastRoll_works s

theorem easeOn_works {q : Prop} (s : State) : Works q s (easeOn s) := .when fun _ => easeFor_works _ _ s

/-- The roster, the watch slots and the learning window brought to the frame. -/
def stationsTurned (s : State) : State := learnTick (turnSlots s.ft.frame (removeAged (ageRoster s)))

/-- The live control and the marks brought to frame `g`. -/
def liveTurned (g : FrameNo) (s : State) : State := turnMarks g (timeOutLive (turnGoals g s))

theorem aligned_eq (s : State) : aligned s =
    liveTurned s.ft.frame (easeOn (abortIfDue (rollCall (countOverflow (stationsTurned s))))) := rfl

theorem stationsTurned_works {q : Prop} (s : State) : Works q s (stationsTurned s) :=
  .of_same (by simp [Untouched, stationsTurned])

theorem timeOutLive_works {q : Prop} (s : State) : Works q s (timeOutLive s) := by
  have left (i : Nat) (u : State) : Works q u (leaveLive i u) := .of_same (by simp [Untouched])
  exact .foldl (fun u i => .when fun _ => (left i u).trans (raise_works _ _)) _ s

theorem liveTurned_works {q : Prop} (g : FrameNo) (s : State) : Works q s (liveTurned g s) := by
  have goals : Works q s (turnGoals g s) := .of_same (by simp [Untouched])
  exact goals.trans ((timeOutLive_works _).trans (withTpr_works _ _))

theorem aligned_works {q : Prop} {s : State} (open_ : s.ss.safety.isOpen = true) : Works q s (aligned s) := by
  rw [aligned_eq]
  have stations : Works q s (stationsTurned s) := stationsTurned_works s
  exact stations.trans ((countOverflow_works (stations.isOpen open_)).trans ((rollCall_works _).trans
    ((abortIfDue_works _).trans ((easeOn_works _).trans (liveTurned_works _ _)))))

theorem aligned_ru (s : State) : (aligned s).ru = (stationsTurned s).ru := by
  rw [aligned_eq]
  simp [liveTurned, turnMarks]

theorem alignFrame_ru (s : State) : (alignFrame s).ru = (stationsTurned s).ru := by
  rw [alignFrame_eq, ← aligned_ru]
  simp

/-- The zones and the ranges leave the pace as the tick has moved it. -/
theorem alignFrame_pace {s : State} (open_ : s.ss.safety.isOpen = true) : (alignFrame s).pu =
    { (paceTick s.ft.frame (advanceBase (aligned s))).pu with easePend := (alignFrame s).pu.easePend } := by
  have opened : (formRanges (paceTick s.ft.frame (advanceBase (aligned s)))).ss.safety.isOpen = true := by
    simpa using (aligned_works (q := False) open_).isOpen open_
  have := (zoneFrameTick_works (q := False) opened).pu
  rw [alignFrame_eq, this]
  simp

theorem alignFrame_isOpen {s : State} (open_ : s.ss.safety.isOpen = true) : (alignFrame s).ss.safety.isOpen = true := by
  rw [alignFrame_eq]
  exact zoneFrameTick_isOpen (by simpa using (aligned_works (q := False) open_).isOpen open_)

theorem alignFrame_sends {s : State} (open_ : s.ss.safety.isOpen = true) : SendsOnly s (alignFrame s) := by
  have first := (aligned_works (q := False) open_)
  have same : (formRanges (paceTick s.ft.frame (advanceBase (aligned s)))).lif = (aligned s).lif := by simp
  have opened : (formRanges (paceTick s.ft.frame (advanceBase (aligned s)))).ss.safety.isOpen = true := by
    simpa using first.isOpen open_
  rw [alignFrame_eq]
  exact (first.sends.same same).trans (zoneFrameTick_works (q := False) opened).sends

/-! ### The frame tick of the open states -/

section frame

variable {before s : State} {l : LineLevels} {order : List TickWork}

theorem frameBegun_isOpen (open_ : s.ss.safety.isOpen = true) : (frameBegun before order s).ss.safety.isOpen = true := by
  have same : (frameBegun before order s).ss = s.ss := by simp [frameBegun]
  rwa [same]

theorem frameReady_isOpen (open_ : s.ss.safety.isOpen = true) : (frameReady before l order s).ss.safety.isOpen = true := by
  have aligned := alignFrame_isOpen (frameBegun_isOpen (before := before) (order := order) open_)
  unfold frameReady
  simpa using aligned

/-- The work of a tick at a node that works. -/
theorem doWork_of_working (b : TickStart) (l : LineLevels) (j : Nat) (ws : List TickWork) {s : State}
    (loading : s.ss.safety ≠ .loading) (faulted : s.ss.safety ≠ .faulted) :
    doWork b l j ws s = noteReports (worked b l j ws (withLevels l s)) := by
  unfold doWork
  split
  next h => exact absurd h loading
  next h => exact absurd h faulted
  next => rfl

theorem working_of_open (open_ : s.ss.safety.isOpen = true) :
    s.ss.safety ≠ .loading ∧ s.ss.safety ≠ .faulted ∧ s.ss.safety ≠ .parked := by
  refine ⟨?_, ?_, ?_⟩
  all_goals
    intro other
    simp [other, Safety.isOpen] at open_

theorem frameTick_of_open (open_ : s.ss.safety.isOpen = true) (noPark : s.ru.parkPending = false)
    (noRestart : s.cl.restartPending = false) : frameTick before l order s =
      noteReports (worked before.tickStart l 0 (workOrder order (frameWorkOf order)) (frameReady before l order s)) := by
  have same : (frameBegun before order s).ru = s.ru ∧ (frameBegun before order s).cl = s.cl := by simp [frameBegun]
  obtain ⟨loading, faulted, parked⟩ := working_of_open (frameBegun_isOpen (before := before) (order := order) open_)
  obtain ⟨loading', faulted', -⟩ :=
    working_of_open (alignFrame_isOpen (frameBegun_isOpen (before := before) (order := order) open_))
  have reached : countRestart (countPark (frameBegun before order s)) = frameBegun before order s := by
    rw [countPark_of_none (by rw [same.1, noPark]), countRestart_of_none (by rw [same.2, noRestart])]
  unfold frameTick
  unfold frameReady
  unfold frameBegun at reached loading faulted parked loading' faulted' ⊢
  dsimp only
  rw [reached]
  split
  next h => exact absurd h loading
  next h => exact absurd h faulted
  next h => exact absurd h parked
  next => exact doWork_of_working _ _ _ _ loading' faulted'

end frame

end Sys2Proof.Machine
end

section
/-! What a frame tick brings to the counts, the roster, the watch slots and the Pace Unit (O6, O7). -/

namespace Sys2Proof.Machine

open Sys2Proof

/-! ### The stations -/

theorem learnTick_learning (s : State) : (learnTick s).ru = { s.ru with learning := s.ru.learning - 1 } := by
  unfold learnTick endLearning
  split
  case isTrue => rfl
  case isFalse short =>
    split
    case isTrue one => rw [one]
    case isFalse other =>
      have zero : s.ru.learning = 0 := by omega
      rw [zero, Nat.zero_sub, ← zero]

/-- A watch slot brought to frame `g` (R41). -/
def WatchSlot.turned (lossTimeout : Nat) (g : FrameNo) (w : WatchSlot) : WatchSlot := (w.turn g).expire lossTimeout

theorem stationsTurned_ru (s : State) : (stationsTurned s).ru = { s.ru with
    roster := (s.ru.roster.map fun e => { e with age := satSucc 255 e.age }).filter fun e =>
      e.pinned || decide (e.age ≤ 4 * s.cfg.lossTimeout)
    slots := s.ru.slots.map (WatchSlot.turned s.cfg.lossTimeout s.ft.frame)
    learning := s.ru.learning - 1 } := by
  have slots : (turnSlots s.ft.frame (removeAged (ageRoster s))).ru.slots =
      s.ru.slots.map (WatchSlot.turned s.cfg.lossTimeout s.ft.frame) := List.map_map
  unfold stationsTurned
  rw [learnTick_learning, ← slots]
  rfl

theorem turned_of_value {w : WatchSlot} {g : FrameNo} {u : Nat} (lossTimeout : Nat) (due : getPend w.pend g = some u) :
    w.turned lossTimeout g = { value := some u, age := 0, pend := w.pend.filter fun p => p.1 != g } := by
  simp [WatchSlot.turned, WatchSlot.turn, WatchSlot.expire, due, dropPend]

theorem turned_of_none {w : WatchSlot} {g : FrameNo} (lossTimeout : Nat) (none_ : getPend w.pend g = none) :
    w.turned lossTimeout g = { w with
      age := min 255 (w.age + 1)
      value := if lossTimeout < min 255 (w.age + 1) then none else w.value } := by
  have turn : w.turn g = { w with age := min 255 (w.age + 1) } := by
    unfold WatchSlot.turn
    rw [none_]
    rfl
  unfold WatchSlot.turned
  rw [turn]
  unfold WatchSlot.expire
  by_cases late : lossTimeout < min 255 (w.age + 1)
  · rw [if_pos late, if_pos late]
  · rw [if_neg late, if_neg late]

/-! ### The Pace Unit (R125 to R127) -/

theorem turnFloor_pu (d : FrameNo) (s : State) : (turnFloor d s).pu = { s.pu with
    floor := (turnFloor d s).pu.floor
    floorQuiet := (turnFloor d s).pu.floorQuiet
    floorPend := (turnFloor d s).pu.floorPend } := by
  unfold turnFloor returnFloor
  repeat' split
  all_goals rfl

theorem turnFloor_of_due {d : FrameNo} {s : State} {v : Nat} (due : getPend s.pu.floorPend d = some v) :
    (turnFloor d s).pu.floor = min s.pu.floor v ∧ (turnFloor d s).pu.floorQuiet = 0 := by
  unfold turnFloor
  rw [due]
  exact ⟨rfl, rfl⟩

theorem turnFloor_of_low {d : FrameNo} {s : State} (none_ : getPend s.pu.floorPend d = none) (low : s.pu.floor < 16) :
    (turnFloor d s).pu.floorQuiet = min 32 (s.pu.floorQuiet + 1) ∧
      (turnFloor d s).pu.floor = if 31 ≤ s.pu.floorQuiet then 16 else s.pu.floor := by
  unfold turnFloor returnFloor
  rw [none_]
  simp only [Config.fullPace, Config.quietFrames, satSucc, low, if_true, and_true]
  by_cases quiet : 31 ≤ s.pu.floorQuiet
  · rw [if_pos (by omega), if_pos quiet]
    exact ⟨rfl, rfl⟩
  · rw [if_neg (by omega), if_neg quiet]
    exact ⟨rfl, rfl⟩

theorem turnFloor_of_full {d : FrameNo} {s : State} (none_ : getPend s.pu.floorPend d = none) (full : 16 ≤ s.pu.floor) :
    turnFloor d s = s := by
  unfold turnFloor
  rw [none_]
  exact if_neg (Nat.not_lt.mpr full)

theorem turnEase_pu (g : FrameNo) (s : State) : (turnEase g s).pu = { s.pu with
    ease := (getPend s.pu.easePend g).getD s.pu.ease
    easePend := (turnEase g s).pu.easePend } := by
  unfold turnEase
  split
  next due => rw [due]; rfl
  next none_ => rw [none_]; rfl

theorem turnFloor_pu_congr (d : FrameNo) {s t : State} (same : t.pu = s.pu) : (turnFloor d t).pu = (turnFloor d s).pu := by
  unfold turnFloor returnFloor
  rw [same]
  repeat' split
  all_goals simp only [same]

theorem turnEase_pu_congr (g : FrameNo) {s t : State} (same : t.pu = s.pu) : (turnEase g t).pu = (turnEase g s).pu := by
  unfold turnEase
  rw [same]
  split
  all_goals simp only [same]

/-- The pace entries at the frame tick after the date `d`. -/
def Pu.entriesTurned (d : FrameNo) (p : Pu) : List PaceEntry :=
  (p.entries.map (PaceEntry.turn d)).filter fun e => e.factor.isSome || !e.pend.isEmpty

/-- The Pace Unit before its target is formed. -/
def paceTurned (g : FrameNo) (s : State) : State :=
  turnEase g (turnFloor (g - 1) { s with pu.entries := s.pu.entriesTurned (g - 1) })

theorem paceTick_pu (g : FrameNo) (s : State) : (paceTick g s).pu = { (paceTurned g s).pu with
    target := (paceTurned g s).pu.targetPace
    applied := movePace s.cfg.paceStep (paceTurned g s).pu.targetPace s.pu.applied } := by
  have applied : (paceTurned g s).pu.applied = s.pu.applied := by
    unfold paceTurned
    rw [turnEase_pu, turnFloor_pu]
  have cfg : (paceTurned g s).cfg = s.cfg := by simp [paceTurned]
  rw [← applied, ← cfg]
  rfl

theorem paceTurned_pu (g : FrameNo) (s : State) : (paceTurned g s).pu = { s.pu with
    entries := s.pu.entriesTurned (g - 1)
    floor := (turnFloor (g - 1) s).pu.floor
    floorQuiet := (turnFloor (g - 1) s).pu.floorQuiet
    floorPend := (turnFloor (g - 1) s).pu.floorPend
    ease := (getPend s.pu.easePend g).getD s.pu.ease
    easePend := (paceTurned g s).pu.easePend } := by
  have floor : (turnFloor (g - 1) { s with pu.entries := s.pu.entriesTurned (g - 1) }).pu =
      { (turnFloor (g - 1) s).pu with entries := s.pu.entriesTurned (g - 1) } := by
    unfold turnFloor returnFloor
    dsimp only
    repeat' split
    all_goals rfl
  unfold paceTurned
  rw [turnEase_pu, floor, turnFloor_pu]

theorem movePace_spec (step target applied : Nat) :
    (applied < target → movePace step target applied = min target (applied + step)) ∧
    (target < applied → movePace step target applied = max target (applied - step)) ∧
    (target = applied → movePace step target applied = applied) := by
  unfold movePace
  refine ⟨fun less => if_pos less, fun more => ?_, fun same => ?_⟩
  · rw [if_neg (by omega), if_pos more]
  · rw [if_neg (by omega), if_neg (by omega)]

/-- The target pace is the least of the factors, the floor and 16 (R126). -/
theorem targetPace_spec {p : Pu} (running : p.ease = false) : p.targetPace ≤ 16 ∧ p.targetPace ≤ p.floor ∧
    (∀ e ∈ p.entries, ∀ f, e.factor = some f → p.targetPace ≤ f) ∧
    (p.targetPace = 16 ∨ p.targetPace = p.floor ∨ ∃ e ∈ p.entries, e.factor = some p.targetPace) := by
  have formed : p.targetPace = (p.entries.filterMap (·.factor)).foldl min (min p.floor 16) := by
    simp [Pu.targetPace, running, Config.fullPace]
  have bound := foldl_min_le (p.entries.filterMap (·.factor)) (min p.floor 16)
  rw [formed]
  refine ⟨bound.trans (min_le_right ..), bound.trans (min_le_left ..), fun e listed f factor =>
    foldl_min_le_of_mem (List.mem_filterMap.mpr ⟨e, listed, factor⟩) _, ?_⟩
  rcases foldl_min_mem (p.entries.filterMap (·.factor)) (min p.floor 16) with least | listed
  · rw [least]
    rcases Nat.le_total p.floor 16 with low | high
    · exact .inr (.inl (Nat.min_eq_left low))
    · exact .inl (Nat.min_eq_right high)
  · obtain ⟨e, mem, factor⟩ := List.mem_filterMap.mp listed
    exact .inr (.inr ⟨e, mem, factor⟩)

theorem targetPace_easing {p : Pu} (easing : p.ease = true) : p.targetPace = 0 := if_pos easing

/-! ### The ease setting of the frame (R168) -/

theorem abortIfDue_of_none {s : State} (none_ : s.tpr.abortPend = none) : abortIfDue s = s := by
  unfold abortIfDue
  rw [none_]

theorem abortTake_of_easing {s : State} (easing : s.tpr.activity = .easing) : abortTake s = s := by
  unfold abortTake
  rw [easing]

theorem abortIfDue_of_due {s : State} {a : Action} (pending : s.tpr.abortPend = some a) (due : a.frame = s.ft.frame) :
    abortIfDue s = if s.tpr.take = some a.take then abortTake (abortTaken a.take s) else abortTaken a.take s := by
  obtain ⟨id, frame⟩ := a
  obtain rfl : frame = s.ft.frame := due
  unfold abortIfDue
  rw [pending]
  refine (if_pos rfl).trans ?_
  by_cases same : s.tpr.startPend = some { take := id, frame := s.ft.frame }
  · simp [abortTaken, same]
  · simp [abortTaken, same]

theorem abortIfDue_of_later {s : State} {a : Action} (pending : s.tpr.abortPend = some a) (later : a.frame ≠ s.ft.frame) :
    abortIfDue s = s := by
  unfold abortIfDue
  rw [pending]
  exact if_neg later

theorem abortIfDue_activity_of_easing {s : State} (easing : s.tpr.activity = .easing) :
    (abortIfDue s).tpr.activity = .easing := by
  cases pending : s.tpr.abortPend with
  | none => rwa [abortIfDue_of_none pending]
  | some a =>
    by_cases due : a.frame = s.ft.frame
    · have taken : (abortTaken a.take s).tpr.activity = .easing := easing
      rw [abortIfDue_of_due pending due, abortTake_of_easing taken, ite_self]
      exact taken
    · rwa [abortIfDue_of_later pending due]

theorem easeOn_of_easing {s : State} (easing : s.tpr.activity = .easing) : easeOn s = easeFor s.ft.frame true s :=
  if_pos easing

theorem easeOn_of_other {s : State} (other : s.tpr.activity ≠ .easing) : easeOn s = s := if_neg other

/-- The node before its live control is brought to the frame. -/
def eased (s : State) : State := easeOn (abortIfDue (rollCall (countOverflow (stationsTurned s))))

theorem aligned_pu (s : State) : (aligned s).pu = (eased s).pu := by
  rw [aligned_eq]
  simp [liveTurned, turnMarks, eased]

theorem rolled_tpr (s : State) : (rollCall (countOverflow (stationsTurned s))).tpr = s.tpr ∧
    (rollCall (countOverflow (stationsTurned s))).ft = s.ft ∧ (rollCall (countOverflow (stationsTurned s))).pu = s.pu := by
  simp [stationsTurned]

theorem aligned_pu_of_easing {s : State} (easing : s.tpr.activity = .easing) :
    getPend (aligned s).pu.easePend s.ft.frame = some true := by
  obtain ⟨tpr, ft, -⟩ := rolled_tpr s
  rw [aligned_pu]
  unfold eased
  rw [easeOn_of_easing (abortIfDue_activity_of_easing (by rw [tpr, easing]))]
  have frame : (abortIfDue (rollCall (countOverflow (stationsTurned s)))).ft = s.ft := by simpa using ft
  unfold easeFor
  rw [getPend_setPend, frame, if_pos rfl]

theorem aligned_pu_of_none {s : State} (other : s.tpr.activity ≠ .easing) (none_ : s.tpr.abortPend = none) :
    (aligned s).pu = s.pu := by
  obtain ⟨tpr, -, pu⟩ := rolled_tpr s
  rw [aligned_pu]
  unfold eased
  rw [abortIfDue_of_none (by rw [tpr, none_]), easeOn_of_other (by rwa [tpr]), pu]

/-! ### The frame tick -/

theorem advanceBase_pu (s : State) : (advanceBase s).pu = s.pu := by simp

theorem FrameTurned.congr {s s' t : State} (turned : FrameTurned s t) (ru : s'.ru = s.ru) (quiet : s'.lif.quiet = s.lif.quiet)
    (dupQuiet : s'.lif.dupQuiet = s.lif.dupQuiet) (cfg : s'.cfg = s.cfg) (frame : s'.ft.frame = s.ft.frame)
    (pu : s'.pu = s.pu) (tpr : s'.tpr = s.tpr) : FrameTurned s' t := by
  unfold FrameTurned at turned ⊢
  rw [ru, quiet, dupQuiet, cfg, frame, pu, tpr]
  exact turned

section frame

variable {before s : State} {l : LineLevels} {order : List TickWork} (open_ : s.ss.safety.isOpen = true)
  (noPark : s.ru.parkPending = false) (noRestart : s.cl.restartPending = false)
include open_ noPark noRestart

theorem frameTick_ru : (frameTick before l order s).ru = (stationsTurned (frameBegun before order s)).ru := by
  rw [frameTick_of_open open_ noPark noRestart, ← alignFrame_ru]
  simp [(worked_frame ..).2.1, frameReady]

theorem frameTick_iu : (frameTick before l order s).iu = (alignFrame (frameBegun before order s)).iu := by
  rw [frameTick_of_open open_ noPark noRestart]
  simp [(worked_frame ..).2.2.1, frameReady]

/-- The work of the tick, after the node is aligned to the frame. -/
theorem frameTick_works {q : Prop} (pieces : q → .report ∉ workOrder order (frameWorkOf order)) :
    Works q (frameReady before l order s) (frameTick before l order s) := by
  rw [frameTick_of_open open_ noPark noRestart]
  exact (worked_works _ l 0 _ pieces _).trans (noteReports_works _)

theorem frameTick_sends : SendsOnly (frameBegun before order s) (frameTick before l order s) := by
  have same : (frameReady before l order s).lif = (alignFrame (frameBegun before order s)).lif := by simp [frameReady]
  exact ((alignFrame_sends (frameBegun_isOpen open_)).same same).trans
    (frameTick_works (q := False) open_ noPark noRestart False.elim).sends

theorem frameTick_pu : (frameTick before l order s).pu =
    { (paceTick (s.ft.frame + 1) (aligned (frameBegun before order s))).pu with
      easePend := (frameTick before l order s).pu.easePend } := by
  have frame : (frameBegun before order s).ft.frame = s.ft.frame + 1 := by rw [frameBegun_ft]
  have ready : (frameReady before l order s).pu = (alignFrame (frameBegun before order s)).pu := by simp [frameReady]
  have based (u : State) (g : FrameNo) : (paceTick g (advanceBase u)).pu = (paceTick g u).pu := by
    have turned : (paceTurned g (advanceBase u)).pu = (paceTurned g u).pu := by
      unfold paceTurned
      refine turnEase_pu_congr g (turnFloor_pu_congr (g - 1) ?_)
      simp
    rw [paceTick_pu, paceTick_pu, turned, advanceBase_pu]
    simp
  have works := (frameTick_works (before := before) (l := l) (order := order) (q := False) open_ noPark noRestart
    False.elim).pu
  rw [works, ready, alignFrame_pace (frameBegun_isOpen open_), based, frame]

end frame

end Sys2Proof.Machine
end

section
/-! The frame tick of the open states brings to the counts, the roster, the watch slots and the Pace Unit what the rules say
(O6, O7). -/

namespace Sys2Proof.Machine

open Sys2Proof

theorem entriesTurned_of_pu {d : FrameNo} {p p' : Pu} (same : p'.entries = p.entries) :
    p'.entriesTurned d = p.entriesTurned d := by
  unfold Pu.entriesTurned
  rw [same]

theorem turnFloor_easePend (d : FrameNo) (l : List (FrameNo × Bool)) (s : State) :
    (turnFloor d { s with pu.easePend := l }).pu = { (turnFloor d s).pu with easePend := l } := by
  unfold turnFloor returnFloor
  dsimp only
  repeat' split
  all_goals rfl

theorem paceEntry_turn_of_value {e : PaceEntry} {d : FrameNo} {v : Nat} (due : getPend e.pend d = some v) :
    e.turn d = { e with factor := if v < 16 then some v else none, pend := e.pend.filter fun p => p.1 != d } := by
  unfold PaceEntry.turn
  rw [due]
  rfl

theorem paceEntry_turn_of_none {e : PaceEntry} {d : FrameNo} (none_ : getPend e.pend d = none) : e.turn d = e := by
  unfold PaceEntry.turn
  rw [none_]

theorem targetPace_congr {p q : Pu} (ease : p.ease = q.ease) (entries : p.entries = q.entries) (floor : p.floor = q.floor) :
    p.targetPace = q.targetPace := by
  unfold Pu.targetPace
  rw [ease, entries, floor]

/-- The Pace Unit `p` as a frame tick at `s` leaves it: the settings that pend for the frame are applied, the target pace is
formed from them, and the applied pace moves toward it. -/
structure PaceMoved (s : State) (ease : Bool) (p : Pu) : Prop where
  entries : p.entries = s.pu.entriesTurned s.ft.frame
  floor : p.floor = (turnFloor s.ft.frame s).pu.floor
  floorQuiet : p.floorQuiet = (turnFloor s.ft.frame s).pu.floorQuiet
  ease : p.ease = ease
  target : p.target = p.targetPace
  applied : p.applied = movePace s.cfg.paceStep p.targetPace s.pu.applied

theorem paceTick_moved {s w : State} {p : Pu} (kept : w.pu = { s.pu with easePend := w.pu.easePend }) (cfg : w.cfg = s.cfg)
    (moved : p = { (paceTick (s.ft.frame + 1) w).pu with easePend := p.easePend }) :
    PaceMoved s ((getPend w.pu.easePend (s.ft.frame + 1)).getD s.pu.ease) p := by
  have floors := turnFloor_easePend s.ft.frame w.pu.easePend s
  rw [← turnFloor_pu_congr s.ft.frame (t := w) kept] at floors
  have date : s.ft.frame + 1 - 1 = s.ft.frame := by simp
  have turned := paceTurned_pu (s.ft.frame + 1) w
  rw [date, floors, entriesTurned_of_pu (p := s.pu) (by rw [kept])] at turned
  rw [paceTick_pu, cfg] at moved
  have target : p.targetPace = (paceTurned (s.ft.frame + 1) w).pu.targetPace :=
    targetPace_congr (by rw [moved]) (by rw [moved]) (by rw [moved])
  have fields : p.entries = (paceTurned (s.ft.frame + 1) w).pu.entries ∧ p.floor = (paceTurned (s.ft.frame + 1) w).pu.floor ∧
      p.floorQuiet = (paceTurned (s.ft.frame + 1) w).pu.floorQuiet ∧ p.ease = (paceTurned (s.ft.frame + 1) w).pu.ease ∧
      p.target = (paceTurned (s.ft.frame + 1) w).pu.targetPace ∧
      p.applied = movePace s.cfg.paceStep (paceTurned (s.ft.frame + 1) w).pu.targetPace w.pu.applied := by
    rw [moved]
    exact ⟨rfl, rfl, rfl, rfl, rfl, rfl⟩
  obtain ⟨entries, floor, floorQuiet, ease, formed, applied⟩ := fields
  have same : w.pu.applied = s.pu.applied ∧ w.pu.ease = s.pu.ease := by
    rw [kept]
    exact ⟨rfl, rfl⟩
  refine ⟨by rw [entries, turned], by rw [floor, turned], by rw [floorQuiet, turned], ?_, formed.trans target.symm, ?_⟩
  · rw [ease, turned, ← same.2]
  · rw [applied, target, same.1]

section frame

variable {before s : State} {l : LineLevels} {order : List TickWork} (open_ : s.ss.safety.isOpen = true)
  (noPark : s.ru.parkPending = false) (noRestart : s.cl.restartPending = false)
include open_ noPark noRestart

theorem frameTick_pace : PaceMoved s
    ((getPend (aligned (frameBegun before order s)).pu.easePend (s.ft.frame + 1)).getD s.pu.ease)
    (frameTick before l order s).pu := by
  obtain ⟨-, -, -, -, -, pu, -, -, -, -, -, cfg, -⟩ := frameBegun_frame before order s
  have kept := (aligned_works (q := False) (frameBegun_isOpen (before := before) (order := order) open_)).pu
  rw [pu] at kept
  have sameCfg : (aligned (frameBegun before order s)).cfg = s.cfg := by
    rw [← cfg, aligned_eq]
    simp [stationsTurned, liveTurned, turnMarks]
  exact paceTick_moved kept sameCfg (frameTick_pu open_ noPark noRestart)

theorem frameTick_turned : FrameTurned s (frameTick before l order s) := by
  obtain ⟨ru, -, -, -, -, pu, -, -, -, tpr, -, cfg, -⟩ := frameBegun_frame before order s
  have frame : (frameBegun before order s).ft.frame = s.ft.frame + 1 := by rw [frameBegun_ft]
  have stations := frameTick_ru (before := before) (l := l) (order := order) open_ noPark noRestart
  rw [stationsTurned_ru, ru, cfg, frame] at stations
  have sends := frameTick_sends (before := before) (l := l) (order := order) open_ noPark noRestart
  have counts : s.ss.safety ≠ .loading ∧ s.ss.safety ≠ .parked := by
    obtain ⟨loading, -, parked⟩ := working_of_open open_
    exact ⟨loading, parked⟩
  have first := composeFirst_sends before order (beginFrame s)
  have begun : (beginFrame s).lif = s.lif := by simp
  have pace := frameTick_pace (before := before) (l := l) (order := order) open_ noPark noRestart
  obtain ⟨rise, fall, stay⟩ := movePace_spec s.cfg.paceStep (frameTick before l order s).pu.targetPace s.pu.applied
  refine ⟨by rw [stations], ?quiet, by rw [stations]; rfl, ?slots, ?dupQuiet, ?rise, ?fall, ?stay, ?entries, ?floorDue,
    ?floorLow, ?floorFull, ?easing, ?easeDue, ?easeTarget, ?target⟩
  case quiet =>
    rw [sends.quiet, frameBegun_lif _ _ counts, first.quiet, begun]
    rfl
  case dupQuiet =>
    rw [sends.dupQuiet, frameBegun_lif _ _ counts, first.dupQuiet, begun]
    rfl
  case slots =>
    rw [stations]
    refine List.map_congr_left fun w _ => ?_
    cases due : getPend w.pend (s.ft.frame + 1) with
    | some u => exact turned_of_value _ due
    | none => exact turned_of_none _ due
  case rise => rw [pace.target, pace.applied]; exact rise
  case fall => rw [pace.target, pace.applied]; exact fall
  case stay => rw [pace.target, pace.applied]; exact stay
  case entries =>
    rw [pace.entries]
    refine congrArg (List.filter _) (List.map_congr_left fun e _ => ?_)
    cases due : getPend e.pend s.ft.frame with
    | some v => exact paceEntry_turn_of_value due
    | none => exact paceEntry_turn_of_none due
  case floorDue =>
    intro v due
    rw [pace.floor, pace.floorQuiet]
    exact turnFloor_of_due due
  case floorLow =>
    intro none_ low
    rw [pace.floor, pace.floorQuiet]
    exact turnFloor_of_low none_ low
  case floorFull =>
    intro none_ full
    rw [pace.floor, pace.floorQuiet, turnFloor_of_full none_ full]
    exact ⟨rfl, rfl⟩
  case easing =>
    intro easing
    have pending := aligned_pu_of_easing (s := frameBegun before order s) (by rw [tpr, easing])
    rw [frame] at pending
    rw [pace.ease, pending]
    rfl
  case easeDue =>
    intro other none_
    rw [pace.ease, aligned_pu_of_none (by rwa [tpr]) (by rw [tpr, none_]), pu]
  case easeTarget =>
    intro easing
    rw [pace.target, targetPace_easing easing]
  case target =>
    intro running
    rw [pace.target]
    exact targetPace_spec running

end frame

end Sys2Proof.Machine
end

section
/-! The clock cycles between the events of the Frame Timer, and the frame tick of every state (O6, O7, O8). -/

namespace Sys2Proof.Machine

open Sys2Proof

/-! ### Clock cycles (R22, R24, R26) -/

theorem ceilDiv_le_iff {a b : Nat} (k : Nat) (pos : 0 < b) : ceilDiv a b ≤ k ↔ a ≤ b * k := by
  unfold ceilDiv
  rw [Nat.div_le_iff_le_mul pos, Nat.mul_comm k b]
  omega

theorem le_mul_ceilDiv {a b : Nat} (pos : 0 < b) : a ≤ b * ceilDiv a b := (ceilDiv_le_iff _ pos).mp le_rfl

theorem mul_lt_of_lt_ceilDiv {a b k : Nat} (pos : 0 < b) (less : k < ceilDiv a b) : b * k < a :=
  Nat.not_le.mp fun reached => Nat.not_lt.mpr ((ceilDiv_le_iff k pos).mpr reached) less

/-- The rounding up overshoots by less than the divisor. -/
theorem mul_ceilDiv_lt {a b : Nat} (pos : 0 < b) : b * ceilDiv a b < a + b := by
  unfold ceilDiv
  have := Nat.mul_div_le (a + b - 1) b
  omega

section frameCycles

variable (n : Nat) (f : Ft)

theorem cyclesToFrame_reaches : n ≤ f.acc + 8 * f.cyclesToFrame n := by
  have := le_mul_ceilDiv (a := n - f.acc) (b := 8) (by omega)
  unfold Ft.cyclesToFrame
  omega

theorem cyclesToFrame_least {k : Nat} (less : k < f.cyclesToFrame n) : f.acc + 8 * k < n := by
  have := mul_lt_of_lt_ceilDiv (a := n - f.acc) (b := 8) (by omega) less
  omega

theorem cyclesToFrame_remainder (below : f.acc < n) : f.acc + 8 * f.cyclesToFrame n - n < 8 := by
  have := mul_ceilDiv_lt (a := n - f.acc) (b := 8) (by omega)
  unfold Ft.cyclesToFrame
  omega

theorem cyclesToLoss_le_iff (k : Nat) : f.cyclesToLoss n ≤ k ↔ 3 * n ≤ 2 * (f.watch + 8 * k) := by
  unfold Ft.cyclesToLoss
  rw [ceilDiv_le_iff k (by omega)]
  omega

end frameCycles

/-! ### The watch of the reference (R24) -/

theorem loseReference_eq (s : State) : loseReference s = { s with
    ft := { s.ft with watch := s.ft.watch + 8 * s.ft.cyclesToLoss s.cfg.timing.n, refPresent := false }
    attention := s.attention ||| 2#16 } := rfl

theorem watchCycles_watched (k : Nat) (s : State) : Watched k s (watchCycles k s) := by
  have watching : (s.cfg.timing.refUse && s.ft.watching s.cfg.timing.n) = true ↔
      s.cfg.timing.refUse = true ∧ 2 * s.ft.watch < 3 * s.cfg.timing.n := by simp [Ft.watching]
  unfold watchCycles
  by_cases watched : (s.cfg.timing.refUse && s.ft.watching s.cfg.timing.n) = true
  · rw [if_pos watched]
    by_cases reached : s.ft.cyclesToLoss s.cfg.timing.n ≤ k
    · rw [if_pos reached, loseReference_eq]
      refine ⟨by simp [onlyChanges_iff], rfl, fun _ => ⟨rfl, rfl⟩, fun kept => ?_⟩
      obtain ⟨used, below⟩ := watching.mp watched
      exact absurd ⟨used, below, (cyclesToLoss_le_iff _ _ _).mp reached⟩ kept
    · rw [if_neg reached]
      refine ⟨by simp [onlyChanges_iff], rfl, fun ⟨_, _, lost⟩ => ?_, fun _ => ⟨rfl, rfl⟩⟩
      exact absurd ((cyclesToLoss_le_iff _ _ _).mpr lost) reached
  · rw [if_neg watched]
    exact ⟨by simp [onlyChanges_iff], rfl, fun ⟨used, below, _⟩ => absurd (watching.mpr ⟨used, below⟩) watched,
      fun _ => ⟨rfl, rfl⟩⟩

/-! ### The frame tick of every state -/

/-- The node at a frame tick, with its pending passages counted and carried out. -/
def frameCounted (before : State) (order : List TickWork) (s : State) : State :=
  countRestart (countPark (frameBegun before order s))

section tick

variable {before s : State} {l : LineLevels} {order : List TickWork}

theorem frameTick_of_closed (closed : (frameCounted before order s).ss.safety = .loading ∨
    (frameCounted before order s).ss.safety = .faulted) :
    frameTick before l order s = frameCounted before order s := by
  unfold frameTick
  unfold frameCounted frameBegun at closed ⊢
  dsimp only
  split
  next => rfl
  next => rfl
  next parked => simp [parked] at closed
  next loading faulted _ =>
    rcases closed with h | h
    · exact absurd h loading
    · exact absurd h faulted

theorem frameTick_of_parked (parked : (frameCounted before order s).ss.safety = .parked) : frameTick before l order s =
    doWork before.tickStart l 0 (workOrder order servoWork) (wakeIfDue (frameCounted before order s)) := by
  unfold frameTick
  unfold frameCounted frameBegun at parked ⊢
  dsimp only
  rw [parked]

theorem frameTick_of_awake (open_ : (frameCounted before order s).ss.safety.isOpen = true) :
    frameTick before l order s =
      doWork before.tickStart l 0 (workOrder order (frameWorkOf order)) (alignFrame (frameCounted before order s)) := by
  obtain ⟨loading, faulted, parked⟩ := working_of_open open_
  unfold frameTick
  unfold frameCounted frameBegun at loading faulted parked ⊢
  dsimp only
  split
  next h => exact absurd h loading
  next h => exact absurd h faulted
  next h => exact absurd h parked
  next => rfl

theorem isOpen_or_closed (s : State) : s.ss.safety.isOpen = true ∨ (s.ss.safety = .loading ∨ s.ss.safety = .faulted) ∨
    s.ss.safety = .parked := by
  cases safety : s.ss.safety
  all_goals simp [Safety.isOpen]

/-- A frame tick leaves of the Frame Timer, the loader and the configuration what the passages leave. -/
theorem frameTick_counted : (frameTick before l order s).ft = (frameCounted before order s).ft ∧
    (frameTick before l order s).cl = (frameCounted before order s).cl ∧
    (frameTick before l order s).cfg = (frameCounted before order s).cfg := by
  rcases isOpen_or_closed (frameCounted before order s) with open_ | closed | parked
  · rw [frameTick_of_awake open_]
    simp
  · rw [frameTick_of_closed closed]
    exact ⟨rfl, rfl, rfl⟩
  · rw [frameTick_of_parked parked]
    simp

theorem enterParked_cl (s : State) : (enterParked s).cl = { s.cl with restartPending := false, restartTicks := 0 } := by
  unfold enterParked
  dsimp only
  split
  all_goals simp

theorem countPark_cl (noRestart : s.cl.restartPending = false) : (countPark s).cl.restartPending = false ∧
    (countPark s).cl.read = s.cl.read ∧ (countPark s).cl.fault = s.cl.fault ∧ (countPark s).cl.item = s.cl.item ∧
    (countPark s).cl.spineId = s.cl.spineId := by
  unfold countPark parkIfDue
  split
  case isTrue pending =>
    split
    case isTrue due =>
      rw [enterParked_cl]
      exact ⟨rfl, rfl, rfl, rfl, rfl⟩
    case isFalse => exact ⟨noRestart, rfl, rfl, rfl, rfl⟩
  case isFalse => exact ⟨noRestart, rfl, rfl, rfl, rfl⟩

theorem frameCounted_of_no_restart (noRestart : s.cl.restartPending = false) :
    frameCounted before order s = countPark (frameBegun before order s) := by
  obtain ⟨-, -, -, -, -, -, -, -, -, -, cl, -⟩ := frameBegun_frame before order s
  exact countRestart_of_none (countPark_cl (by rw [cl, noRestart])).1

/-- A frame tick without a pending RESTART, in every state (R26, R28). -/
theorem frameTick_begins (noRestart : s.cl.restartPending = false) :
    (frameTick before l order s).ft = { s.ft with
      frame := s.ft.frame + 1
      tick := 0
      guard := false
      frame0 := false } ∧
    (frameTick before l order s).cfg = s.cfg ∧ (frameTick before l order s).cl.read = s.cl.read ∧
    (frameTick before l order s).cl.fault = s.cl.fault ∧ (frameTick before l order s).cl.item = s.cl.item ∧
    (frameTick before l order s).cl.spineId = s.cl.spineId := by
  obtain ⟨ft, cl, cfg⟩ := frameTick_counted (before := before) (s := s) (l := l) (order := order)
  obtain ⟨-, -, -, -, -, -, -, -, -, -, cl', cfg', -⟩ := frameBegun_frame before order s
  have counted := frameCounted_of_no_restart (before := before) (order := order) noRestart
  have kept := (countPark_cl (s := frameBegun before order s) (by rw [cl', noRestart])).2
  rw [cl'] at kept
  rw [ft, cl, cfg, counted, ← frameBegun_ft before order s, ← cfg']
  simp [kept]

/-- The blocks that a frame tick without a pending RESTART may change. -/
def tickBlocks : List Block :=
  [.lif, .ft, .ru, .chans, .spl, .dlu, .ss, .pu, .iu, .zu, .ts, .store, .tpr, .attention, .pins, .cl]

theorem frameTick_only (noRestart : s.cl.restartPending = false) : OnlyChanges tickBlocks s (frameTick before l order s) := by
  have begins := frameTick_begins (before := before) (l := l) (order := order) noRestart
  simp [onlyChanges_iff, tickBlocks, begins.2.1]

end tick

end Sys2Proof.Machine
end

section
/-! The live control of a frame tick: the goals, the LIVE AGE and the live timeout (R61, R173, R175), for O6 and O7. -/

namespace Sys2Proof.Machine

open Sys2Proof

/-! ### The goals turned over (R61, R173) -/

/-- The goal dated `d` of a channel under live control. -/
def LiveView.goal (d : FrameNo) (v : LiveView) : Option Nat := if v.inSet then getPend v.live.pend d else none

/-- A channel with its goals turned over to a new goal, where it is in LIVE; elsewhere a new goal waits. -/
def goalTurned (goal : Option Nat) (c : Chan) : Chan :=
  if c.mode = .live then turnedLive goal c else if goal.isSome then { c with gPend := goal } else c

/-- The live control of a channel brought to the frame after the date `d`. -/
def LiveView.turned (d : FrameNo) (v : LiveView) : LiveView :=
  { chan := goalTurned (v.goal d) v.chan
    live := if v.inSet then
        { age := if (v.goal d).isSome then 0 else satSucc 50 v.live.age, pend := dropPend v.live.pend d }
      else v.live
    inSet := v.inSet }

/-- The goals of a channel as `turnGoal` turns them. -/
def turnChan (goal : Option Nat) (c : Chan) : Chan :=
  let c := if goal.isSome then { c with gPend := goal } else c
  if c.mode = .live then { c with gPrev := c.gCur, gCur := c.gPend.getD c.gCur, gPend := none } else c

theorem turnChan_eq (goal : Option Nat) (c : Chan) : turnChan goal c = goalTurned goal c := by
  unfold turnChan goalTurned turnedLive
  cases goal with
  | none => rfl
  | some u => rfl

theorem modChan_view {i j : Nat} (hi : i < 4) (hj : j < 4) (f : Chan → Chan) (s : State) :
    (modChan i f s).liveView j = if j = i then { s.liveView j with chan := f (s.chans.get j) } else s.liveView j := by
  simp only [State.liveView, modChan, quad_get_set _ _ _ _ hi hj]
  by_cases same : j = i
  · subst same; simp
  · simp [same]

/-- The live control of a channel as `turnGoal` brings it to the frame after the date `d`. -/
def liveAged (d : FrameNo) (goal : Option Nat) (l : LiveChan) : LiveChan :=
  { age := if goal.isSome then 0 else satSucc 50 l.age, pend := dropPend l.pend d }

theorem turnGoal_eq (g : FrameNo) (i : Nat) (s : State) : turnGoal g i s =
    if (s.liveView i).inSet then
      modLive i (liveAged (g - 1) ((s.liveView i).goal (g - 1))) (modChan i (turnChan ((s.liveView i).goal (g - 1))) s)
    else modChan i (turnChan ((s.liveView i).goal (g - 1))) s := rfl

theorem turnGoal_view {g : FrameNo} {i j : Nat} (hi : i < 4) (hj : j < 4) (s : State) :
    (turnGoal g i s).liveView j = if j = i then (s.liveView j).turned (g - 1) else s.liveView j := by
  rw [turnGoal_eq]
  by_cases same : j = i
  · subst same
    rw [if_pos rfl]
    unfold LiveView.turned
    rw [← turnChan_eq]
    by_cases inSet : (s.liveView j).inSet = true
    · rw [if_pos inSet, if_pos inSet, modLive_view hj hj, if_pos rfl, modChan_view hj hj, if_pos rfl]
      rfl
    · rw [if_neg inSet, if_neg inSet, modChan_view hj hj, if_pos rfl]
      rfl
  · rw [if_neg same]
    split
    case isTrue => rw [modLive_view hi hj, if_neg same, modChan_view hi hj, if_neg same]
    case isFalse => rw [modChan_view hi hj, if_neg same]

theorem turnGoals_view {g : FrameNo} {s : State} (few : s.cfg.nChans ≤ 4) {i : Nat} (hi : i < s.cfg.nChans) :
    (turnGoals g s).liveView i = (s.liveView i).turned (g - 1) :=
  (foldl_channels (f := fun u i => turnGoal g i u) (side := fun _ => True) (view := State.liveView)
    (change := fun _ v w => w = v.turned (g - 1)) few (fun _ _ _ _ => trivial)
    (fun u k hk _ => (turnGoal_view (by omega) (by omega) u).trans (if_pos rfl))
    (fun u k hk j hj ne _ => (turnGoal_view (by omega) hj u).trans (if_neg ne)) trivial).1 i hi

/-! ### The live timeout (R175) -/

theorem leaveLive_left {i : Nat} (hi : i < 4) (s : State) :
    ((leaveLive i s).liveView i).inSet = false ∧ ((leaveLive i s).liveView i).live.pend = [] := by
  simp only [State.liveView, leaveLive_tpr, quad_get_set _ _ _ _ hi hi, if_pos, getLsbD_erase _ i hi i hi]
  simp

theorem timeOutLive_left {s : State} (few : s.cfg.nChans ≤ 4) {i : Nat} (hi : i < s.cfg.nChans) :
    ((s.liveView i).late s.cfg.liveTimeout → ((timeOutLive s).liveView i).inSet = false ∧
      ((timeOutLive s).liveView i).live.pend = []) ∧
    (¬ (s.liveView i).late s.cfg.liveTimeout → (timeOutLive s).liveView i = s.liveView i) := by
  refine (foldl_channels (f := timeOutChan) (side := fun u => u.cfg = s.cfg) (view := State.liveView)
    (change := fun _ v w => (v.late s.cfg.liveTimeout → w.inSet = false ∧ w.live.pend = []) ∧
      (¬ v.late s.cfg.liveTimeout → w = v)) few
    (fun u i _ same => ?keeps) (fun u i hi same => ?own) (fun u i hi j hj ne same => ?other) rfl).1 i hi
  case keeps =>
    unfold timeOutChan
    split
    case isTrue => simpa using same
    case isFalse => exact same
  case own =>
    unfold timeOutChan
    rw [same]
    split
    case isTrue late => exact ⟨fun _ => leaveLive_left (by omega) u, fun not => absurd late not⟩
    case isFalse early => exact ⟨fun late => absurd late early, fun _ => rfl⟩
  case other =>
    unfold timeOutChan
    split
    case isTrue => exact leaveLive_other (by omega) hj ne u
    case isFalse => rfl

/-! ### One channel at a frame tick -/

theorem dropPend_of_none {α : Type} {l : List (FrameNo × α)} {d : FrameNo} (none_ : getPend l d = none) :
    dropPend l d = l := by
  refine List.filter_eq_self.mpr fun e listed => ?_
  have absent : e.1 ≠ d := by
    simpa using List.find?_eq_none.mp (Option.map_eq_none_iff.mp none_) e listed
  simpa using absent

theorem goalTurned_of_live {goal : Option Nat} {c : Chan} (live : c.mode = .live) : goalTurned goal c = turnedLive goal c :=
  if_pos live

theorem goalTurned_none_of_other {c : Chan} (other : c.mode ≠ .live) : goalTurned none c = c := if_neg other

/-- The live control of a channel at a frame tick of frame `g`, its goals turned over and the timeout tested. -/
theorem liveTurned_turned {s u w : State} {g : FrameNo} (turned : w = liveTurned g u) (date : g - 1 = s.ft.frame)
    (tpr : u.tpr = s.tpr) (chans : u.chans = s.chans) (safety : u.ss.safety = s.ss.safety)
    (dlu : u.dlu = s.dlu) (cfg : u.cfg = s.cfg) (few : s.cfg.nChans ≤ 4) {i : Nat} (hi : i < s.cfg.nChans) : LiveTurned s w i := by
  have fewHere : (turnGoals g u).cfg.nChans ≤ 4 := by simpa [cfg] using few
  have here : i < (turnGoals g u).cfg.nChans := by simpa [cfg] using hi
  have view : (turnGoals g u).liveView i = (s.liveView i).turned s.ft.frame := by
    rw [turnGoals_view (by rwa [cfg]) (by rwa [cfg]), date, State.liveView, tpr, chans]
    rfl
  have limit : (turnGoals g u).cfg.liveTimeout = s.cfg.liveTimeout := by simp [cfg]
  obtain ⟨late, early⟩ := timeOutLive_left fewHere here
  have last : w.liveView i = (timeOutLive (turnGoals g u)).liveView i := by rw [turned]; rfl
  rw [← last, view, limit] at late early
  have stands {v : LiveView} (still : ¬ ((s.liveView i).turned s.ft.frame).late s.cfg.liveTimeout)
      (is : (s.liveView i).turned s.ft.frame = v) : w.tpr.liveSet.getLsbD i = v.inSet ∧ w.tpr.live.get i = v.live ∧
        w.chans.get i = v.chan := by
    have kept := (early still).trans is
    exact ⟨congrArg LiveView.inSet kept, congrArg LiveView.live kept, congrArg LiveView.chan kept⟩
  refine ⟨fun out => ?out, fun v inSet due pos => ?goal, fun inSet none_ young => ?young, fun inSet none_ old => ?old⟩
  case out =>
    have out' : (s.liveView i).inSet = false := out
    obtain ⟨set, live, chan⟩ := stands
      (v := { chan := goalTurned none (s.chans.get i), live := s.tpr.live.get i, inSet := false })
      (fun inTime => by simp [LiveView.late, LiveView.turned, out'] at inTime)
      (by simp only [LiveView.turned, LiveView.goal, out']; rfl)
    exact ⟨set, live, fun other => chan.trans (goalTurned_none_of_other other), fun mode => chan.trans (goalTurned_of_live mode)⟩
  case goal =>
    have inSet' : (s.liveView i).inSet = true := inSet
    have goal : (s.liveView i).goal s.ft.frame = some v := (if_pos inSet').trans due
    obtain ⟨set, live, chan⟩ := stands
      (v := { chan := goalTurned (some v) (s.chans.get i)
              live := { age := 0, pend := dropPend (s.tpr.live.get i).pend s.ft.frame }
              inSet := true })
      (fun inTime => by simp [LiveView.late, LiveView.turned, goal, inSet'] at inTime; omega)
      (by simp only [LiveView.turned, goal, inSet']; rfl)
    exact ⟨set, live, fun mode => chan.trans (goalTurned_of_live mode)⟩
  case young =>
    have inSet' : (s.liveView i).inSet = true := inSet
    have goal : (s.liveView i).goal s.ft.frame = none := (if_pos inSet').trans none_
    obtain ⟨set, live, chan⟩ := stands
      (v := { chan := goalTurned none (s.chans.get i)
              live := { age := satSucc 50 (s.tpr.live.get i).age, pend := dropPend (s.tpr.live.get i).pend s.ft.frame }
              inSet := true })
      (fun inTime => by
        simp only [LiveView.late, LiveView.turned, goal, inSet'] at inTime
        exact absurd inTime.2 (Nat.not_le.mpr young))
      (by simp only [LiveView.turned, goal, inSet']; rfl)
    rw [dropPend_of_none none_] at live
    exact ⟨set, live, fun mode => chan.trans (goalTurned_of_live mode)⟩
  case old =>
    have inSet' : (s.liveView i).inSet = true := inSet
    have goal : (s.liveView i).goal s.ft.frame = none := (if_pos inSet').trans none_
    have inTime : ((s.liveView i).turned s.ft.frame).late s.cfg.liveTimeout := by
      simp only [LiveView.late, LiveView.turned, goal, inSet']
      exact ⟨trivial, old⟩
    obtain ⟨set, pend⟩ := late inTime
    have set' : w.tpr.liveSet.getLsbD i = false := set
    refine ⟨set', pend, ?_, fun armed on => ?_⟩
    · have left : ¬ (timeOutLive (turnGoals g u)).tpr.liveSet = (turnGoals g u).tpr.liveSet := fun same => by
        have was : ((turnGoals g u).liveView i).inSet = true := by rw [view]; exact inSet'
        have now : ((timeOutLive (turnGoals g u)).liveView i).inSet = true := by
          refine Eq.trans ?_ was
          unfold State.liveView
          rw [same]
        rw [← last] at now
        exact Bool.false_ne_true (set'.symm.trans now)
      rw [turned]
      exact (timeOutLive_stale _).resolve_left left
    · have armedHere : (turnGoals g u).ss.safety = .armed := by simp [safety, armed]
      have halted := (timeOutLive_view armedHere fewHere here).1 (by rw [limit, view]; exact inTime)
      rw [← last] at halted
      have chan : w.chans.get i = _ := congrArg LiveView.chan halted
      have on' : ((turnGoals g u).dlu.lines.get i).enable = true := by simpa [dlu] using on
      rw [chan]
      simp only [unlive, on']
      exact requested_mode_of_ne_hold (by decide) _

end Sys2Proof.Machine
end

section
/-! What a frame tick of the open states brings to the live control, the marks and the zones (O6, O7). -/

namespace Sys2Proof.Machine

open Sys2Proof

/-! ### The zones at a frame tick without a condition (R117, R118, R120) -/

theorem expire_active {t : Nat} {f : LineFilter} (active : (f.expire t).active = true) : f.active = true := by
  unfold LineFilter.expire at active
  split at active
  case isTrue => cases active
  case isFalse => exact active

theorem count_active {t : Nat} {f : LineFilter} (active : (f.count t).active = true) : f.active = true := by
  unfold LineFilter.count at active
  split at active
  all_goals exact active

/-- A map that turns no line active. -/
theorem getD_map_active {g : LineFilter → LineFilter} (only : ∀ f, (g f).active = true → f.active = true)
    (l : List LineFilter) (n : Nat) (active : ((l.map g).getD n LineFilter.reset).active = true) :
    (l.getD n LineFilter.reset).active = true := by
  rw [List.getD_eq_getElem?_getD, List.getElem?_map] at active
  rw [List.getD_eq_getElem?_getD]
  cases here : l[n]? with
  | none =>
    rw [here] at active
    exact active
  | some f =>
    rw [here] at active
    exact only f active

/-- No line has become active. -/
def NoneRises (l m : List LineFilter) : Prop :=
  ∀ n, (m.getD n LineFilter.reset).active = true → (l.getD n LineFilter.reset).active = true

theorem zoneCondition_none_of_none {s t : State} (rises : NoneRises s.zu.lines t.zu.lines) (cfg : t.cfg = s.cfg)
    (none_ : s.zoneCondition = none) : t.zoneCondition = none := by
  refine List.find?_eq_none.mpr fun n hn stop => ?_
  rw [cfg, Bool.and_eq_true] at stop
  exact List.find?_eq_none.mp none_ n hn (Bool.and_eq_true_iff.mpr ⟨rises n stop.1, stop.2⟩)

theorem estopCondition_none_of_none {s t : State} (rises : NoneRises s.zu.estop t.zu.estop)
    (none_ : s.estopCondition = none) : t.estopCondition = none :=
  List.find?_eq_none.mpr fun n hn active => List.find?_eq_none.mp none_ n hn (rises n active)

/-- The Zone Unit with the frame that ends counted. -/
def zonesCounted (s : State) : State := { s with
  zu.lines := s.zu.lines.map (LineFilter.count s.cfg.zoneClearTime)
  zu.estop := s.zu.estop.map (LineFilter.count Config.estopClearTime) }

theorem zoneFrameTick_eq (s : State) : zoneFrameTick s = clearZones (clearEstop (zonesCounted s)) := rfl

theorem clearEstop_of_none {s : State} (none_ : s.estopCondition = none) :
    clearEstop s = withEstop (s.zu.estop.map (LineFilter.expire Config.estopClearTime)) s := by
  have after : (withEstop (s.zu.estop.map (LineFilter.expire Config.estopClearTime)) s).estopCondition = none :=
    estopCondition_none_of_none (getD_map_active (fun _ => expire_active) _) none_
  unfold clearEstop
  rw [changeEstop_eq, after, none_, reportCondition_of_same]

theorem clearZones_of_none {s : State} (none_ : s.zoneCondition = none) :
    clearZones s = reportFactor (withZones (s.zu.lines.map (LineFilter.expire s.cfg.zoneClearTime)) s) := by
  have after : (withZones (s.zu.lines.map (LineFilter.expire s.cfg.zoneClearTime)) s).zoneCondition = none :=
    zoneCondition_none_of_none (getD_map_active (fun _ => expire_active) _) rfl none_
  unfold clearZones
  rw [changeZones_eq, after, none_, reportCondition_of_same]

theorem zoneFrameTick_of_none {s : State} (zone : s.zoneCondition = none) (estop : s.estopCondition = none) :
    (zoneFrameTick s).chans = s.chans ∧ (zoneFrameTick s).tpr = s.tpr := by
  have estop' : (zonesCounted s).estopCondition = none :=
    estopCondition_none_of_none (getD_map_active (fun _ => count_active) _) estop
  have zone' : (clearEstop (zonesCounted s)).zoneCondition = none := by
    rw [clearEstop_of_none estop']
    exact zoneCondition_none_of_none (getD_map_active (fun _ => count_active) _) rfl zone
  rw [zoneFrameTick_eq, clearZones_of_none zone', clearEstop_of_none estop']
  simp [withZones, withEstop, zonesCounted]

/-! ### The node aligned to the frame, without a pending ABORT -/

section aligned

variable {s u : State}

theorem eased_of_no_abort (none_ : u.tpr.abortPend = none) : eased u = easeOn (rollCall (countOverflow (stationsTurned u))) := by
  obtain ⟨tpr, -, -⟩ := rolled_tpr u
  unfold eased
  rw [abortIfDue_of_none (by rw [tpr, none_])]

theorem countOverflow_safety (s : State) : (countOverflow s).ss.safety = s.ss.safety := by
  unfold countOverflow clearOverflow
  split
  case isTrue =>
    split
    all_goals rfl
  case isFalse => rfl

theorem eased_frame (none_ : u.tpr.abortPend = none) : (eased u).tpr = u.tpr ∧ (eased u).chans = u.chans ∧
    (eased u).ss.safety = u.ss.safety ∧ (eased u).dlu = u.dlu ∧ (eased u).cfg = u.cfg ∧ (eased u).ft = u.ft ∧
    (eased u).zu = u.zu := by
  rw [eased_of_no_abort none_]
  simp [stationsTurned, countOverflow_safety]

theorem aligned_of_eased (u : State) : aligned u = liveTurned u.ft.frame (eased u) := aligned_eq u

theorem liveTurned_marks (g : FrameNo) (w : State) :
    (liveTurned g w).tpr.markPrev = w.tpr.markCur ∧
    (liveTurned g w).tpr.markCur = (getPend w.tpr.markPend (g - 1)).getD 0 ∧
    (liveTurned g w).tpr.markPend = w.tpr.markPend.filter fun p => p.1 != g - 1 := by
  have marks (i : Nat) (v : State) : (leaveLive i v).tpr.markCur = v.tpr.markCur ∧
      (leaveLive i v).tpr.markPend = v.tpr.markPend := by
    rw [leaveLive_tpr]
    exact ⟨rfl, rfl⟩
  have turned : (turnGoals g w).tpr.markCur = w.tpr.markCur ∧ (turnGoals g w).tpr.markPend = w.tpr.markPend := by
    refine List.foldlRecOn (motive := fun (v : State) => v.tpr.markCur = w.tpr.markCur ∧ v.tpr.markPend = w.tpr.markPend)
      w.channels _ ⟨rfl, rfl⟩ fun v kept i _ => ?_
    rw [turnGoal_eq]
    split
    case isTrue => simpa [modLive] using kept
    case isFalse => simpa using kept
  have timed : (timeOutLive (turnGoals g w)).tpr.markCur = w.tpr.markCur ∧
      (timeOutLive (turnGoals g w)).tpr.markPend = w.tpr.markPend := by
    refine List.foldlRecOn (motive := fun (v : State) => v.tpr.markCur = w.tpr.markCur ∧ v.tpr.markPend = w.tpr.markPend)
      (turnGoals g w).channels timeOutChan turned fun v kept i _ => ?_
    unfold timeOutChan
    split
    case isTrue => exact ⟨(marks i v).1.trans kept.1, (marks i v).2.trans kept.2⟩
    case isFalse => exact kept
  unfold liveTurned turnMarks
  rw [timed.1, timed.2]
  exact ⟨rfl, rfl, rfl⟩

/-- The node aligned to the frame, where no ABORT pends: its marks and its live control are turned over. -/
theorem aligned_turned (none_ : u.tpr.abortPend = none) (date : u.ft.frame - 1 = s.ft.frame) (tpr : u.tpr = s.tpr)
    (chans : u.chans = s.chans) (ss : u.ss = s.ss) (dlu : u.dlu = s.dlu) (cfg : u.cfg = s.cfg) :
    (aligned u).tpr.markPrev = s.tpr.markCur ∧
    (aligned u).tpr.markCur = (getPend s.tpr.markPend s.ft.frame).getD 0 ∧
    (aligned u).tpr.markPend = (s.tpr.markPend.filter fun p => p.1 != s.ft.frame) ∧
    (s.cfg.nChans ≤ 4 → ∀ i < s.cfg.nChans, LiveTurned s (aligned u) i) := by
  obtain ⟨tpr', chans', safety', dlu', cfg', -, -⟩ := eased_frame none_
  have marks := liveTurned_marks u.ft.frame (eased u)
  rw [date, tpr', tpr] at marks
  rw [aligned_of_eased]
  obtain ⟨markPrev, markCur, markPend⟩ := marks
  exact ⟨markPrev, markCur, markPend, fun few i hi => liveTurned_turned rfl date (tpr'.trans tpr) (chans'.trans chans)
    (safety'.trans (by rw [ss])) (dlu'.trans dlu) (cfg'.trans cfg) few hi⟩

theorem aligned_conditions (none_ : u.tpr.abortPend = none) :
    (aligned u).zoneCondition = u.zoneCondition ∧ (aligned u).estopCondition = u.estopCondition := by
  obtain ⟨-, -, -, -, cfg, -, zu⟩ := eased_frame none_
  rw [aligned_of_eased]
  exact ⟨zoneCondition_congr (by simp [liveTurned, turnMarks, zu]) (by simp [liveTurned, turnMarks, cfg]),
    estopCondition_congr (by simp [liveTurned, turnMarks, zu])⟩

end aligned

end Sys2Proof.Machine
end

section
/-! What follows the computation of a tick leaves its values and its drive records (R52, R59, R73), for O6, O7 and O8. -/

namespace Sys2Proof.Machine

open Sys2Proof

/-- Channel `d` has the values that a computation gave channel `c`. -/
def SameValues (c d : Chan) : Prop :=
  d.x = c.x ∧ d.v = c.v ∧ d.u = c.u ∧ d.tRaw = c.tRaw ∧ d.t = c.t ∧ d.clamped = c.clamped ∧ d.settled = c.settled ∧
    d.atRest = c.atRest ∧ d.uRep = c.uRep

theorem SameValues.refl (c : Chan) : SameValues c c := ⟨rfl, rfl, rfl, rfl, rfl, rfl, rfl, rfl, rfl⟩

theorem SameValues.trans {c d e : Chan} (first : SameValues c d) (second : SameValues d e) : SameValues c e := by
  unfold SameValues at first second ⊢
  simp [first, second]

theorem enter_sameValues (table : List (Nat × Int)) (m : Mode) (c : Chan) : SameValues c (c.enter table m) :=
  ⟨rfl, rfl, rfl, rfl, rfl, rfl, rfl, rfl, rfl⟩

/-- The values of the channels, the drive records and the drives of `t` are those of `s`. -/
structure SameComputed (s t : State) : Prop where
  chans : ∀ i < 4, SameValues (s.chans.get i) (t.chans.get i)
  port : t.dlu.port = s.dlu.port
  offDue : ∀ i < 4, (t.dlu.lines.get i).offDue = (s.dlu.lines.get i).offDue
  enable : ∀ i < 4, (t.dlu.lines.get i).enable = (s.dlu.lines.get i).enable

namespace SameComputed

variable {s t u : State}

theorem refl (s : State) : SameComputed s s := ⟨fun _ _ => .refl _, rfl, fun _ _ => rfl, fun _ _ => rfl⟩

theorem trans (first : SameComputed s t) (second : SameComputed t u) : SameComputed s u where
  chans i hi := (first.chans i hi).trans (second.chans i hi)
  port := second.port.trans first.port
  offDue i hi := (second.offDue i hi).trans (first.offDue i hi)
  enable i hi := (second.enable i hi).trans (first.enable i hi)

theorem of_chans (dlu : t.dlu = s.dlu) (chans : ∀ i < 4, SameValues (s.chans.get i) (t.chans.get i)) : SameComputed s t :=
  ⟨chans, by rw [dlu], fun _ _ => by rw [dlu], fun _ _ => by rw [dlu]⟩

theorem of_same (same : t.chans = s.chans ∧ t.dlu = s.dlu) : SameComputed s t :=
  of_chans same.2 fun _ _ => by rw [same.1]; exact .refl _

theorem when {p : Prop} [Decidable p] (yes : p → SameComputed s t) : SameComputed s (if p then t else s) := by
  split
  case isTrue h => exact yes h
  case isFalse => exact refl s

theorem ite {p : Prop} [Decidable p] (yes : p → SameComputed s t) (no : ¬ p → SameComputed s u) :
    SameComputed s (if p then t else u) := by
  split
  case isTrue h => exact yes h
  case isFalse h => exact no h

theorem foldl {α : Type} {f : State → α → State} (each : ∀ u a, SameComputed u (f u a)) (l : List α) (s : State) :
    SameComputed s (l.foldl f s) := by
  induction l generalizing s with
  | nil => exact refl s
  | cons a l ih => exact (each s a).trans (ih _)

end SameComputed

/-! ### The modes and the brakes -/

theorem requestMode_sameComputed (m : Mode) (i : Nat) (s : State) : SameComputed s (requestMode m i s) := by
  unfold requestMode
  refine .ite (fun _ => .refl s) fun _ => .ite (fun _ => .refl s) fun _ => .of_chans (by simp) fun j hj => ?_
  rw [modChan_chans, quad_get_set_of_lt _ _ _ hj]
  split
  case isTrue same =>
    rw [same]
    exact enter_sameValues _ _ _
  case isFalse => exact .refl _

theorem requestByPlayer_sameComputed (m : Mode) (i : Nat) (s : State) : SameComputed s (requestByPlayer m i s) := by
  unfold requestByPlayer
  split
  next => exact .refl s
  next => exact .refl s
  next => exact requestMode_sameComputed m i s

theorem requestEach_sameComputed (m : Mode) (is : List Nat) (s : State) : SameComputed s (requestEach m is s) :=
  .foldl (fun u i => requestByPlayer_sameComputed m i u) is s

theorem stopAll_sameComputed (s : State) : SameComputed s (stopAll s) :=
  .foldl (fun u i => .ite (fun _ => .refl u) fun _ => requestMode_sameComputed .stop i u) _ s

theorem holdAll_sameComputed (s : State) : SameComputed s (holdAll s) :=
  .foldl (fun u i => .ite (fun _ => .refl u) fun _ => requestByPlayer_sameComputed .hold i u) _ s

theorem setBrakes_sameComputed (s : State) : SameComputed s (setBrakes s) := by
  refine .foldl (fun u i => ?_) _ s
  have line (j : Nat) (hj : j < 4) := modLine_line i (fun l => { l with released := false }) u hj
  refine ⟨fun j _ => by simpa using .refl _, rfl, fun j hj => ?_, fun j hj => ?_⟩
  all_goals
    rw [line j hj]
    split <;> rfl

/-! ### The claims of a computation (R70, R91, R164) -/

theorem enterStopping_sameComputed (s : State) : SameComputed s (enterStopping s) := by
  unfold enterStopping
  exact (SameComputed.of_same (by simp)).trans (stopAll_sameComputed _)

theorem stopIfMoving_sameComputed (s : State) : SameComputed s (stopIfMoving s) :=
  .when fun _ => enterStopping_sameComputed s

theorem refuseClaim_sameComputed (s : State) : SameComputed s (refuseClaim s) := by
  have refused : SameComputed s (raise .claimOverflow { s with ss := { s.ss with overflow := true, overflowQuiet := 0 } }) :=
    .of_same ⟨rfl, rfl⟩
  exact refused.trans (stopIfMoving_sameComputed _)

section
variable {c : Cause} (ne : c ≠ .estop)
include ne

theorem raiseOwn_sameComputed (d : Nat) (s : State) : SameComputed s (raiseOwn c d s) := by
  have after (u : State) : SameComputed u (afterOwnClaim c u) := by
    rw [afterOwnClaim_of_ne ne]
    exact stopIfMoving_sameComputed u
  have added (u : State) : SameComputed u (addOwn c d u) := .of_same (by simp)
  unfold raiseOwn
  refine .ite (fun _ => .refl s) fun _ => ?_
  split
  next => exact .ite (fun _ => .refl s) fun _ => .of_same (by simp)
  next =>
    refine .ite (fun _ => (added s).trans (after _)) fun _ => .when fun _ => ?_
    have trimmed : SameComputed s { s with ss.claims := removeLastRemote s.cfg.station s.ss.claims } := .of_same ⟨rfl, rfl⟩
    exact trimmed.trans ((added _).trans ((refuseClaim_sameComputed _).trans (after _)))

theorem raiseFiltered_sameComputed (d : Nat) (s : State) : SameComputed s (raiseFiltered c d s) := by
  unfold raiseFiltered
  split
  next => exact .when fun _ => raiseOwn_sameComputed ne d s
  next => exact raiseOwn_sameComputed ne d s

end

theorem raiseDeviation_sameComputed (s : State) : SameComputed s (raiseDeviation s) := by
  unfold raiseDeviation
  split
  next => exact raiseOwn_sameComputed (by decide) _ s
  next => exact .refl s

theorem raiseLimits_sameComputed (s : State) : SameComputed s (raiseLimits s) :=
  .foldl (fun u i => by
    have low : SameComputed u (if (u.dlu.lines.get i).low.active ∧ (u.chans.get i).v < 0 then
        raiseFiltered .limit (2 * i) u else u) := .when fun _ => raiseFiltered_sameComputed (by decide) _ u
    exact low.trans (.when fun _ => raiseFiltered_sameComputed (by decide) _ _)) _ s

theorem underrunOf_sameComputed (short : Option Take) (s : State) : SameComputed s (underrunOf short s) := by
  unfold underrunOf
  split
  next => exact raiseOwn_sameComputed (by decide) _ s
  next => exact .refl s

/-! ### The records written, and the tests after a computation -/

theorem recordingWrite_sameComputed (s : State) : SameComputed s (recordingWrite s) := .of_same (by simp)

theorem punchWrite_sameComputed (s : State) : SameComputed s (punchWrite s) := .of_same (by simp)

theorem passageToIdle_sameComputed (st : Status) (s : State) : SameComputed s (passageToIdle st s) :=
  (holdAll_sameComputed s).trans (.of_same (by rw [passageToIdle_chans]; simp))

theorem cueTest_sameComputed (s : State) : SameComputed s (cueTest s) := by
  unfold cueTest
  split
  next =>
    refine .ite (fun _ => passageToIdle_sameComputed _ s) fun _ => .when fun _ => ?_
    have cued : SameComputed s { s with tpr.activity := .cued } := .of_same ⟨rfl, rfl⟩
    have held := requestEach_sameComputed .hold (chanList s.tpr.cueSet) { s with tpr.activity := .cued }
    exact cued.trans (held.trans (.of_same (by simp)))
  next => exact .refl s

theorem endOfTake_sameComputed (s : State) : SameComputed s (endOfTake s) := by
  unfold endOfTake
  split
  next =>
    dsimp only
    split
    next => exact .when fun _ => passageToIdle_sameComputed _ s
    next => exact .when fun _ => passageToIdle_sameComputed _ s
    next => exact .refl s
  next => exact .refl s

theorem endOfLive_sameComputed (s : State) : SameComputed s (endOfLive s) := .when fun _ => .of_same (by simp)

theorem playerTests_sameComputed (s : State) : SameComputed s (playerTests s) :=
  (cueTest_sameComputed s).trans ((endOfTake_sameComputed _).trans (endOfLive_sameComputed _))

theorem stoppingTest_sameComputed (s : State) : SameComputed s (stoppingTest s) := by
  refine .when fun _ => ?_
  have secured : SameComputed s { s with
    ss.safety := .securing
    ss.timer := some { phase := .set, frames := s.cfg.brakeSet } } := .of_same ⟨rfl, rfl⟩
  exact secured.trans (setBrakes_sameComputed _)

theorem noteReports_sameComputed (s : State) : SameComputed s (noteReports s) := by
  refine .foldl (fun u i => .of_chans (by simp) fun j hj => ?_) _ s
  rw [modChan_chans, quad_get_set_of_lt _ _ _ hj]
  split
  case isTrue same =>
    rw [same]
    exact ⟨rfl, rfl, rfl, rfl, rfl, rfl, rfl, rfl, rfl⟩
  case isFalse => exact .refl _

/-! ### The computation of a tick -/

/-- The forming of the cursor reaches no output. -/
theorem formCursor_outputs (j : Nat) (s : State) : (formCursor j s).ss = s.ss ∧ (formCursor j s).dlu = s.dlu := by
  unfold formCursor
  split
  next =>
    dsimp only
    split
    all_goals simp
  next => exact ⟨rfl, rfl⟩

/-- The node with its channels computed and its drive records sent (R52, R59, R73). -/
def computedSent (j : Nat) (u : State) : State := sendRecords (handHistory (computeChannels j (formCursor j u)))

/-- What follows the sending of the drive records, but for the test of R110. -/
def computedTested (j : Nat) (u w : State) : State :=
  playerTests (underrunOf ((formCursor j u).underrunTake j)
    (raiseLimits (raiseDeviation (punchWrite (if j = 0 then recordingWrite w else w)))))

theorem computedTested_sameComputed (j : Nat) (u w : State) : SameComputed w (computedTested j u w) :=
  (SameComputed.when (p := j = 0) fun _ => recordingWrite_sameComputed w).trans ((punchWrite_sameComputed _).trans
    ((raiseDeviation_sameComputed _).trans ((raiseLimits_sameComputed _).trans ((underrunOf_sameComputed _ _).trans
      (playerTests_sameComputed _)))))

theorem computeTick_of_working (j : Nat) {u : State} (loading : u.ss.safety ≠ .loading) (faulted : u.ss.safety ≠ .faulted) :
    computeTick j u = if u.ss.safety = .stopping then stoppingTest (computedTested j u (computedSent j u))
      else computedTested j u (computedSent j u) := by
  have safety : (formCursor j u).ss = u.ss := (formCursor_outputs j u).1
  unfold computeTick
  split
  next h => exact absurd h loading
  next h => exact absurd h faulted
  next =>
    dsimp only
    rw [safety]
    by_cases stopping : u.ss.safety = .stopping
    · rw [if_pos stopping, stopping]
      rfl
    · rw [if_neg stopping, if_neg (by simpa using stopping)]
      rfl

theorem computeTick_sameComputed (j : Nat) {u : State} (loading : u.ss.safety ≠ .loading) (faulted : u.ss.safety ≠ .faulted) :
    SameComputed (computedSent j u) (computeTick j u) := by
  rw [computeTick_of_working j loading faulted]
  exact .ite (fun _ => (computedTested_sameComputed j u _).trans (stoppingTest_sameComputed _))
    fun _ => computedTested_sameComputed j u _

section sent

variable (j : Nat) {u : State} (few : u.cfg.nChans ≤ 4)
include few

theorem computedSent_chan {i : Nat} (hi : i < u.cfg.nChans) : (computedSent j u).chans.get i = computedChan j i u := by
  have chans : (computedSent j u).chans = (computeChannels j (formCursor j u)).chans := by
    simp [computedSent]
  rw [chans, computeChannels_chan j _ (by omega), if_pos (by simpa [State.channels] using hi)]
  rfl

theorem computedSent_port : (computedSent j u).dlu.port = (List.range u.cfg.nChans).flatMap (computedRecords j u) := by
  obtain ⟨-, dlu⟩ := formCursor_outputs j u
  have records (i : Nat) (hi : i < u.cfg.nChans) :
      (handHistory (computeChannels j (formCursor j u))).driveRecords i = computedRecords j u i := by
    have lines : (handHistory (computeChannels j (formCursor j u))).dlu = u.dlu := by simp [dlu]
    have chan : (handHistory (computeChannels j (formCursor j u))).chans.get i = computedChan j i u := by
      rw [← computedSent_chan j few hi]
      simp [computedSent]
    simp only [State.driveRecords, computedRecords, lines, chan]
  have channels : (handHistory (computeChannels j (formCursor j u))).channels = List.range u.cfg.nChans := by
    simp [State.channels]
  change (handHistory (computeChannels j (formCursor j u))).channels.flatMap _ = _
  rw [channels]
  exact List.flatMap_congr fun i hi => records i (List.mem_range.mp hi)

omit few in
theorem computedSent_line {i : Nat} : ((computedSent j u).dlu.lines.get i).offDue = false ∧
    ((computedSent j u).dlu.lines.get i).enable = (u.dlu.lines.get i).enable := by
  obtain ⟨-, dlu⟩ := formCursor_outputs j u
  simp [computedSent, sendRecords, dlu]

end sent

end Sys2Proof.Machine
end

section
/-! The order of the pieces of a tick, the computation among them, and the servo tick (O8). -/

namespace Sys2Proof.Machine

open Sys2Proof

/-! ### The order of the pieces (log entry 2) -/

/-- The pieces of a tick's work that an order names, each once, after those named before. -/
def askedFrom (work acc order : List TickWork) : List TickWork :=
  order.foldl (fun acc w => if work.contains w && !acc.contains w then acc ++ [w] else acc) acc

theorem workOrder_eq (order work : List TickWork) : workOrder order work =
    askedFrom work [] order ++ work.filter fun w => !(askedFrom work [] order).contains w := rfl

theorem askedFrom_sound {work : List TickWork} (order : List TickWork) {acc : List TickWork} (each : acc.Nodup)
    (inside : ∀ w ∈ acc, w ∈ work) : (askedFrom work acc order).Nodup ∧ ∀ w ∈ askedFrom work acc order, w ∈ work := by
  induction order generalizing acc with
  | nil => exact ⟨each, inside⟩
  | cons w order ih =>
    unfold askedFrom
    rw [List.foldl_cons]
    split
    case isTrue asks =>
      obtain ⟨known, fresh⟩ : w ∈ work ∧ w ∉ acc := by simpa using asks
      refine ih ?_ fun v listed => ?_
      · exact List.nodup_append.mpr ⟨each, by simp, fun v hv x hx => by
          rw [List.mem_singleton.mp hx]
          rintro rfl
          exact fresh hv⟩
      · rcases List.mem_append.mp listed with before | here
        · exact inside v before
        · rwa [List.mem_singleton.mp here]
    case isFalse => exact ih each inside

theorem workOrder_perm (order : List TickWork) {work : List TickWork} (each : work.Nodup) : (workOrder order work).Perm work := by
  obtain ⟨asked, inside⟩ := askedFrom_sound (work := work) order List.nodup_nil (by simp)
  rw [workOrder_eq]
  refine (List.perm_ext_iff_of_nodup ?_ each).mpr fun w => ?_
  · refine List.nodup_append.mpr ⟨asked, each.filter _, fun v hv x hx => ?_⟩
    rintro rfl
    have left := (List.mem_filter.mp hx).2
    simp [hv] at left
  · rw [List.mem_append, List.mem_filter]
    constructor
    · rintro (named | ⟨listed, -⟩)
      · exact inside w named
      · exact listed
    · intro listed
      by_cases named : w ∈ askedFrom work [] order
      · exact .inl named
      · exact .inr ⟨listed, by simpa using named⟩

theorem askedFrom_all {work : List TickWork} (order : List TickWork) {acc : List TickWork} (each : (acc ++ order).Nodup)
    (inside : ∀ w ∈ order, w ∈ work) : askedFrom work acc order = acc ++ order := by
  induction order generalizing acc with
  | nil => simp [askedFrom]
  | cons w order ih =>
    have fresh : w ∉ acc := fun there => (List.nodup_append.mp each).2.2 w there w List.mem_cons_self rfl
    have known : w ∈ work := inside w List.mem_cons_self
    unfold askedFrom
    rw [List.foldl_cons, if_pos (by simp [fresh, known])]
    refine (ih (by simpa using each) fun v hv => inside v (List.mem_cons_of_mem _ hv)).trans (by simp)

theorem workOrder_of_perm {order work : List TickWork} (each : work.Nodup) (perm : order.Perm work) :
    workOrder order work = order := by
  have asked : askedFrom work [] order = order :=
    askedFrom_all (acc := []) order (by simpa using perm.nodup_iff.mpr each) fun w hw => perm.mem_iff.mp hw
  rw [workOrder_eq, asked, List.filter_eq_nil_iff.mpr fun w hw => by simpa using perm.mem_iff.mpr hw, List.append_nil]

theorem frameWorkOf_of_absent {order : List TickWork} (absent : .report ∉ order) : frameWorkOf order = frameWork :=
  if_neg (by simpa using absent)

theorem frameWorkOf_of_named {order : List TickWork} (named : .report ∈ order) : frameWorkOf order = .report :: frameWork :=
  if_pos (by simpa using named)

theorem frameWorkOf_nodup (order : List TickWork) : (frameWorkOf order).Nodup := by
  unfold frameWorkOf
  split <;> decide

theorem mem_frameWork (w : TickWork) : w ∈ frameWork ↔ w ≠ .report := by
  cases w <;> decide

theorem mem_servoWork (w : TickWork) : w ∈ servoWork ↔ w.frameOnly = false := by
  cases w <;> decide

theorem report_absent_of_servoWork (order : List TickWork) : .report ∉ workOrder order servoWork := fun listed => by
  have := (workOrder_perm order (by decide)).mem_iff.mp listed
  exact absurd this (by decide)

/-! ### What a piece reads of the moment before the tick -/

/-- Two moments before a tick differ for the STATE alone. -/
def SameStart (b c : TickStart) : Prop := b.active = c.active ∧ b.phase = c.phase

theorem tickWork_start {b c : TickStart} (same : SameStart b c) (l : LineLevels) (j : Nat) {w : TickWork} (ne : w ≠ .report)
    (s : State) : tickWork b l j w s = tickWork c l j w s := by
  obtain ⟨active, phase⟩ := same
  cases w with
  | report => exact absurd rfl ne
  | cross =>
    change inOpen (raiseCross b.active) s = inOpen (raiseCross c.active) s
    rw [active]
  | brake =>
    change inOpen (brakeIfBegun b) s = inOpen (brakeIfBegun c) s
    unfold inOpen brakeIfBegun
    rw [phase]
  | peers => rfl
  | conflict => rfl
  | start => rfl
  | poll => rfl
  | faults => rfl
  | limits => rfl
  | zones => rfl
  | underrun => rfl
  | compute => rfl

theorem worked_start {b c : TickStart} (same : SameStart b c) (l : LineLevels) (j : Nat) {ws : List TickWork}
    (absent : .report ∉ ws) (s : State) : worked b l j ws s = worked c l j ws s := by
  induction ws generalizing s with
  | nil => rfl
  | cons w ws ih =>
    have here : w ≠ .report := fun is => absent (is ▸ List.mem_cons_self)
    change worked b l j ws (tickWork b l j w s) = worked c l j ws (tickWork c l j w s)
    rw [tickWork_start same l j here, ih fun later => absent (List.mem_cons_of_mem _ later)]

theorem worked_append (b : TickStart) (l : LineLevels) (j : Nat) (ws vs : List TickWork) (s : State) :
    worked b l j (ws ++ vs) s = worked b l j vs (worked b l j ws s) := List.foldl_append

/-! ### The computation among the pieces -/

/-- The node works: neither LOADING nor FAULTED. -/
def Working (s : State) : Prop := s.ss.safety ≠ .loading ∧ s.ss.safety ≠ .faulted

theorem working_iff (s : State) : Working s ↔ s.ss.safety.isOpen = true ∨ s.ss.safety = .parked := by
  unfold Working
  cases s.ss.safety
  all_goals simp [Safety.isOpen]

theorem Working.works {s t : State} (working : Working s) (works : Works False s t) : Working t := by
  rcases (working_iff s).mp working with open_ | parked
  · exact (working_iff t).mpr (.inl (works.isOpen open_))
  · exact (working_iff t).mpr (.inr (by rw [(works.parked parked).1, parked]))

theorem computed_of_same {j : Nat} {u t : State} (few : u.cfg.nChans ≤ 4) (same : SameComputed (computedSent j u) t) :
    (∀ i < u.cfg.nChans, Computed j u t i) ∧ t.dlu.port = (List.range u.cfg.nChans).flatMap (computedRecords j u) ∧
      ∀ i < 4, (t.dlu.lines.get i).offDue = false ∧ (t.dlu.lines.get i).enable = (u.dlu.lines.get i).enable := by
  refine ⟨fun i hi => ?_, same.port.trans (computedSent_port j few), fun i hi => ?_⟩
  · have values := same.chans i (by omega)
    rw [computedSent_chan j few hi] at values
    exact values
  · obtain ⟨off, on⟩ := computedSent_line j (u := u) (i := i)
    exact ⟨(same.offDue i hi).trans off, (same.enable i hi).trans on⟩

theorem compute_computed (j : Nat) {u : State} (working : Working u) (few : u.cfg.nChans ≤ 4) :
    (∀ i < u.cfg.nChans, Computed j u (computeTick j u) i) ∧
      (computeTick j u).dlu.port = (List.range u.cfg.nChans).flatMap (computedRecords j u) ∧
      ∀ i < 4, ((computeTick j u).dlu.lines.get i).offDue = false ∧
        ((computeTick j u).dlu.lines.get i).enable = (u.dlu.lines.get i).enable :=
  computed_of_same few (computeTick_sameComputed j working.1 working.2)

/-- Where the computation is the last piece, its values and its records stand after the tick. -/
theorem compute_last {b : TickStart} {l : LineLevels} {j : Nat} {ws vs : List TickWork} {v u t : State} (working : Working v)
    (few : v.cfg.nChans ≤ 4) (last : vs = ws ++ [.compute]) (ended : t = noteReports (worked b l j vs v))
    (before : u = worked b l j ws v) : (∀ i < v.cfg.nChans, Computed j u t i) ∧
      t.dlu.port = (List.range v.cfg.nChans).flatMap (computedRecords j u) := by
  have cfg : u.cfg = v.cfg := by rw [before, (worked_frame b l j ws v).2.2.2.2.1]
  have works : Working u := by
    rw [before]
    exact working.works (worked_works b l j ws False.elim v)
  have after : t = noteReports (computeTick j u) := by
    rw [ended, last, worked_append, ← before]
    rfl
  have same := (computeTick_sameComputed j works.1 works.2).trans (noteReports_sameComputed _)
  rw [← after] at same
  obtain ⟨values, port, -⟩ := computed_of_same (by rwa [cfg]) same
  rw [cfg] at values port
  exact ⟨values, port⟩

/-! ### The servo tick (R26) -/

section servo

variable {l : LineLevels} {order : List TickWork} {s : State}

/-- The node at a servo tick, before its work. -/
def servoBegun (s : State) : State :=
  { watchCycles (s.ft.cyclesToTick s.cfg.timing.n s.cfg.timing.s (s.ft.tick + 1)) s with
    ft := { (watchCycles (s.ft.cyclesToTick s.cfg.timing.n s.cfg.timing.s (s.ft.tick + 1)) s).ft with
      acc := s.ft.acc + 8 * s.ft.cyclesToTick s.cfg.timing.n s.cfg.timing.s (s.ft.tick + 1)
      tick := s.ft.tick + 1
      guard := s.ft.tick + 1 + 1 == s.cfg.timing.s } }

theorem exec_servoTick (running : s.ft.running = true) (later : s.ft.frame0 = false) (left : s.ft.tick + 1 < s.cfg.timing.s) :
    exec (.servoTick l order) s = .next
      (doWork (servoBegun s).tickStart l (s.ft.tick + 1) (workOrder order servoWork) (servoBegun s)) := by
  change execServoTick l order s = _
  unfold execServoTick
  refine congrArg Host.Outcome.next (if_pos ?_)
  simp [running, later, left]

theorem servoBegun_frame (s : State) : OnlyChanges [.ft, .attention] s (servoBegun s) ∧
    ((servoBegun s).attention = s.attention ∨ (servoBegun s).attention = s.attention ||| 2#16) := by
  obtain ⟨-, -, lost, kept⟩ := watchCycles_watched (s.ft.cyclesToTick s.cfg.timing.n s.cfg.timing.s (s.ft.tick + 1)) s
  refine ⟨by simp [onlyChanges_iff, servoBegun], ?_⟩
  by_cases loses : s.cfg.timing.refUse = true ∧ 2 * s.ft.watch < 3 * s.cfg.timing.n ∧
    3 * s.cfg.timing.n ≤ 2 * (s.ft.watch + 8 * s.ft.cyclesToTick s.cfg.timing.n s.cfg.timing.s (s.ft.tick + 1))
  · exact .inr (lost loses).2
  · exact .inl (kept loses).2

theorem servoBegun_ft (s : State) : (servoBegun s).ft.tick = s.ft.tick + 1 ∧ (servoBegun s).ft.frame = s.ft.frame ∧
    (servoBegun s).ft.running = s.ft.running ∧
    (servoBegun s).ft.acc = s.ft.acc + 8 * s.ft.cyclesToTick s.cfg.timing.n s.cfg.timing.s (s.ft.tick + 1) ∧
    (servoBegun s).ft.guard = (s.ft.tick + 1 + 1 == s.cfg.timing.s) := by
  obtain ⟨-, ft, -⟩ := watchCycles_watched (s.ft.cyclesToTick s.cfg.timing.n s.cfg.timing.s (s.ft.tick + 1)) s
  unfold servoBegun
  rw [ft]
  exact ⟨rfl, rfl, rfl, rfl, rfl⟩

theorem servoBegun_start (s : State) : SameStart (servoBegun s).tickStart s.tickStart := by
  have same : (servoBegun s).iu = s.iu ∧ (servoBegun s).ss = s.ss := by simp [servoBegun]
  exact ⟨congrArg Iu.active same.1, congrArg (fun ss : Ss => ss.timer.map BrakeTimer.phase) same.2⟩

end servo

/-- Where the accumulator stands at a servo tick. -/
theorem cyclesToTick_spec (n s j : Nat) (f : Ft) (pos : 0 < s) :
    j * n ≤ s * (f.acc + 8 * f.cyclesToTick n s j) ∧ ∀ k < f.cyclesToTick n s j, s * (f.acc + 8 * k) < j * n := by
  have expand (k : Nat) : s * (f.acc + 8 * k) = s * f.acc + 8 * s * k := by ring
  unfold Ft.cyclesToTick
  refine ⟨?_, fun k less => ?_⟩
  · have := le_mul_ceilDiv (a := j * n - s * f.acc) (b := 8 * s) (by omega)
    rw [expand]
    omega
  · have := mul_lt_of_lt_ceilDiv (by omega) less
    rw [expand]
    omega

end Sys2Proof.Machine
end

section
/-! The servo tick: the statement of R26, R42, R52, R59, R73, R88 and R164 as a whole (O8). -/

namespace Sys2Proof.Machine

open Sys2Proof

theorem composeState_of_open (before : State) {s : State} (open_ : s.ss.safety.isOpen = true) :
    composeState before s = placeState (before.report before.shownReports) s := by
  unfold composeState
  cases safety : s.ss.safety with
  | disarmed | arming | armed | stopping | securing => rfl
  | loading | faulted | parked => simp [safety, Safety.isOpen] at open_

section servo

variable {l : LineLevels} {order : List TickWork} {s : State}

theorem servoTick_worked (working : Working s) :
    doWork (servoBegun s).tickStart l (s.ft.tick + 1) (workOrder order servoWork) (servoBegun s) =
      noteReports (worked s.tickStart l (s.ft.tick + 1) (workOrder order servoWork) (withLevels l (servoBegun s))) := by
  have same : (servoBegun s).ss = s.ss := by simp [servoBegun]
  obtain ⟨loading, faulted⟩ := working
  rw [doWork_of_working _ _ _ _ (by rwa [same]) (by rwa [same]),
    worked_start (servoBegun_start s) _ _ (report_absent_of_servoWork order)]

theorem servoTick_begins : ∃ t, doWork (servoBegun s).tickStart l (s.ft.tick + 1) (workOrder order servoWork) (servoBegun s) = t ∧
    t.ft = (servoBegun s).ft ∧
    OnlyChanges [.lif, .ft, .chans, .spl, .dlu, .ss, .pu, .zu, .ts, .store, .tpr, .attention, .pins] s t := by
  refine ⟨_, rfl, by simp, ?_⟩
  simp [onlyChanges_iff, servoBegun]

end servo

/-- Settles O8: the cycles before the tick, its order, its computation with what follows it, and its pieces. -/
theorem servoTickSetsIndexAndGuard : Obligations.ServoTickSetsIndexAndGuard := by
  refine ⟨fun l order s running later left => ?begins, fun order => ?order, fun l order s running later left loading faulted => ?work,
    fun j i u => rfl, fun b l j u loading faulted few => compute_computed j ⟨loading, faulted⟩ few,
    fun b l j u loading faulted => ⟨_, rfl, _, rfl, fun stopping => ?stopping, fun moving => ?moving⟩, fun s => rfl,
    fun b l j u open_ => ?pieces⟩
  case begins =>
    obtain ⟨t, ends, ft, only⟩ := servoTick_begins (l := l) (order := order) (s := s)
    obtain ⟨tick, frame, runs, acc, guard⟩ := servoBegun_ft s
    obtain ⟨reached, least⟩ := cyclesToTick_spec s.cfg.timing.n s.cfg.timing.s (s.ft.tick + 1) s.ft (by omega)
    refine ⟨t, _, (exec_servoTick running later left).trans (congrArg Host.Outcome.next ends), by rw [ft, tick],
      by rw [ft, frame], ?_, by rw [ft, runs, running], by rw [ft, acc], ?_, least, only⟩
    · rw [ft, guard]
      rfl
    · rw [ft, acc]
      exact reached
  case order =>
    exact ⟨workOrder_perm order (by decide), workOrder_perm order (frameWorkOf_nodup order), workOrder_of_perm (by decide),
      workOrder_of_perm (frameWorkOf_nodup order), frameWorkOf_of_absent, frameWorkOf_of_named, mem_frameWork, mem_servoWork⟩
  case work =>
    obtain ⟨only, attention⟩ := servoBegun_frame s
    have same : (servoBegun s).ss = s.ss ∧ (servoBegun s).cfg = s.cfg ∧ (servoBegun s).pins = s.pins := by simp [servoBegun]
    obtain ⟨ss, cfg, pins⟩ := same
    refine ⟨withLevels l (servoBegun s), _, exec_servoTick running later left, by rw [← pins]; rfl, attention,
      (servoBegun_ft s).1, ?_, servoTick_worked ⟨loading, faulted⟩, fun none_ few u before => ?_⟩
    · have levels : OnlyChanges [.pins] (servoBegun s) (withLevels l (servoBegun s)) := by simp [onlyChanges_iff]
      exact (only.mono (by simp)).trans (levels.mono (by simp))
    · have working : Working (withLevels l (servoBegun s)) := by
        unfold Working
        simpa [ss] using ⟨loading, faulted⟩
      have few' : (withLevels l (servoBegun s)).cfg.nChans ≤ 4 := by simpa [cfg] using few
      have computed := compute_last (vs := workOrder order servoWork) working few' (by rw [none_]; rfl)
        (servoTick_worked (l := l) (order := order) ⟨loading, faulted⟩) before
      simpa [cfg] using computed
  case stopping =>
    exact (computeTick_of_working j loading faulted).trans (if_pos stopping)
  case moving =>
    exact (computeTick_of_working j loading faulted).trans (if_neg moving)
  case pieces =>
    exact ⟨if_pos open_, if_pos open_, if_pos open_, if_pos open_, rfl, rfl, rfl, if_pos open_, if_pos open_,
      fun p => (if_pos open_).trans (composeState_of_open p open_).symm⟩

end Sys2Proof.Machine
end

section
/-! The frame tick of the generator and of an accepted edge (O6, O7). -/

namespace Sys2Proof.Machine

open Sys2Proof

/-! ### The work of a frame tick in the open states -/

section tick

variable {before s : State} {l : LineLevels} {order : List TickWork}

theorem frameReady_frame : (frameReady before l order s).pins = { s.pins with lines := l } ∧
    (frameReady before l order s).ft = (frameBegun before order s).ft ∧ (frameReady before l order s).cfg = s.cfg := by
  obtain ⟨-, -, -, -, -, -, -, -, -, -, -, cfg, pins, -⟩ := frameBegun_frame before order s
  simp [frameReady, cfg, pins]

theorem frameReady_eq : frameReady before l order s =
    { zoneFrameTick (formRanges (paceTick (s.ft.frame + 1) (advanceBase (aligned (frameBegun before order s))))) with
      pins := (frameReady before l order s).pins } := by
  have frame : (frameBegun before order s).ft.frame = s.ft.frame + 1 := by rw [frameBegun_ft]
  rw [← frame]
  rfl

theorem advanceBase_tpr (s : State) : (advanceBase s).tpr = { s.tpr with base := (advanceBase s).tpr.base } := by
  unfold advanceBase
  split
  all_goals rfl

/-- The pace, the ranges and the zones at a frame tick of frame `g`, after the live control. -/
def blocksTurned (g : FrameNo) (w : State) : State := zoneFrameTick (formRanges (paceTick g (advanceBase w)))

theorem blocksTurned_of_none {g : FrameNo} {w : State} (zone : w.zoneCondition = none) (estop : w.estopCondition = none) :
    (blocksTurned g w).chans = w.chans ∧ (blocksTurned g w).tpr = { w.tpr with base := (blocksTurned g w).tpr.base } := by
  have zone' : (formRanges (paceTick g (advanceBase w))).zoneCondition = none :=
    (zoneCondition_congr (by simp) (by simp)).trans zone
  have estop' : (formRanges (paceTick g (advanceBase w))).estopCondition = none :=
    (estopCondition_congr (by simp)).trans estop
  obtain ⟨chans, tpr⟩ := zoneFrameTick_of_none zone' estop'
  have based : (formRanges (paceTick g (advanceBase w))).tpr = (advanceBase w).tpr := by simp
  have player : (blocksTurned g w).tpr = (advanceBase w).tpr := tpr.trans based
  refine ⟨chans.trans (by simp), ?_⟩
  rw [player]
  exact advanceBase_tpr w

/-- Without a zone or E-stop condition the frame tick leaves the channels and the Take Player as its live control left them. -/
theorem frameReady_of_none (none_ : s.tpr.abortPend = none) (zone : s.zoneCondition = none) (estop : s.estopCondition = none) :
    (frameReady before l order s).chans = (aligned (frameBegun before order s)).chans ∧
    (frameReady before l order s).tpr = { (aligned (frameBegun before order s)).tpr with
      base := (frameReady before l order s).tpr.base } := by
  obtain ⟨-, -, -, -, -, -, -, zu, -, tpr, -, cfg, -, -⟩ := frameBegun_frame before order s
  obtain ⟨zone', estop'⟩ := aligned_conditions (u := frameBegun before order s) (by rw [tpr, none_])
  have ready : frameReady before l order s =
      withLevels l (blocksTurned (frameBegun before order s).ft.frame (aligned (frameBegun before order s))) :=
    congrArg (withLevels l) (alignFrame_eq _)
  rw [ready]
  simp only [withLevels_frame]
  exact blocksTurned_of_none (zone'.trans ((zoneCondition_congr (by rw [zu]) cfg).trans zone))
    (estop'.trans ((estopCondition_congr (by rw [zu])).trans estop))

variable (open_ : s.ss.safety.isOpen = true) (noPark : s.ru.parkPending = false) (noRestart : s.cl.restartPending = false)
include open_ noPark noRestart

theorem frameTick_worked : FrameWorked l order before s (frameTick before l order s) := by
  obtain ⟨pins, ft, cfg⟩ := frameReady_frame (before := before) (s := s) (l := l) (order := order)
  obtain ⟨-, chans, -, dlu, ss, -, -, -, -, tpr, -, cfg', -⟩ := frameBegun_frame before order s
  have frame : (frameBegun before order s).ft.frame = s.ft.frame + 1 := by rw [frameBegun_ft]
  refine ⟨frameReady before l order s, pins, frameTick_of_open open_ noPark noRestart, by rw [ft, frame],
    by rw [ft, frameBegun_ft], by rw [ft, frameBegun_ft], cfg, fun none_ few => ?aligned, fun empty few u before_ => ?computed⟩
  case aligned =>
    obtain ⟨markPrev, markCur, markPend, live⟩ := aligned_turned (s := s) (u := frameBegun before order s) (by rw [tpr, none_])
      (by rw [frame]; simp) tpr chans ss dlu cfg'
    exact ⟨aligned (frameBegun before order s), frameReady_eq, markPrev, markCur, markPend, live few,
      frameReady_of_none none_⟩
  case computed =>
    have working : Working (frameReady before l order s) := (working_iff _).mpr (.inl (frameReady_isOpen open_))
    have computed := compute_last (vs := workOrder order (frameWorkOf order)) working (by rwa [cfg]) (by rw [empty]; rfl)
      (frameTick_of_open open_ noPark noRestart) before_
    rwa [cfg] at computed

end tick

/-! ### The moment before the tick -/

/-- The node with its accumulator, its watch of the reference and its attention set at other values. -/
def retimed (acc watch : Nat) (present : Bool) (attention : BitVec 16) (s : State) : State :=
  { s with
    ft := { s.ft with acc := acc, watch := watch, refPresent := present }
    attention := attention }

theorem FrameWorked.of_retimed {acc watch : Nat} {present : Bool} {attention : BitVec 16} {l : LineLevels}
    {order : List TickWork} {p s t : State} (works : FrameWorked l order p (retimed acc watch present attention s) t) :
    FrameWorked l order p s t := works

theorem FrameTurned.of_retimed {acc watch : Nat} {present : Bool} {attention : BitVec 16} {s t : State}
    (turned : FrameTurned (retimed acc watch present attention s) t) : FrameTurned s t := turned

theorem retimed_only (acc watch : Nat) (present : Bool) (attention : BitVec 16) (s : State) :
    OnlyChanges [.ft, .attention] s (retimed acc watch present attention s) := by
  simp [onlyChanges_iff, retimed]

theorem retimed_of_watched {k : Nat} {s p : State} (watched : Watched k s p) (acc : Nat) :
    { p with ft.acc := acc } = retimed acc p.ft.watch p.ft.refPresent p.attention s := by
  obtain ⟨only, ft, -⟩ := watched
  obtain ⟨lif, ru, chans, spl, dlu, ss, pu, iu, zu, ts, -, tpr, cl, cfg, pins, pending⟩ : p.lif = s.lif ∧ p.ru = s.ru ∧
      p.chans = s.chans ∧ p.spl = s.spl ∧ p.dlu = s.dlu ∧ p.ss = s.ss ∧ p.pu = s.pu ∧ p.iu = s.iu ∧ p.zu = s.zu ∧
      p.ts = s.ts ∧ p.ts.store = s.ts.store ∧ p.tpr = s.tpr ∧ p.cl = s.cl ∧ p.cfg = s.cfg ∧ p.pins = s.pins ∧
      p.pending = s.pending := by
    simpa [onlyChanges_iff] using only
  unfold retimed
  rw [lif, ru, chans, spl, dlu, ss, pu, iu, zu, ts, tpr, cl, cfg, pins, pending, ft]

/-! ### The commands -/

section flywheel

variable {l : LineLevels} {order : List TickWork} {s : State}

/-- The node at the end of a frame that the generator ends (R22). -/
def flywheelEnd (s : State) : State := watchCycles (s.ft.cyclesToFrame s.cfg.timing.n) s

/-- The node at the generator's tick, before its work. -/
def flywheelBegun (s : State) : State :=
  retimed (s.ft.acc + 8 * s.ft.cyclesToFrame s.cfg.timing.n - s.cfg.timing.n) (flywheelEnd s).ft.watch
    (flywheelEnd s).ft.refPresent (flywheelEnd s).attention s

theorem exec_flywheelTick (running : s.ft.running = true) :
    exec (.flywheelTick l order) s = .next (frameTick (flywheelEnd s) l order (flywheelBegun s)) := by
  change execFlywheelTick l order s = _
  unfold execFlywheelTick
  refine congrArg Host.Outcome.next ((if_pos running).trans ?_)
  exact congrArg (frameTick (flywheelEnd s) l order) (retimed_of_watched (watchCycles_watched _ s) _)

theorem exec_referenceEdge (running : s.ft.running = true) (used : s.cfg.timing.refUse = true)
    (accepted : s.ft.frame0 = true ∨ 1 ≤ s.ft.tick) :
    exec (.referenceEdge l order) s = .next (frameTick s l order (retimed 0 0 true s.attention s)) := by
  change execReferenceEdge l order s = _
  unfold execReferenceEdge
  refine congrArg Host.Outcome.next ((if_pos (by simp [running, used])).trans ((if_pos ?_).trans rfl))
  simpa using accepted

end flywheel

/-- Settles O6: the tick of the generator, and what it brings in the open states. -/
theorem flywheelTickBeginsTheNextFrame : Obligations.FlywheelTickBeginsTheNextFrame := by
  refine ⟨fun l order s running noRestart below => ?begins, fun l order s running open_ noRestart noPark => ?turned,
    fun l order s running open_ noRestart noPark => ?worked⟩
  case begins =>
    obtain ⟨ft, cfg, read, fault, item, spineId⟩ :=
      frameTick_begins (before := flywheelEnd s) (s := flywheelBegun s) (l := l) (order := order) noRestart
    have reached := cyclesToFrame_reaches s.cfg.timing.n s.ft
    have only := (retimed_only (s.ft.acc + 8 * s.ft.cyclesToFrame s.cfg.timing.n - s.cfg.timing.n) (flywheelEnd s).ft.watch
      (flywheelEnd s).ft.refPresent (flywheelEnd s).attention s)
    have ticked := frameTick_only (before := flywheelEnd s) (s := flywheelBegun s) (l := l) (order := order) noRestart
    refine ⟨_, s.ft.cyclesToFrame s.cfg.timing.n, exec_flywheelTick running, by rw [ft]; rfl, by rw [ft], by rw [ft],
      by rw [ft]; exact running, ?_, ?_, ?_, read, fault, item, spineId⟩
    · rw [ft]
      exact Nat.sub_add_cancel reached
    · rw [ft]
      exact cyclesToFrame_remainder _ _ below
    · exact (only.mono (by simp)).trans ticked
  case turned =>
    exact ⟨_, exec_flywheelTick running, FrameTurned.of_retimed (frameTick_turned (s := flywheelBegun s) open_ noPark noRestart)⟩
  case worked =>
    exact ⟨_, flywheelEnd s, _, exec_flywheelTick running, cyclesToFrame_reaches _ _, fun k' less => cyclesToFrame_least _ _ less,
      watchCycles_watched _ s, FrameWorked.of_retimed (frameTick_worked (s := flywheelBegun s) open_ noPark noRestart)⟩

end Sys2Proof.Machine
end

section
/-! The accepted edge and the loss of the reference (O7). -/

namespace Sys2Proof.Machine

open Sys2Proof

/-! ### The conditions of the attention set at a frame tick -/

theorem doWork_works {q : Prop} (b : TickStart) (l : LineLevels) (j : Nat) {ws : List TickWork} (pieces : q → .report ∉ ws)
    (s : State) : Works q s (doWork b l j ws s) := by
  unfold doWork
  split
  next => exact .refl s
  next => exact .refl s
  next =>
    have levels : Works q s (withLevels l s) := .of_same (by simp [Untouched])
    exact levels.trans ((worked_works b l j ws pieces _).trans (noteReports_works _))

theorem countQuiet_raises (s : State) : Raises s (countQuiet s) := by
  intro a present
  unfold countQuiet linkQuietAtEight
  split
  next => exact present
  next => exact present
  next =>
    dsimp only
    split
    next => exact attentionHas_attentionRaise present _
    next => exact present

theorem composeState_raises (before s : State) : Raises s (composeState before s) := by
  intro a present
  unfold composeState
  cases s.ss.safety with
  | disarmed | arming | armed | stopping | securing | faulted => exact attentionHas_place present _
  | loading | parked => exact present

theorem composeFirst_raises (before : State) (order : List TickWork) (s : State) : Raises s (composeFirst before order s) := by
  intro a present
  unfold composeFirst
  split
  next => exact present
  next => exact composeState_raises before s a present

/-- A woken node before its first STATE: the WAKE columns of its blocks (R48). -/
def woken (s : State) : State := { s with
  ss := { s.ss with
    safety := .disarmed, claims := [], overflow := false, overflowQuiet := 0, timer := none, armPending := none,
    disarmPending := none }
  lif := { s.lif with
    urgent := [], ordinary := [], failRun := 0, quiet := 0, dupQuiet := 32, linkRelease := true, parkFilter := false }
  ru := { s.ru with
    roster := s.pinnedRoster, learning := 32, slots := freshSlots, parkPending := false, parkTicks := 0, wake := none }
  pu := { s.pu with
    entries := [], floor := 16, floorPend := [], floorQuiet := 0, ease := false, easePend := [], target := 16 }
  iu := iuAllActive s.cfg
  zu := Zu.reset
  dlu := { s.dlu with lines := s.dlu.lines.map fun l => { l with faultOff := false } } }

theorem wakeNode_eq (s : State) : wakeNode s = broadcast (.state ((woken s).report (woken s).shownReports)) (woken s) := rfl

theorem wakeIfDue_raises (s : State) : Raises s (wakeIfDue s) := by
  intro a present
  unfold wakeIfDue
  split
  next =>
    rw [wakeNode_eq]
    exact attentionHas_place (s := woken s) present _
  next => exact present

theorem alignFrame_raises {s : State} (open_ : s.ss.safety.isOpen = true) : Raises s (alignFrame s) := by
  have first := aligned_works (q := False) open_
  have same : (formRanges (paceTick s.ft.frame (advanceBase (aligned s)))).attention = (aligned s).attention := by simp
  have opened : (formRanges (paceTick s.ft.frame (advanceBase (aligned s)))).ss.safety.isOpen = true := by
    simpa using first.isOpen open_
  rw [alignFrame_eq]
  intro a present
  exact (zoneFrameTick_works (q := False) opened).raised a (by rw [same]; exact first.raised a present)

section tick

variable {before s : State} {l : LineLevels} {order : List TickWork}

theorem frameTick_raises (noRestart : s.cl.restartPending = false) : Raises (beginFrame s) (frameTick before l order s) := by
  obtain ⟨-, -, -, -, -, -, -, -, -, -, cl, -⟩ := frameBegun_frame before order s
  have begun : Raises (beginFrame s) (frameCounted before order s) := by
    intro a present
    have counted : (countDup (countQuiet (composeFirst before order (beginFrame s)))).attention =
        (countQuiet (composeFirst before order (beginFrame s))).attention := by simp
    have same : (frameCounted before order s).attention = (frameBegun before order s).attention := by
      rw [frameCounted_of_no_restart noRestart]
      simp
    rw [same]
    unfold frameBegun
    rw [counted]
    exact countQuiet_raises _ a (composeFirst_raises before order _ a present)
  intro a present
  rcases isOpen_or_closed (frameCounted before order s) with open_ | closed | parked
  · rw [frameTick_of_awake open_]
    exact (doWork_works (q := False) _ _ _ False.elim _).raised a (alignFrame_raises open_ a (begun a present))
  · rw [frameTick_of_closed closed]
    exact begun a present
  · rw [frameTick_of_parked parked]
    exact (doWork_works (q := False) _ _ _ False.elim _).raised a (wakeIfDue_raises _ a (begun a present))

/-- A tick that comes before servo tick S-1 raises TICK-SLIP (R27). -/
theorem frameTick_slips (noRestart : s.cl.restartPending = false) (later : s.ft.frame0 = false)
    (early : s.ft.tick + 1 < s.cfg.timing.s) : attentionHas (frameTick before l order s).attention .tickSlip = true := by
  refine frameTick_raises noRestart .tickSlip ?_
  unfold beginFrame
  rw [if_pos ⟨later, early⟩]
  exact attentionHas_attentionRaise_self _ _

end tick

end Sys2Proof.Machine
end

section
/-! Reference edges and the loss of the reference: the statement of R22 to R27 and R202 as a whole (O7). -/

namespace Sys2Proof.Machine

open Sys2Proof

/-! ### What a frame tick reads of the node at the end of the frame that ends -/

section before

variable {b c s : State} {l : LineLevels} {order : List TickWork}

theorem frameBegun_before (same : ∀ u : State, u.ss = s.ss → composeState b u = composeState c u) :
    frameBegun b order s = frameBegun c order s := by
  have first : composeFirst b order (beginFrame s) = composeFirst c order (beginFrame s) := by
    unfold composeFirst
    rw [same (beginFrame s) (by simp)]
  unfold frameBegun
  rw [first]

/-- Two nodes at the end of a frame that report the same in the five open states. -/
theorem frameTick_before (same : ∀ u : State, u.ss = s.ss → composeState b u = composeState c u)
    (start : b.tickStart = c.tickStart) : frameTick b l order s = frameTick c l order s := by
  have counted : frameCounted b order s = frameCounted c order s := by
    unfold frameCounted
    rw [frameBegun_before same]
  rcases isOpen_or_closed (frameCounted b order s) with open_ | closed | parked
  · rw [frameTick_of_awake open_, frameTick_of_awake (counted ▸ open_), counted, start]
  · rw [frameTick_of_closed closed, frameTick_of_closed (counted ▸ closed), counted]
  · rw [frameTick_of_parked parked, frameTick_of_parked (counted ▸ parked), counted, start]

theorem countPark_not_open (closed : s.ss.safety.isOpen = false) : (countPark s).ss.safety.isOpen = false := by
  unfold countPark parkIfDue
  split
  case isTrue =>
    split
    case isTrue => rfl
    case isFalse => exact closed
  case isFalse => exact closed

theorem countRestart_not_open (closed : s.ss.safety.isOpen = false) : (countRestart s).ss.safety.isOpen = false := by
  unfold countRestart restartIfDue
  split
  case isTrue =>
    split
    case isTrue => rfl
    case isFalse => exact closed
  case isFalse => exact closed

/-- Outside the five open states the tick reads of that moment what its work and a FAULTED node's report need. -/
theorem frameTick_before_of_closed (closed : s.ss.safety.isOpen = false)
    (same : ∀ u : State, u.ss = s.ss → composeState b u = composeState c u) (start : SameStart b.tickStart c.tickStart) :
    frameTick b l order s = frameTick c l order s := by
  obtain ⟨-, -, -, -, ss, -⟩ := frameBegun_frame b order s
  have counted : frameCounted b order s = frameCounted c order s := by
    unfold frameCounted
    rw [frameBegun_before same]
  have stays : (frameCounted b order s).ss.safety.isOpen = false :=
    countRestart_not_open (countPark_not_open (by rw [ss, closed]))
  rcases isOpen_or_closed (frameCounted b order s) with open_ | closed' | parked
  · rw [stays] at open_
    cases open_
  · rw [frameTick_of_closed closed', frameTick_of_closed (counted ▸ closed'), counted]
  · rw [frameTick_of_parked parked, frameTick_of_parked (counted ▸ parked), counted]
    unfold doWork
    split
    next => rfl
    next => rfl
    next =>
      exact congrArg noteReports (worked_start start l 0 (report_absent_of_servoWork order)
        (withLevels l (wakeIfDue (frameCounted c order s))))

end before

/-! ### The edge as a tick of the generator -/

section edge

variable {s : State} {l : LineLevels} {order : List TickWork}

/-- The node whose generator stands at the end of its frame, with the reference present. -/
def atEdge (s : State) : State := { s with ft := { s.ft with acc := s.cfg.timing.n, watch := 0, refPresent := true } }

theorem flywheelEnd_atEdge (s : State) : flywheelEnd (atEdge s) = atEdge s := by
  have none_ : (atEdge s).ft.cyclesToFrame (atEdge s).cfg.timing.n = 0 := by simp [Ft.cyclesToFrame, atEdge, ceilDiv]
  unfold flywheelEnd
  rw [none_]
  unfold watchCycles
  split
  case isTrue watched =>
    have positive : 0 < (atEdge s).cfg.timing.n := by
      have := (Bool.and_eq_true_iff.mp watched).2
      simp [Ft.watching, atEdge] at this
      exact this
    refine (if_neg fun reached => ?_).trans rfl
    have := (cyclesToLoss_le_iff _ _ _).mp reached
    simp [atEdge] at this positive
    omega
  case isFalse => rfl

theorem flywheelBegun_atEdge (s : State) : flywheelBegun (atEdge s) = retimed 0 0 true s.attention s := by
  have none_ : (atEdge s).ft.cyclesToFrame (atEdge s).cfg.timing.n = 0 := by simp [Ft.cyclesToFrame, atEdge, ceilDiv]
  unfold flywheelBegun
  rw [flywheelEnd_atEdge, none_]
  have acc : (atEdge s).ft.acc + 8 * 0 - (atEdge s).cfg.timing.n = 0 := by simp [atEdge]
  rw [acc]
  rfl

theorem atEdge_of_present (present : s.ft.refPresent = true) : (atEdge s).report (atEdge s).shownReports =
    s.report s.shownReports := by
  unfold State.report
  have same : (atEdge s).ft.refPresent = s.ft.refPresent := present.symm
  rw [same]
  rfl

theorem edge_is_tick (running : s.ft.running = true) (used : s.cfg.timing.refUse = true)
    (accepted : s.ft.frame0 = true ∨ 1 ≤ s.ft.tick) (shows : s.ft.refPresent = true ∨ s.ss.safety.isOpen = false) :
    exec (.referenceEdge l order) s = exec (.flywheelTick l order) (atEdge s) := by
  have ticks : exec (.flywheelTick l order) (atEdge s) = _ := exec_flywheelTick (s := atEdge s) running
  rw [exec_referenceEdge running used accepted, ticks, flywheelEnd_atEdge, flywheelBegun_atEdge]
  refine congrArg Host.Outcome.next ?_
  rcases shows with present | closed
  · have report := atEdge_of_present present
    refine frameTick_before (fun u _ => ?_) ?_
    · unfold composeState
      rw [report]
      rfl
    · unfold State.tickStart
      rw [report]
      rfl
  · refine frameTick_before_of_closed closed (fun u same => ?_) ⟨rfl, rfl⟩
    have shut : u.ss.safety.isOpen = false := by
      rw [same]
      exact closed
    unfold composeState
    cases safety : u.ss.safety with
    | loading | faulted | parked => rfl
    | disarmed | arming | armed | stopping | securing => simp [safety, Safety.isOpen] at shut

end edge

/-! ### The loss of the reference (R24) -/

theorem exec_refLost {s : State} (running : s.ft.running = true) (used : s.cfg.timing.refUse = true)
    (watching : 2 * s.ft.watch < 3 * s.cfg.timing.n) : ∃ acc, exec .refLost s = .next (retimed acc
      (s.ft.watch + 8 * s.ft.cyclesToLoss s.cfg.timing.n) false (s.attention ||| 2#16) s) := by
  change ∃ acc, execRefLost s = _
  unfold execRefLost
  have lost : (s.ft.running && s.cfg.timing.refUse && s.ft.watching s.cfg.timing.n) = true := by
    simp [running, used, Ft.watching, watching]
  dsimp only
  rw [if_pos lost]
  by_cases due : (if s.ft.frame0 = true then s.cfg.timing.n ≤ s.ft.acc + 8 * s.ft.cyclesToLoss s.cfg.timing.n
      else (s.ft.tick + 1) * s.cfg.timing.n ≤ s.cfg.timing.s * (s.ft.acc + 8 * s.ft.cyclesToLoss s.cfg.timing.n))
  · exact ⟨s.ft.acc, congrArg Host.Outcome.next (if_pos due)⟩
  · exact ⟨_, congrArg Host.Outcome.next (if_neg due)⟩

theorem cyclesToLoss_overshoot (n : Nat) (f : Ft) (watching : 2 * f.watch < 3 * n) :
    2 * (f.watch + 8 * f.cyclesToLoss n) < 3 * n + 16 := by
  have := mul_ceilDiv_lt (a := 3 * n - 2 * f.watch) (b := 16) (by omega)
  unfold Ft.cyclesToLoss
  omega

/-- Settles O7: the accepted edge, its work, the edge as a tick of the generator, the absorbed edge and the loss. -/
theorem referenceEdgesAndTheirLoss : Obligations.ReferenceEdgesAndTheirLoss := by
  refine ⟨fun l order s running used noRestart accepted => ?accepted,
    fun l order s running used accepted open_ noRestart noPark => ?worked,
    fun l order s running used accepted shows => edge_is_tick running used accepted shows,
    fun l order s running used later first => ?absorbed, fun l order s unused => ?unused, fun s running used watching => ?lost⟩
  case accepted =>
    have only := retimed_only 0 0 true s.attention s
    have ticked := frameTick_only (before := s) (s := retimed 0 0 true s.attention s) (l := l) (order := order) noRestart
    obtain ⟨ft, -⟩ := frameTick_begins (before := s) (s := retimed 0 0 true s.attention s) (l := l) (order := order) noRestart
    exact ⟨_, exec_referenceEdge running used accepted, by rw [ft]; rfl, by rw [ft], by rw [ft], by rw [ft]; rfl, by rw [ft]; rfl,
      by rw [ft]; rfl, fun later early => frameTick_slips noRestart later early, (only.mono (by simp)).trans ticked⟩
  case worked =>
    exact ⟨_, exec_referenceEdge running used accepted,
      FrameTurned.of_retimed (frameTick_turned (s := retimed 0 0 true s.attention s) open_ noPark noRestart),
      FrameWorked.of_retimed (frameTick_worked (s := retimed 0 0 true s.attention s) open_ noPark noRestart)⟩
  case absorbed =>
    change execReferenceEdge l order s = _
    unfold execReferenceEdge
    refine congrArg Host.Outcome.next ((if_pos (by simp [running, used])).trans ((if_neg ?_).trans rfl))
    simp [later, first]
  case unused =>
    change execReferenceEdge l order s = _
    unfold execReferenceEdge
    exact congrArg Host.Outcome.next (if_neg (by simp [unused]))
  case lost =>
    obtain ⟨acc, ends⟩ := exec_refLost running used watching
    refine ⟨_, _, ends, rfl, ?_, rfl, rfl, (cyclesToLoss_le_iff _ _ _).mp le_rfl, cyclesToLoss_overshoot _ _ watching, rfl, rfl,
      rfl, running, retimed_only _ _ _ _ _⟩
    exact attentionHas_attentionRaise_self s.attention .refLost

end Sys2Proof.Machine
end

section
/-! The effective ranges of a frame, and CROSS: the statement of R130 to R132 as a whole (O52). -/

namespace Sys2Proof.Machine

open Sys2Proof

/-! ### The effective range of a channel (R130) -/

/-- A range narrowed by one entry, where it is active and for the channel. -/
def narrowed (i : Nat) (r : Int × Int) (e : CrossCfg × Bool) : Int × Int :=
  if e.2 ∧ e.1.channel = i then (max r.1 e.1.limLow, min r.2 e.1.limHigh) else r

/-- A fold of `narrowed` is within the first range and every active entry for the channel, and by nothing else. -/
theorem foldl_narrowed (i : Nat) (l : List (CrossCfg × Bool)) (r : Int × Int) :
    r.1 ≤ (l.foldl (narrowed i) r).1 ∧ (l.foldl (narrowed i) r).2 ≤ r.2 ∧
    (∀ e : CrossCfg, (e, true) ∈ l → e.channel = i →
      e.limLow ≤ (l.foldl (narrowed i) r).1 ∧ (l.foldl (narrowed i) r).2 ≤ e.limHigh) ∧
    ((l.foldl (narrowed i) r).1 = r.1 ∨
      ∃ e : CrossCfg, (e, true) ∈ l ∧ e.channel = i ∧ (l.foldl (narrowed i) r).1 = e.limLow) ∧
    ((l.foldl (narrowed i) r).2 = r.2 ∨
      ∃ e : CrossCfg, (e, true) ∈ l ∧ e.channel = i ∧ (l.foldl (narrowed i) r).2 = e.limHigh) := by
  induction l generalizing r with
  | nil => exact ⟨le_rfl, le_rfl, by simp, .inl rfl, .inl rfl⟩
  | cons d l ih =>
    obtain ⟨low, high, within, fromLow, fromHigh⟩ := ih (narrowed i r d)
    rw [List.foldl_cons]
    by_cases applies : d.2 = true ∧ d.1.channel = i
    · have step : narrowed i r d = (max r.1 d.1.limLow, min r.2 d.1.limHigh) := if_pos applies
      have here : (d.1, true) ∈ d :: l := by simp [← applies.1]
      rw [step] at low high within fromLow fromHigh ⊢
      dsimp only at low high fromLow fromHigh
      refine ⟨(le_max_left ..).trans low, high.trans (min_le_left ..), fun e listed channel => ?_, ?_, ?_⟩
      · rcases List.mem_cons.mp listed with same | later
        · subst same
          exact ⟨(le_max_right ..).trans low, high.trans (min_le_right ..)⟩
        · exact within e later channel
      · rcases fromLow with is | ⟨e, listed, channel, is⟩
        · rcases max_choice r.1 d.1.limLow with first | second
          · exact .inl (is.trans first)
          · exact .inr ⟨d.1, here, applies.2, is.trans second⟩
        · exact .inr ⟨e, List.mem_cons_of_mem _ listed, channel, is⟩
      · rcases fromHigh with is | ⟨e, listed, channel, is⟩
        · rcases min_choice r.2 d.1.limHigh with first | second
          · exact .inl (is.trans first)
          · exact .inr ⟨d.1, here, applies.2, is.trans second⟩
        · exact .inr ⟨e, List.mem_cons_of_mem _ listed, channel, is⟩
    · have step : narrowed i r d = r := if_neg applies
      rw [step] at low high within fromLow fromHigh ⊢
      refine ⟨low, high, fun e listed channel => ?_, ?_, ?_⟩
      · rcases List.mem_cons.mp listed with same | later
        · exact absurd ⟨by rw [← same], by rw [← same, channel]⟩ applies
        · exact within e later channel
      · exact fromLow.imp_right fun ⟨e, listed, rest⟩ => ⟨e, List.mem_cons_of_mem _ listed, rest⟩
      · exact fromHigh.imp_right fun ⟨e, listed, rest⟩ => ⟨e, List.mem_cons_of_mem _ listed, rest⟩

theorem effectiveRange_eq (cfg : NodeCfg) (active : List Bool) (i : Nat) : effectiveRange cfg active i =
    (cfg.cross.zip active).foldl (narrowed i) ((cfg.chan.get i).lo, (cfg.chan.get i).hi) := rfl

theorem formRanges_iu (s : State) : (formRanges s).iu =
    { active := s.cfg.cross.map fun e => CrossCfg.isActive e s.ru.slots
      ranges := effectiveRanges s.cfg (s.cfg.cross.map fun e => CrossCfg.isActive e s.ru.slots) } := rfl

section frame

variable {before s : State} {l : LineLevels} {order : List TickWork} (open_ : s.ss.safety.isOpen = true)
  (noPark : s.ru.parkPending = false) (noRestart : s.cl.restartPending = false)
include open_ noPark noRestart

/-- The flags and the ranges of the frame are formed from the watch slots brought to it. -/
theorem frameTick_ranges : (frameTick before l order s).iu =
    { active := s.cfg.cross.map fun e => CrossCfg.isActive e (frameTick before l order s).ru.slots
      ranges := effectiveRanges s.cfg
        (s.cfg.cross.map fun e => CrossCfg.isActive e (frameTick before l order s).ru.slots) } := by
  obtain ⟨-, -, -, -, -, -, -, -, -, -, -, cfg, -⟩ := frameBegun_frame before order s
  have aligned_ : (alignFrame (frameBegun before order s)).iu =
      (formRanges (paceTick (frameBegun before order s).ft.frame (advanceBase (aligned (frameBegun before order s))))).iu := by
    rw [alignFrame_eq]
    simp
  have ru : (paceTick (frameBegun before order s).ft.frame (advanceBase (aligned (frameBegun before order s)))).ru =
      (frameTick before l order s).ru := by
    rw [frameTick_ru open_ noPark noRestart, ← aligned_ru]
    simp
  have cfg' : (paceTick (frameBegun before order s).ft.frame (advanceBase (aligned (frameBegun before order s)))).cfg = s.cfg := by
    rw [← cfg, aligned_eq]
    simp [stationsTurned, liveTurned, turnMarks]
  rw [frameTick_iu open_ noPark noRestart, aligned_, formRanges_iu, ru, cfg']

end frame

/-! ### CROSS (R131, R132) -/

theorem find?_range_of_least {n i : Nat} {p : Nat → Bool} (inside : i < n) (here : p i = true) (least : ∀ k < i, p k = false) :
    (List.range n).find? p = some i := by
  rw [List.find?_range_eq_some]
  simp_all

theorem find?_range_of_none {n : Nat} {p : Nat → Bool} (none_ : ∀ k < n, p k = false) : (List.range n).find? p = none := by
  simpa using none_

theorem raiseConflict_of_least {s : State} {i : Nat} (inside : i < s.cfg.nChans)
    (empty : (s.iu.ranges.get i).2 < (s.iu.ranges.get i).1)
    (least : ∀ k < i, (s.iu.ranges.get k).1 ≤ (s.iu.ranges.get k).2) :
    raiseConflict s = raiseFiltered .cross (16 + i) s := by
  unfold raiseConflict State.channels
  rw [find?_range_of_least inside (by simpa using empty) (by simpa using least)]

theorem raiseConflict_of_none {s : State} (none_ : ∀ i < s.cfg.nChans, (s.iu.ranges.get i).1 ≤ (s.iu.ranges.get i).2) :
    raiseConflict s = s := by
  unfold raiseConflict State.channels
  rw [find?_range_of_none (by simpa using none_)]

theorem cannotObey_iff (s : State) (e : CrossCfg) : s.cannotObey e = true ↔
    CannotObey (s.cfg.chan.get e.channel).amax (s.chans.get e.channel) e := by
  simp only [State.cannotObey, CannotObey, Bool.or_eq_true, Bool.and_eq_true, decide_eq_true_eq]
  tauto

/-- An entry that the frame has made active and that its channel cannot obey. -/
def State.fails (s : State) (before : List Bool) (i : Nat) : Bool :=
  s.iu.active.getD i false && !before.getD i false && (s.cfg.cross[i]?).elim false s.cannotObey

theorem fails_iff (s : State) (before : List Bool) (i : Nat) : s.fails before i = true ↔
    ∃ e, s.cfg.cross[i]? = some e ∧ s.iu.active[i]? = some true ∧ before[i]? ≠ some true ∧
      CannotObey (s.cfg.chan.get e.channel).amax (s.chans.get e.channel) e := by
  have flag (l : List Bool) : l.getD i false = true ↔ l[i]? = some true := by
    rw [List.getD_eq_getElem?_getD]
    cases l[i]? <;> simp
  unfold State.fails
  rw [Bool.and_eq_true, Bool.and_eq_true, flag, Bool.not_eq_true', Bool.eq_false_iff, ne_eq, flag]
  cases entry : s.cfg.cross[i]? with
  | none => simp
  | some e => simp [cannotObey_iff, and_assoc]

theorem failedEntry_eq (s : State) (before : List Bool) :
    s.failedEntry before = (List.range s.cfg.cross.length).find? (s.fails before) := rfl

theorem raiseCross_of_still {s : State} (before : List Bool) (still : s.ss.safety.canStop = false) : raiseCross before s = s := by
  unfold raiseCross
  rw [still]

theorem raiseCross_of_least {s : State} {before : List Bool} {i : Nat} (moving : s.ss.safety.canStop = true)
    (here : s.fails before i = true) (least : ∀ k < i, s.fails before k = false) :
    raiseCross before s = raiseFiltered .cross i s := by
  obtain ⟨e, entry, -⟩ := (fails_iff s before i).mp here
  have inside : i < s.cfg.cross.length := (List.getElem?_eq_some_iff.mp entry).1
  unfold raiseCross
  rw [moving, failedEntry_eq, find?_range_of_least inside here least]

theorem raiseCross_of_none {s : State} {before : List Bool} (none_ : ∀ k, s.fails before k = false) : raiseCross before s = s := by
  unfold raiseCross
  rw [failedEntry_eq, find?_range_of_none fun k _ => none_ k]
  split
  next found => cases found
  next => rfl

/-- Settles O52: the ranges of the frame, the empty range and the entry that is not obeyed. -/
theorem effectiveRangesOfTheFrame : Obligations.EffectiveRangesOfTheFrame := by
  refine ⟨fun l order s running open_ noRestart noPark few => ?ranges, fun s => ⟨fun i inside empty least => ?conflict,
    raiseConflict_of_none⟩, fun before s => ⟨raiseCross_of_still before, fun moving => ⟨fun i e entry active new fails least => ?cross,
      fun none_ => ?obeyed⟩⟩⟩
  case ranges =>
    have ranges := frameTick_ranges (before := flywheelEnd s) (s := flywheelBegun s) (l := l) (order := order) open_ noPark noRestart
    refine ⟨_, exec_flywheelTick running, ?_, fun i inside => ?_⟩
    · rw [ranges]
      refine List.map_congr_left fun e _ => ?_
      unfold CrossCfg.isActive
      cases (((frameTick (flywheelEnd s) l order (flywheelBegun s)).ru.slots).getD e.slot WatchSlot.reset).value <;> rfl
    · rw [ranges]
      dsimp only
      have has : i < (flywheelBegun s).cfg.nChans := inside
      rw [effectiveRanges_get _ _ (by omega) has, effectiveRange_eq]
      exact foldl_narrowed i _ _
  case conflict =>
    have raised := raiseConflict_of_least inside empty least
    exact ⟨raised, fun absent => raised.trans (raiseFiltered_of_absent absent)⟩
  case cross =>
    refine raiseCross_of_least moving ((fails_iff s before i).mpr ⟨e, entry, active, new, fails⟩) fun k less => ?_
    refine Bool.eq_false_iff.mpr fun fails => ?_
    obtain ⟨f, entry, active, new, fails⟩ := (fails_iff s before k).mp fails
    exact least k f less entry active new fails
  case obeyed =>
    refine raiseCross_of_none fun k => Bool.eq_false_iff.mpr fun fails => ?_
    obtain ⟨f, entry, active, new, fails⟩ := (fails_iff s before k).mp fails
    exact none_ k f entry active new fails

end Sys2Proof.Machine
end

section
/-! The pending passages: the statement of R45, R202 and R203 as a whole (O17). -/

namespace Sys2Proof.Machine

open Sys2Proof

/-! ### Entering PARKED (R18, R45) -/

section columns

variable (s : State)

/-- What entering PARKED leaves the sensor line. -/
def parkedLine : State := if s.spl.readActive then freeSensorLine s else { s with spl.read := none }

theorem enterParked_eq : enterParked s = { parkedLine s with
    ss := { (parkedLine s).ss with safety := .parked, timer := none, armPending := none, disarmPending := none }
    ru := { (parkedLine s).ru with parkPending := false, parkTicks := 0, wake := none }
    cl := { (parkedLine s).cl with restartPending := false, restartTicks := 0 }
    lif := { (parkedLine s).lif with
      urgent := [], ordinary := [], orphan := (parkedLine s).lif.busy, failRun := 0, quiet := 0, parkFilter := true }
    pu := { (parkedLine s).pu with ease := false, easePend := [] }
    tpr := { (parkedLine s).tpr with startPend := none, abortPend := none }
    chans := (parkedLine s).chans.map fun c => { c with tRaw := none, t := none, gPend := none } } := rfl

theorem parkedLine_only : OnlyChanges [.spl] s (parkedLine s) := by
  unfold parkedLine freeSensorLine beginRound
  dsimp only
  repeat' split
  all_goals simp [onlyChanges_iff]

theorem parkedLine_read : (parkedLine s).spl.read = none := by
  unfold parkedLine freeSensorLine beginRound
  dsimp only
  repeat' split
  all_goals rfl

theorem enterParked_columns : (enterParked s).ss = { s.ss with
      safety := .parked, timer := none, armPending := none, disarmPending := none } ∧
    (enterParked s).ru = { s.ru with parkPending := false, parkTicks := 0, wake := none } ∧
    (enterParked s).lif = { s.lif with
      urgent := [], ordinary := [], orphan := s.lif.busy, failRun := 0, quiet := 0, parkFilter := true } ∧
    (enterParked s).pu = { s.pu with ease := false, easePend := [] } ∧
    (enterParked s).tpr = { s.tpr with startPend := none, abortPend := none } ∧ (enterParked s).spl.read = none := by
  have only : (parkedLine s).lif = s.lif ∧ (parkedLine s).ru = s.ru ∧ (parkedLine s).ss = s.ss ∧ (parkedLine s).pu = s.pu ∧
      (parkedLine s).tpr = s.tpr := by
    have := onlyChanges_iff.mp (parkedLine_only s)
    simp_all
  obtain ⟨lif, ru, ss, pu, tpr⟩ := only
  rw [enterParked_eq, lif, ru, ss, pu, tpr]
  exact ⟨rfl, rfl, rfl, rfl, rfl, parkedLine_read s⟩

end columns

/-! ### The counting of the passages -/

section count

variable {s : State}

/-- One more frame tick since the acceptance of a PARK. -/
def parkCounted (s : State) : State := { s with ru.parkTicks := satSucc 2 s.ru.parkTicks }

/-- One more frame tick since the acceptance of a RESTART. -/
def restartCounted (s : State) : State := { s with cl.restartTicks := satSucc 2 s.cl.restartTicks }

theorem countPark_of_first (pending : s.ru.parkPending = true) (first : s.ru.parkTicks = 0) : countPark s = parkCounted s := by
  refine (if_pos pending).trans (if_neg ?_)
  simp [first, satSucc]

theorem countPark_of_second (pending : s.ru.parkPending = true) (second : 1 ≤ s.ru.parkTicks) :
    countPark s = enterParked (parkCounted s) := by
  refine (if_pos pending).trans (if_pos ⟨pending, ?_⟩)
  simp [satSucc]
  omega

theorem countRestart_of_first (pending : s.cl.restartPending = true) (first : s.cl.restartTicks = 0) :
    countRestart s = restartCounted s := by
  refine (if_pos pending).trans (if_neg ?_)
  simp [first, satSucc]

theorem countRestart_of_second (pending : s.cl.restartPending = true) (second : 1 ≤ s.cl.restartTicks) :
    countRestart s = enterLoading (restartCounted s) := by
  refine (if_pos pending).trans (if_pos ⟨pending, ?_⟩)
  simp [satSucc]
  omega

end count

/-! ### The frame tick with a pending passage -/

theorem alignFrame_disarmed {s : State} (disarmed : s.ss.safety = .disarmed) : (alignFrame s).ss.safety = .disarmed := by
  have open_ : s.ss.safety.isOpen = true := by rw [disarmed]; rfl
  have first := aligned_works (q := False) open_
  have same : (formRanges (paceTick s.ft.frame (advanceBase (aligned s)))).ss = (aligned s).ss := by simp
  have opened : (formRanges (paceTick s.ft.frame (advanceBase (aligned s)))).ss.safety.isOpen = true := by
    simpa using first.isOpen open_
  rw [alignFrame_eq]
  exact (zoneFrameTick_works (q := False) opened).disarmed (by rw [same]; exact first.disarmed disarmed)

section tick

variable {before s : State} {l : LineLevels} {order : List TickWork}

/-- A DISARMED node stays DISARMED through the work of a frame tick. -/
theorem frameTick_disarmed (disarmed : (frameCounted before order s).ss.safety = .disarmed) :
    (frameTick before l order s).ss.safety = .disarmed ∧
    (frameTick before l order s).ru = (stationsTurned (frameCounted before order s)).ru := by
  rw [frameTick_of_awake (by rw [disarmed]; rfl)]
  refine ⟨(doWork_works (q := False) _ _ _ False.elim _).disarmed (alignFrame_disarmed disarmed), ?_⟩
  rw [← alignFrame_ru]
  simp

theorem wakeIfDue_of_none {s : State} (none_ : s.ru.wake ≠ some s.ft.frame) : wakeIfDue s = s :=
  if_neg (by simp [State.wakeDue, none_])

/-- A node that is PARKED and has no WAKE of the frame stays PARKED and silent. -/
theorem frameTick_stays_parked (parked : (frameCounted before order s).ss.safety = .parked)
    (none_ : (frameCounted before order s).ru.wake ≠ some (frameCounted before order s).ft.frame) :
    (frameTick before l order s).ss = (frameCounted before order s).ss ∧
    (frameTick before l order s).lif = (frameCounted before order s).lif ∧
    (frameTick before l order s).ru = (frameCounted before order s).ru := by
  rw [frameTick_of_parked parked, wakeIfDue_of_none none_]
  obtain ⟨ss, lif⟩ := (doWork_works (q := False) before.tickStart l 0 (ws := workOrder order servoWork) False.elim
    (frameCounted before order s)).parked parked
  exact ⟨ss, lif, by simp⟩

end tick

section passages

variable {before s : State} {l : LineLevels} {order : List TickWork}

theorem frameTick_park_first (disarmed : s.ss.safety = .disarmed) (pending : s.ru.parkPending = true)
    (noRestart : s.cl.restartPending = false) (first : s.ru.parkTicks = 0) :
    (frameTick before l order s).ss.safety = .disarmed ∧ (frameTick before l order s).ru.parkPending = true ∧
      (frameTick before l order s).ru.parkTicks = 1 := by
  obtain ⟨ru, -, -, -, ss, -⟩ := frameBegun_frame before order s
  have counted : frameCounted before order s = parkCounted (frameBegun before order s) := by
    rw [frameCounted_of_no_restart noRestart, countPark_of_first (by rw [ru, pending]) (by rw [ru, first])]
  have disarmed' : (frameCounted before order s).ss.safety = .disarmed := by
    rw [counted]
    exact (congrArg Ss.safety ss).trans disarmed
  obtain ⟨stays, ru'⟩ := frameTick_disarmed (l := l) disarmed'
  have turned : (frameTick before l order s).ru.parkPending = (frameBegun before order s).ru.parkPending ∧
      (frameTick before l order s).ru.parkTicks = satSucc 2 (frameBegun before order s).ru.parkTicks := by
    rw [ru', stationsTurned_ru, counted]
    exact ⟨rfl, rfl⟩
  rw [ru, first, pending] at turned
  exact ⟨stays, turned⟩

theorem frameTick_park_second (pending : s.ru.parkPending = true) (noRestart : s.cl.restartPending = false)
    (second : 1 ≤ s.ru.parkTicks) :
    (frameTick before l order s).ss.safety = .parked ∧ (frameTick before l order s).ru.parkPending = false ∧
      (frameTick before l order s).lif.urgent = [] ∧ (frameTick before l order s).lif.ordinary = [] := by
  obtain ⟨ru, -⟩ := frameBegun_frame before order s
  have counted : frameCounted before order s = enterParked (parkCounted (frameBegun before order s)) := by
    rw [frameCounted_of_no_restart noRestart, countPark_of_second (by rw [ru, pending]) (by rw [ru]; exact second)]
  obtain ⟨ss, ru', lif, -⟩ := enterParked_columns (parkCounted (frameBegun before order s))
  rw [← counted] at ss ru' lif
  obtain ⟨ssKept, lifKept, ruKept⟩ := frameTick_stays_parked (l := l) (before := before) (order := order) (s := s)
    (by rw [ss]) (by rw [ru']; simp)
  rw [ssKept, lifKept, ruKept, ss, ru', lif]
  exact ⟨rfl, rfl, rfl, rfl⟩

theorem frameTick_restart_first (safety : s.ss.safety = .disarmed ∨ s.ss.safety = .faulted)
    (pending : s.cl.restartPending = true) (noPark : s.ru.parkPending = false) (first : s.cl.restartTicks = 0) :
    (frameTick before l order s).ss.safety = s.ss.safety ∧ (frameTick before l order s).cl.restartPending = true ∧
      (frameTick before l order s).cl.restartTicks = 1 := by
  obtain ⟨ru, -, -, -, ss, -, -, -, -, -, cl, -⟩ := frameBegun_frame before order s
  have counted : frameCounted before order s = restartCounted (frameBegun before order s) := by
    unfold frameCounted
    rw [countPark_of_none (by rw [ru, noPark]), countRestart_of_first (by rw [cl, pending]) (by rw [cl, first])]
  have same : (frameCounted before order s).ss = s.ss := by
    rw [counted]
    exact ss
  obtain ⟨-, cl', -⟩ := frameTick_counted (before := before) (s := s) (l := l) (order := order)
  have kept : (frameTick before l order s).cl.restartPending = true ∧ (frameTick before l order s).cl.restartTicks = 1 := by
    rw [cl', counted]
    unfold restartCounted
    rw [cl, first, pending]
    exact ⟨rfl, rfl⟩
  refine ⟨?_, kept⟩
  rcases safety with disarmed | faulted
  · rw [disarmed]
    exact (frameTick_disarmed (by rw [same, disarmed])).1
  · rw [frameTick_of_closed (.inr (by rw [same, faulted])), same]

theorem frameTick_restart_second (pending : s.cl.restartPending = true) (noPark : s.ru.parkPending = false)
    (second : 1 ≤ s.cl.restartTicks) : ∃ u, u.ts = s.ts ∧ frameTick before l order s = enterLoading u := by
  obtain ⟨ru, -, -, -, -, -, -, -, ts, -, cl, -⟩ := frameBegun_frame before order s
  have counted : frameCounted before order s = enterLoading (restartCounted (frameBegun before order s)) := by
    unfold frameCounted
    rw [countPark_of_none (by rw [ru, noPark]), countRestart_of_second (by rw [cl, pending]) (by rw [cl]; exact second)]
  refine ⟨restartCounted (frameBegun before order s), ts, ?_⟩
  rw [frameTick_of_closed (.inl (by rw [counted]; rfl)), counted]

end passages

/-- Settles O17: the counts at a frame tick, and the two passages. -/
theorem pendingPassagesAreCarriedOut : Obligations.PendingPassagesAreCarriedOut := by
  refine ⟨fun l order s running disarmed pending noRestart => ⟨_, exec_flywheelTick running,
      frameTick_park_first (s := flywheelBegun s) disarmed pending noRestart,
      frameTick_park_second (s := flywheelBegun s) pending noRestart⟩,
    fun l order s running safety pending noPark => ⟨_, exec_flywheelTick running,
      frameTick_restart_first (s := flywheelBegun s) safety pending noPark, fun second => ?restart⟩,
    fun s pending due => ⟨_, congrArg Host.Outcome.next (if_pos ⟨pending, due⟩), ?parks⟩,
    fun s pending due => ⟨_, congrArg Host.Outcome.next (if_pos ⟨pending, due⟩), ?restarts⟩⟩
  case restart =>
    obtain ⟨u, ts, loads⟩ := frameTick_restart_second (before := flywheelEnd s) (l := l) (order := order)
      (s := flywheelBegun s) pending noPark second
    rw [loads]
    exact ⟨rfl, rfl, rfl, ts, rfl, rfl⟩
  case parks =>
    obtain ⟨ss, ru, lif, pu, tpr, read⟩ := enterParked_columns s
    refine ⟨by rw [ss], by rw [ss], by rw [ss], by rw [ru], by rw [ru], by rw [ru], by rw [ru], by rw [lif], by rw [lif],
      by rw [lif], by rw [lif], by rw [lif], by rw [lif], silent_of_parked (by rw [ss]), read, by rw [tpr], by rw [tpr],
      by rw [pu], by rw [pu], by rw [pu], by simp [onlyChanges_iff]⟩
  case restarts =>
    exact ⟨rfl, rfl, rfl, rfl, rfl, rfl, rfl, rfl, rfl, rfl, rfl, rfl, rfl, rfl, rfl, rfl, rfl, rfl, rfl, rfl, rfl, rfl,
      fun i _ => by simp [enterLoading, State.reset, Chan.reset, Dlu.reset, DriveLine.reset]⟩

end Sys2Proof.Machine
end

section
/-! The waking of a parked node: the statement of R44, R47, R48 and R49 as a whole (O18). -/

namespace Sys2Proof.Machine

open Sys2Proof

/-! ### The WAKE columns -/

section wakes

variable (s : State)

/-- The first STATE of a woken node. -/
def firstState : Msg := { dest := 0, body := .state ((woken s).report (woken s).shownReports) }

theorem wakeNode_lif : wakeNode s = { woken s with
    lif.ordinary := [{ msg := firstState s, succ := none, active := false }] } := by
  have taken : mayQueue (firstState s).body (woken s) = true := rfl
  have placed := (place_of_taken (firstState s) (woken s) taken).2 (by simp [firstState, Body.cls])
  exact placed

theorem zoneCondition_of_clear {s : State} (clear : s.zu = Zu.reset) : s.zoneCondition = none := by
  refine List.find?_eq_none.mpr fun n hn => ?_
  have inactive : ∀ m < 8, (Zu.reset.lines.getD m LineFilter.reset).active = false := by decide
  rw [clear, inactive n (List.mem_range.mp hn)]
  simp

theorem estopCondition_of_clear {s : State} (clear : s.zu = Zu.reset) : s.estopCondition = none := by
  unfold State.estopCondition
  rw [clear]
  rfl

/-- With the drives gated, every channel of a parked node stands in OFF with its drive off and its brake set (R48, R114). -/
theorem parked_still {s : State} (parked : s.ss.safety = .parked) (gated : DrivesGated s) (safe : BrakesSafe s)
    (off : OffWithoutDrive s) {i : Nat} (hi : i < 4) : (s.dlu.lines.get i).enable = false ∧
      (s.dlu.lines.get i).released = false ∧ (s.chans.get i).mode = .off := by
  have still : (s.dlu.lines.get i).enable = false := by
    refine Bool.eq_false_iff.mpr fun on => ?_
    have driven := (gated.2 i hi on).1
    simp [parked, Safety.driven] at driven
  exact ⟨still, Bool.eq_false_iff.mpr fun open_ => Bool.false_ne_true (still.symm.trans (safe i hi open_)), off i hi still⟩

end wakes

theorem wakeIfDue_of_due {s : State} (parked : s.ss.safety = .parked) (due : s.ru.wake = some s.ft.frame) :
    wakeIfDue s = wakeNode s := if_pos (by simp [State.wakeDue, parked, due])

/-! ### The frame tick of a parked node (R47, R48) -/

section tick

variable {before s : State} {l : LineLevels} {order : List TickWork} (parked : s.ss.safety = .parked)
include parked

/-- Outside the five open states and FAULTED no STATE is composed, and PARKED counts no quiet frame. -/
theorem frameBegun_lif_of_parked : (frameBegun before order s).lif = { s.lif with
    dupQuiet := (frameBegun before order s).lif.dupQuiet } := by
  have begun : (beginFrame s).ss = s.ss ∧ (beginFrame s).lif = s.lif := by simp
  have silent : composeFirst before order (beginFrame s) = beginFrame s := by
    unfold composeFirst composeState
    rw [begun.1, parked]
    exact ite_self _
  have uncounted : countQuiet (beginFrame s) = beginFrame s := by
    unfold countQuiet
    rw [begun.1, parked]
  unfold frameBegun
  rw [silent, uncounted]
  unfold countDup
  dsimp only
  rw [begun.2]

variable (noPark : s.ru.parkPending = false) (noRestart : s.cl.restartPending = false)
include noPark noRestart

omit parked in
theorem frameCounted_of_none : frameCounted before order s = frameBegun before order s := by
  obtain ⟨ru, -⟩ := frameBegun_frame before order s
  rw [frameCounted_of_no_restart noRestart, countPark_of_none (by rw [ru, noPark])]

theorem frameTick_wakes (due : s.ru.wake = some (s.ft.frame + 1)) : frameTick before l order s =
    noteReports (worked before.tickStart l 0 (workOrder order servoWork)
      (withLevels l (wakeNode (frameBegun before order s)))) := by
  obtain ⟨ru, -, -, -, ss, -⟩ := frameBegun_frame before order s
  have ft := frameBegun_ft before order s
  have counted := frameCounted_of_none (before := before) (order := order) noPark noRestart
  have awake : (wakeNode (frameBegun before order s)).ss.safety = .disarmed := by
    rw [wakeNode_lif]
    rfl
  rw [frameTick_of_parked (by rw [counted, ss, parked]), counted,
    wakeIfDue_of_due (by rw [ss, parked]) (by rw [ru, due, ft])]
  exact doWork_of_working _ _ _ _ (by rw [awake]; decide) (by rw [awake]; decide)

theorem frameTick_sleeps (none_ : s.ru.wake ≠ some (s.ft.frame + 1)) :
    (frameTick before l order s).ss = s.ss ∧ (frameTick before l order s).ru = s.ru ∧
      (frameTick before l order s).lif.urgent = s.lif.urgent ∧ (frameTick before l order s).lif.ordinary = s.lif.ordinary := by
  obtain ⟨ru, -, -, -, ss, -⟩ := frameBegun_frame before order s
  have ft := frameBegun_ft before order s
  have counted := frameCounted_of_none (before := before) (order := order) noPark noRestart
  obtain ⟨ss', lif, ru'⟩ := frameTick_stays_parked (before := before) (l := l) (order := order) (s := s)
    (by rw [counted, ss, parked]) (by rw [counted, ru, ft]; exact none_)
  rw [ss', lif, ru', counted, ss, ru, frameBegun_lif_of_parked parked]
  exact ⟨rfl, rfl, rfl, rfl⟩

end tick

/-- Settles O18: the WAKE columns, the other frames, and the frame tick that wakes or does not. -/
theorem wakeAtTheNamedFrame : Obligations.WakeAtTheNamedFrame := by
  refine ⟨fun s parked due => ⟨wakeNode s, congrArg Host.Outcome.next (wakeIfDue_of_due parked due), ?columns⟩,
    fun s not => congrArg Host.Outcome.next ?other,
    fun l order s running parked noRestart noPark => ⟨fun due => ?wakes, fun none_ => ⟨_, exec_flywheelTick running, ?sleeps⟩⟩⟩
  case columns =>
    obtain ⟨entries, peers⟩ := pinnedRoster_columns s
    obtain ⟨active, length, ranges⟩ := iuAllActive_columns s.cfg
    have only : OnlyChanges [.lif, .ru, .dlu, .ss, .pu, .iu, .zu] s (woken s) := by simp [onlyChanges_iff, woken]
    rw [wakeNode_lif]
    refine ⟨rfl, rfl, rfl, rfl, entries, peers, rfl, rfl, ⟨_, rfl, rfl, rfl, rfl, rfl⟩, rfl, rfl, rfl, rfl, rfl, rfl, rfl, rfl,
      rfl, rfl, zoneCondition_of_clear rfl, estopCondition_of_clear rfl, active, length, ranges, rfl, fun i hi => ?_,
      fun gated safe off i hi => ?_, ?_⟩
    · simp [woken]
    · simpa [woken] using parked_still parked gated safe off hi
    · have queued : OnlyChanges [.lif] (woken s) { woken s with
          lif.ordinary := [{ msg := firstState s, succ := none, active := false }] } := by simp [onlyChanges_iff]
      exact only.trans (queued.mono (by simp))
  case other =>
    refine if_neg fun due => ?_
    obtain ⟨parked, named⟩ : s.ss.safety = .parked ∧ s.ru.wake = some s.ft.frame := by simpa [State.wakeDue] using due
    rcases not with safety | frame
    · exact safety parked
    · exact frame named
  case wakes =>
    have ticked := frameTick_wakes (before := flywheelEnd s) (l := l) (order := order) (s := flywheelBegun s) parked noPark
      noRestart due
    obtain ⟨ru, chans, spl, dlu, ss, pu, iu, zu, ts, tpr, cl, cfg, pins, pending⟩ :=
      frameBegun_frame (flywheelEnd s) order (flywheelBegun s)
    have ft := frameBegun_ft (flywheelEnd s) order (flywheelBegun s)
    have begun : OnlyChanges [.lif, .ft, .attention] (flywheelBegun s) (frameBegun (flywheelEnd s) order (flywheelBegun s)) := by
      simp [onlyChanges_iff, ru, chans, spl, dlu, ss, pu, iu, zu, ts, tpr, cl, cfg, pins, pending]
    have timed := (retimed_only (s.ft.acc + 8 * s.ft.cyclesToFrame s.cfg.timing.n - s.cfg.timing.n) (flywheelEnd s).ft.watch
      (flywheelEnd s).ft.refPresent (flywheelEnd s).attention s)
    have awake : (wakeNode (frameBegun (flywheelEnd s) order (flywheelBegun s))).ss.safety = .disarmed := by
      rw [wakeNode_lif]
      rfl
    have frame := worked_frame (flywheelEnd s).tickStart l 0 (workOrder order servoWork)
      (withLevels l (wakeNode (frameBegun (flywheelEnd s) order (flywheelBegun s))))
    refine ⟨_, flywheelEnd s, frameBegun (flywheelEnd s) order (flywheelBegun s),
      wakeNode (frameBegun (flywheelEnd s) order (flywheelBegun s)), _, exec_flywheelTick running,
      cyclesToFrame_reaches _ _, fun k' less => cyclesToFrame_least _ _ less, watchCycles_watched _ s, by rw [ft]; rfl, by rw [ft],
      (timed.mono (by simp)).trans begun, congrArg Host.Outcome.next (wakeIfDue_of_due (by rw [ss]; exact parked) ?_), awake,
      ticked, ?_, ?_, ?_⟩
    · rw [ru, ft]
      exact due
    · rw [ticked]
      exact ((worked_works (q := False) _ _ _ _ False.elim _).trans (noteReports_works _)).disarmed awake
    · rw [ticked]
      simp [frame.2.1]
    · rw [ticked]
      simp [frame.2.2.1]
  case sleeps =>
    obtain ⟨ft, -⟩ := frameTick_begins (before := flywheelEnd s) (s := flywheelBegun s) (l := l) (order := order) noRestart
    exact ⟨by rw [ft]; rfl, frameTick_sleeps (s := flywheelBegun s) parked noPark noRestart none_⟩

end Sys2Proof.Machine
end

section
/-! The reception of a STATE (R36, R38, R40), for O30. -/

namespace Sys2Proof.Machine

open Sys2Proof

/-! ### The roster and the slots after the report of a station -/

theorem heard_slots (h : Header) (s : State) : (heard h s).ru.slots = s.ru.slots := by
  unfold heard validFrom reportStation
  repeat' split
  all_goals rfl

/-- A station that has just reported has its entry heard, with AGE 0, where the roster has one (R34). -/
theorem heard_entry {h : Header} {s : State} (open_ : s.ss.safety.isOpen = true) {e : RosterEntry}
    (listed : e ∈ (heard h s).ru.roster) (station : e.station = h.source.toNat) : e.heard = true ∧ e.age = 0 := by
  cases known : s.ru.roster.any fun e => e.station == h.source.toNat with
  | true =>
    rw [heard_of_known open_ known] at listed
    obtain ⟨d, -, is⟩ := List.mem_map.mp listed
    by_cases same : d.station = h.source.toNat
    · rw [if_pos same] at is
      rw [← is]
      exact ⟨rfl, rfl⟩
    · rw [if_neg same] at is
      exact absurd (is ▸ station) same
  | false =>
    have absent {d : RosterEntry} (there : d ∈ s.ru.roster) : d.station ≠ h.source.toNat := fun same => by
      have := List.any_eq_false.mp known d there
      simp [same] at this
    by_cases room : s.ru.roster.length < 24
    · rw [heard_of_room open_ known room] at listed
      rcases (mem_insertEntry _ _ _).mp listed with is | there
      · rw [is]
        exact ⟨rfl, rfl⟩
      · exact absurd station (absent there)
    · rw [heard_of_full open_ known (by omega)] at listed
      exact absurd station (absent listed)

/-- The report of a station pins no entry and unpins none. -/
theorem heard_pinned_iff {h : Header} {s : State} (open_ : s.ss.safety.isOpen = true) :
    (∃ e ∈ (heard h s).ru.roster, e.station = h.source.toNat ∧ e.pinned = true) ↔
      ∃ e ∈ s.ru.roster, e.station = h.source.toNat ∧ e.pinned = true := by
  cases known : s.ru.roster.any fun e => e.station == h.source.toNat with
  | true =>
    rw [heard_of_known open_ known]
    constructor
    · rintro ⟨e, listed, station, pinned⟩
      obtain ⟨d, there, is⟩ := List.mem_map.mp listed
      refine ⟨d, there, ?_⟩
      split at is
      all_goals
        rw [← is] at station pinned
        exact ⟨station, pinned⟩
    · rintro ⟨e, there, station, pinned⟩
      exact ⟨_, List.mem_map.mpr ⟨e, there, if_pos station⟩, station, pinned⟩
  | false =>
    have absent {d : RosterEntry} (there : d ∈ s.ru.roster) : d.station ≠ h.source.toNat := fun same => by
      have := List.any_eq_false.mp known d there
      simp [same] at this
    refine ⟨fun ⟨e, listed, station, pinned⟩ => ?_, fun ⟨e, there, station, _⟩ => absurd station (absent there)⟩
    by_cases room : s.ru.roster.length < 24
    · rw [heard_of_room open_ known room] at listed
      rcases (mem_insertEntry _ _ _).mp listed with is | there
      · rw [is] at pinned
        cases pinned
      · exact absurd station (absent there)
    · rw [heard_of_full open_ known (by omega)] at listed
      exact absurd station (absent listed)

/-! ### A STATE taken -/

/-- The entry of a station with the fields of its STATE (R36). -/
def stated (station : Nat) (f : StateFields) (p : Published) (a : Activity) (e : RosterEntry) : RosterEntry :=
  if e.station = station then
    { e with
      role := if p = .control then .control else .node
      last := some { safety := p, activity := a, take := f.take.toNat } }
  else e

/-- The node with the fields of a STATE in its roster and its watch slots. -/
def stateTaken (station : Nat) (d : FrameNo) (f : StateFields) (p : Published) (a : Activity) (s : State) : State :=
  { s with ru := { s.ru with
      roster := s.ru.roster.map (stated station f p a)
      slots := s.ru.slots.mapIdx (s.feedSlot station d f) } }

section taken

variable {station : Nat} {d : FrameNo} {f : StateFields} {p : Published} {a : Activity} {s : State}

theorem stated_station (e : RosterEntry) : (stated station f p a e).station = e.station ∧
    (stated station f p a e).pinned = e.pinned ∧ (stated station f p a e).heard = e.heard ∧
    (stated station f p a e).age = e.age := by
  unfold stated
  split
  all_goals exact ⟨rfl, rfl, rfl, rfl⟩

theorem takeState_eq : takeState station d f p a s =
    if p = .node .faulted ∧ ((stateTaken station d f p a s).ru.roster.any fun e => e.pinned && e.station == station) = true then
      raisePeer (stateTaken station d f p a s)
    else stateTaken station d f p a s := rfl

theorem stateTaken_pinned_iff : ((stateTaken station d f p a s).ru.roster.any fun e => e.pinned && e.station == station) = true ↔
    ∃ e ∈ s.ru.roster, e.station = station ∧ e.pinned = true := by
  have same (e : RosterEntry) := stated_station (station := station) (f := f) (p := p) (a := a) e
  simp only [stateTaken, List.any_map, List.any_eq_true, Function.comp_apply, Bool.and_eq_true, beq_iff_eq]
  refine exists_congr fun e => and_congr_right fun _ => ?_
  rw [(same e).1, (same e).2.1]
  exact and_comm

theorem takeState_ru : (takeState station d f p a s).ru = (stateTaken station d f p a s).ru := by
  rw [takeState_eq]
  split
  case isTrue => simp
  case isFalse => rfl

theorem takeState_of_quiet (quiet : p ≠ .node .faulted ∨ ¬ ∃ e ∈ s.ru.roster, e.station = station ∧ e.pinned = true) :
    takeState station d f p a s = stateTaken station d f p a s := by
  rw [takeState_eq]
  refine if_neg fun both => ?_
  rcases quiet with healthy | unpinned
  · exact healthy both.1
  · exact unpinned (stateTaken_pinned_iff.mp both.2)

theorem takeState_of_lost (faulted : p = .node .faulted) (pinned : ∃ e ∈ s.ru.roster, e.station = station ∧ e.pinned = true) :
    takeState station d f p a s = raisePeer (stateTaken station d f p a s) := by
  rw [takeState_eq]
  exact if_pos ⟨faulted, stateTaken_pinned_iff.mpr pinned⟩

/-- A required peer that shows FAULTED is in the lost set (R37). -/
theorem stateTaken_lost (faulted : p = .node .faulted) (pinned : ∃ e ∈ s.ru.roster, e.station = station ∧ e.pinned = true)
    (heard_ : ∀ e ∈ s.ru.roster, e.station = station → e.heard = true) :
    station ∈ (stateTaken station d f p a s).lostSet := by
  obtain ⟨e, listed, here, pin⟩ := pinned
  obtain ⟨sameStation, samePinned, sameHeard, -⟩ := stated_station (station := station) (f := f) (p := p) (a := a) e
  refine List.mem_map.mpr ⟨stated station f p a e, List.mem_filter.mpr ⟨List.mem_map.mpr ⟨e, listed, rfl⟩, ?_⟩,
    sameStation.trans here⟩
  have last : (stated station f p a e).last = some { safety := p, activity := a, take := f.take.toNat } := by
    unfold stated
    rw [if_pos here]
  rw [samePinned, sameHeard, pin, heard_ e listed here]
  rw [RosterEntry.present, last, faulted]
  simp

theorem takeState_onlyChanges : OnlyChanges [.lif, .ru, .chans, .ss, .pu, .ts, .tpr, .attention] s (takeState station d f p a s) := by
  have taken : OnlyChanges [.ru] s (stateTaken station d f p a s) := by simp [onlyChanges_iff, stateTaken]
  have raised (u : State) : OnlyChanges [.lif, .chans, .ss, .pu, .ts, .tpr, .attention] u (raisePeer u) := by
    unfold raisePeer
    split
    next => exact raiseOwn_onlyChanges_of_ne (by decide) _ u
    next => simp [onlyChanges_iff]
  rw [takeState_eq]
  split
  case isTrue => exact (taken.mono (by simp)).trans ((raised _).mono (by simp))
  case isFalse => exact taken.mono (by simp)

/-- The slots of a STATE: a channel that is not stale gives its pending value, every other slot stands (R40). -/
theorem stateTaken_slot {i : Nat} {w : WatchSlot} (slot : s.ru.slots[i]? = some w) :
    (stateTaken station d f p a s).ru.slots[i]? = some (s.feedSlot station d f i w) := by
  simp [stateTaken, List.getElem?_mapIdx, slot]

theorem feedSlot_fed {i : Nat} {w : WatchSlot} {k : WatchCfg} {r : U16 × Byte} (watched : s.cfg.watch[i]? = some k)
    (here : k.station = station) (inside : k.channel < f.count.toNat) (record : f.chans[k.channel]? = some r)
    (live : r.2.getLsbD 3 = false) : s.feedSlot station d f i w = { w with pend := setPend w.pend (d + 1) r.1.toNat } := by
  unfold State.feedSlot
  rw [watched]
  refine (if_pos ⟨here, inside⟩).trans ?_
  rw [record]
  exact if_neg (by rw [recordStale, live]; decide)

theorem feedSlot_unfed {i : Nat} {w : WatchSlot} {k : WatchCfg} (watched : s.cfg.watch[i]? = some k)
    (not : k.station ≠ station ∨ f.count.toNat ≤ k.channel ∨ ∃ r : U16 × Byte, f.chans[k.channel]? = some r ∧ r.2.getLsbD 3 = true) :
    s.feedSlot station d f i w = w := by
  unfold State.feedSlot
  rw [watched]
  by_cases applies : k.station = station ∧ k.channel < f.count.toNat
  · refine (if_pos applies).trans ?_
    rcases not with elsewhere | beyond | ⟨r, record, stale⟩
    · exact absurd applies.1 elsewhere
    · exact absurd applies.2 (not_lt.mpr beyond)
    · rw [record]
      exact if_pos stale
  · exact if_neg applies

end taken

/-! ### The fields in and out of range (R205) -/

theorem publishedOfCode_of_large {n : Nat} (large : 8 < n) : Published.ofCode n = none := by
  obtain ⟨m, rfl⟩ : ∃ m, n = m + 9 := ⟨n - 9, by omega⟩
  rfl

theorem activityOfCode_of_large {n : Nat} (large : 6 < n) : Activity.ofCode n = none := by
  obtain ⟨m, rfl⟩ : ∃ m, n = m + 7 := ⟨n - 7, by omega⟩
  rfl

section exec

variable {h : Header} {f : StateFields} {s : State} (hear : hears h (13 + 3 * f.count.toNat) s = true)
include hear

theorem exec_state_taken {p : Published} {a : Activity} (few : f.count.toNat ≤ 4)
    (safety : Published.ofCode f.safety.toNat = some p) (activity : Activity.ofCode f.activity.toNat = some a) :
    exec (.state h f) s = .next (takeState h.source.toNat s.dateNow f p a (heard h s)) := by
  change execState h f s = _
  unfold execState
  refine (broadcastKind_of_hears h _ _ s hear).trans (congrArg Host.Outcome.next ?_)
  rw [safety, activity]
  refine (if_pos few).trans ?_
  have date : (heard h s).dateNow = s.dateNow := by simp [State.dateNow]
  rw [date]

theorem exec_state_refused (out : 4 < f.count.toNat ∨ 8 < f.safety.toNat ∨ 6 < f.activity.toNat) :
    exec (.state h f) s = .next (heard h s) := by
  change execState h f s = _
  unfold execState
  refine (broadcastKind_of_hears h _ _ s hear).trans (congrArg Host.Outcome.next ?_)
  rcases out with many | safety | activity
  · split
    next => exact if_neg (not_le.mpr many)
    next => rfl
  · rw [publishedOfCode_of_large safety]
  · rw [activityOfCode_of_large activity]
    split
    next => contradiction
    next => rfl

end exec

end Sys2Proof.Machine
end

section
/-! The STATE that the node composes (R42 to R44, R195): the statement of O30 as a whole. -/

namespace Sys2Proof.Machine

open Sys2Proof

/-! ### The fields of a STATE (R43, R195) -/

/-- Every number 1 … 11 is the code of a condition. -/
theorem attention_of_code : ∀ k < 11, ∃ a : Attention, a.code - 1 = k := by
  intro k hk
  interval_cases k
  exacts [⟨.claimOverflow, rfl⟩, ⟨.refLost, rfl⟩, ⟨.staleReading, rfl⟩, ⟨.liveStale, rfl⟩, ⟨.tickSlip, rfl⟩, ⟨.txDrop, rfl⟩,
    ⟨.linkQuiet, rfl⟩, ⟨.rosterFull, rfl⟩, ⟨.sampleRange, rfl⟩, ⟨.takeFull, rfl⟩, ⟨.sensorTimeout, rfl⟩]

theorem attentionTop_of_none {set : BitVec 16} (none_ : ∀ a, attentionHas set a = false) : attentionTop set = 0 := by
  have clear : ∀ k < 11, set.getLsbD k = false := by
    intro k hk
    obtain ⟨a, code⟩ := attention_of_code k hk
    have := none_ a
    rwa [attentionHas, code] at this
  unfold attentionTop
  rw [find?_range_of_none clear]
  rfl

theorem attentionTop_of_least {set : BitVec 16} {a : Attention} (present : attentionHas set a = true)
    (least : ∀ b, attentionHas set b = true → a.code ≤ b.code) : attentionTop set = a.code := by
  have positive : 1 ≤ a.code ∧ a.code ≤ 11 := by cases a <;> decide
  have clear : ∀ k < a.code - 1, set.getLsbD k = false := by
    intro k hk
    obtain ⟨b, code⟩ := attention_of_code k (by omega)
    refine Bool.eq_false_iff.mpr fun set_ => ?_
    have := least b (by rwa [attentionHas, code])
    have positive' : 1 ≤ b.code := by cases b <;> decide
    omega
  unfold attentionTop
  rw [find?_range_of_least (by omega) present clear]
  simp
  omega

theorem getLsbD_setBit (b : BitVec 8) {k n : Nat} (hk : k < 8) (hn : n < 8) :
    (b ||| (1#8 <<< k)).getLsbD n = (b.getLsbD n || decide (n = k)) := by
  have one : ∀ k < 8, ∀ n < 8, (1#8 <<< k).getLsbD n = decide (n = k) := by decide
  rw [BitVec.getLsbD_or, one k hk n hn]

theorem zoneBits_getLsbD {s : State} {n : Nat} (hn : n < 8) {z : LineFilter} (line : s.zu.lines[n]? = some z) :
    s.zoneBits.getLsbD n = z.active := by
  have bits : ∀ m < 8, s.zoneBits.getLsbD m = (decide (m < 8) && (s.zu.lines.getD m LineFilter.reset).active) := by
    refine foldl_range_rec (n := 8) (a := (0 : BitVec 8))
      (f := fun b m => if (s.zu.lines.getD m LineFilter.reset).active then b ||| (1#8 <<< m) else b)
      (motive := fun k b => ∀ m < 8, b.getLsbD m = (decide (m < k) && (s.zu.lines.getD m LineFilter.reset).active))
      (fun m _ => by simp) fun k hk b bits m hm => ?_
    by_cases same : m = k
    · subst same
      split
      case isTrue active => rw [getLsbD_setBit b hk hm, active]; simp
      case isFalse inactive => rw [bits m hm, Bool.eq_false_iff.mpr inactive]; simp
    · have before : decide (m < k + 1) = decide (m < k) := by
        rw [decide_eq_decide]
        omega
      rw [before]
      split
      case isTrue => rw [getLsbD_setBit b hk hm, bits m hm, decide_eq_false same, Bool.or_false]
      case isFalse => exact bits m hm
  rw [bits n hn, List.getD_eq_getElem?_getD, line]
  simp [hn]

section report

variable {b : State}

theorem reportedTake_of_idle (idle : b.tpr.activity = .idle ∨ b.tpr.activity = .live) : b.reportedTake = 0 := by
  unfold State.reportedTake
  rcases idle with is | is <;> rw [is] <;> rfl

theorem reportedTake_of_used {id : Nat} (take : b.tpr.take = some id) (idle : b.tpr.activity ≠ .idle)
    (live : b.tpr.activity ≠ .live) : b.reportedTake = id := by
  unfold State.reportedTake
  rw [take]
  cases activity : b.tpr.activity with
  | idle => exact absurd activity idle
  | live => exact absurd activity live
  | recording | cueing | cued | playing | easing => rfl

theorem reportedCursor_of_played (plays : b.tpr.activity = .playing ∨ b.tpr.activity = .easing) :
    b.reportedCursor = b.tpr.cursor / 4096 := by
  unfold State.reportedCursor
  rcases plays with is | is <;> rw [is]

theorem reportedCursor_of_recording {id : Nat} {k : Take} (records : b.tpr.activity = .recording) (take : b.tpr.take = some id)
    (found : b.findTake id = some k) : b.reportedCursor = k.length := by
  unfold State.reportedCursor
  rw [records, take]
  change (b.findTake id).elim 0 _ = _
  rw [found]
  rfl

theorem reportedCursor_of_other (other : b.tpr.activity = .idle ∨ b.tpr.activity = .live ∨ b.tpr.activity = .cueing ∨
    b.tpr.activity = .cued) : b.reportedCursor = 0 := by
  unfold State.reportedCursor
  rcases other with is | is | is | is <;> rw [is]

end report

/-! ### The channel records noted (R44) -/

theorem noteReports_chan {s : State} (few : s.cfg.nChans ≤ 4) {i : Nat} (hi : i < s.cfg.nChans) :
    (noteReports s).chans.get i = { s.chans.get i with shown := s.chanReport i } := by
  have report {u : State} (chan : u.chans.get i = s.chans.get i) (spl : u.spl = s.spl) (dlu : u.dlu = s.dlu) :
      u.chanReport i = s.chanReport i := by
    unfold State.chanReport
    rw [chan, spl, dlu]
  refine (foldl_channels (f := fun u i => modChan i (fun c => { c with shown := u.chanReport i }) u)
    (side := fun u => u.spl = s.spl ∧ u.dlu = s.dlu) (view := fun u i => u.chans.get i)
    (change := fun i c d => ∃ u : State, u.spl = s.spl ∧ u.dlu = s.dlu ∧ u.chans.get i = c ∧ d = { c with shown := u.chanReport i })
    few (fun u i _ same => by simpa using same) (fun u i hi same => ?own) (fun u i hi j hj ne same => ?other) ⟨rfl, rfl⟩).1 i hi |>.elim
      fun u ⟨spl, dlu, chan, is⟩ => ?_
  case own =>
    refine ⟨u, same.1, same.2, rfl, ?_⟩
    rw [modChan_chans, quad_get_set_of_lt _ _ _ (by omega), if_pos rfl]
  case other => rw [modChan_chans, quad_get_set_of_lt _ _ _ hj, if_neg ne]
  refine Eq.trans is ?_
  rw [report chan spl dlu]

/-! ### The STATE of a frame tick (R42, R195) -/

theorem workOrder_keeps_report_out {order : List TickWork} (absent : .report ∉ order) :
    .report ∉ workOrder order (frameWorkOf order) := fun listed => by
  rw [frameWorkOf_of_absent absent] at listed
  exact absurd ((workOrder_perm order (by decide)).mem_iff.mp listed) (by decide)

theorem placeState_first {r : StateReport} {s : State} (open_ : s.ss.safety.isOpen = true) (empty : s.lif.ordinary = []) :
    (broadcast (.state r) s).lif.ordinary = [{ msg := { dest := 0, body := .state r }, succ := none, active := false }] := by
  refine place_ordinary_of_room open_ (by simp [Body.cls]) ?_
  rw [empty]
  rfl

theorem beginFrame_attention (s : State) : (beginFrame s).attention = s.attention |||
    (if s.ft.frame0 = false ∧ s.ft.tick + 1 < s.cfg.timing.s then 16#16 else 0#16) := by
  unfold beginFrame
  split
  case isTrue => rfl
  case isFalse => simp

/-- The report of a STATE that a frame tick composes first: of the end of the frame that ends, with the attention set of the
frame that begins. -/
def firstReport (before s : State) : StateReport :=
  { before.report before.shownReports with attention := attentionTop (beginFrame s).attention }

/-- Its entry in the ordinary queue. -/
def firstEntry (before s : State) : QEntry :=
  { msg := { dest := 0, body := .state (firstReport before s) }, succ := none, active := false }

section tick

variable {before s : State} {l : LineLevels} {order : List TickWork} (open_ : s.ss.safety.isOpen = true)
  (noPark : s.ru.parkPending = false) (noRestart : s.cl.restartPending = false)
include open_ noPark noRestart

/-- The STATE composed first stands first in the ordinary queue after the tick. -/
theorem frameTick_first (absent : .report ∉ order) (empty : s.lif.ordinary = []) : ∃ rest,
    (frameTick before l order s).lif.ordinary = firstEntry before s :: rest := by
  have begun : (beginFrame s).ss = s.ss ∧ (beginFrame s).lif = s.lif := by simp
  have composed : composeFirst before order (beginFrame s) = broadcast (.state (firstReport before s)) (beginFrame s) := by
    refine (if_neg (by simp [absent])).trans (composeState_of_open before ?_)
    rw [begun.1, open_]
  have counts : s.ss.safety ≠ .loading ∧ s.ss.safety ≠ .parked := by
    obtain ⟨loading, -, parked⟩ := working_of_open open_
    exact ⟨loading, parked⟩
  have first : (frameBegun before order s).lif.ordinary = [firstEntry before s] := by
    rw [frameBegun_lif before order counts, composed]
    exact placeState_first (by rw [begun.1, open_]) (by rw [begun.2, empty])
  have opened := frameBegun_isOpen (before := before) (order := order) open_
  have aligned_ := aligned_works (q := True) opened
  have same : (formRanges (paceTick (frameBegun before order s).ft.frame (advanceBase (aligned (frameBegun before order s))))).ss =
      (aligned (frameBegun before order s)).ss ∧
      (formRanges (paceTick (frameBegun before order s).ft.frame (advanceBase (aligned (frameBegun before order s))))).lif =
      (aligned (frameBegun before order s)).lif := by simp
  obtain ⟨rest, afterAligned⟩ := aligned_.head trivial _ _ first rfl
  have zones := zoneFrameTick_works (q := True)
    (s := formRanges (paceTick (frameBegun before order s).ft.frame (advanceBase (aligned (frameBegun before order s)))))
    (by rw [same.1]; exact aligned_.isOpen opened)
  obtain ⟨rest, afterZones⟩ := zones.head trivial _ rest (by rw [same.2]; exact afterAligned) rfl
  have ready : (frameReady before l order s).lif = (alignFrame (frameBegun before order s)).lif := by simp [frameReady]
  exact (frameTick_works (before := before) (l := l) (q := True) open_ noPark noRestart
    (fun _ => workOrder_keeps_report_out absent)).head trivial _ rest (by rw [ready, alignFrame_eq]; exact afterZones) rfl

theorem frameTick_placed (same : s.attention = before.attention) : StatePlaced l order before s (frameTick before l order s) := by
  refine ⟨fun absent empty => ?first, fun named => ?named⟩
  case first =>
    obtain ⟨rest, queue⟩ := frameTick_first (before := before) (l := l) open_ noPark noRestart absent empty
    refine ⟨firstReport before s, rest, queue, fun u openU attention => ?_⟩
    rw [← same, ← beginFrame_attention] at attention
    rw [composeState_of_open before openU, placeState, attention]
    rfl
  case named =>
    refine ⟨frameReady before l order s, frameTick_of_open open_ noPark noRestart, fun b c split u before_ => ?_⟩
    have openU : u.ss.safety.isOpen = true := by
      rw [before_]
      exact (worked_works (q := False) _ _ _ _ False.elim _).isOpen (frameReady_isOpen open_)
    refine ⟨openU, ?_⟩
    rw [frameTick_of_open open_ noPark noRestart, split, worked_append, ← before_, composeState_of_open before openU]
    exact congrArg (fun w => noteReports (worked before.tickStart l 0 c w)) (if_pos openU)

end tick

theorem StatePlaced.of_retimed {acc watch : Nat} {present : Bool} {attention : BitVec 16} {l : LineLevels}
    {order : List TickWork} {p s t : State} (placed : StatePlaced l order p (retimed acc watch present attention s) t) :
    StatePlaced l order p s t := placed

/-- Settles O30: the reception of a STATE, the STATE of the node, its channel records, and its place in a frame tick. -/
theorem stateMessageFillsRosterAndSlots : Obligations.StateMessageFillsRosterAndSlots := by
  refine ⟨fun h f p a s hear few safety activity full => ⟨_, exec_state_taken hear few safety activity, ?entries, ?fed, ?unfed,
      ?only, fun quiet => ?quiet, fun faulted pinned => ?lost⟩,
    fun h f s hear out => exec_state_refused hear out, fun before s open_ => ⟨_, composeState_of_open before open_, rfl, rfl,
      reportedTake_of_idle, fun id => reportedTake_of_used, reportedCursor_of_played, fun id k => reportedCursor_of_recording,
      reportedCursor_of_other, rfl, rfl, rfl, attentionTop_of_none, fun a => attentionTop_of_least, fun n => zoneBits_getLsbD,
      rfl, rfl, rfl, rfl, rfl⟩,
    fun before s faulted => ?faulted, fun before s silent => ?silent, fun s i few hi => ⟨?noted, by simp [onlyChanges_iff]⟩,
    fun l order s running open_ noRestart noPark => ?tick, fun l order s running used accepted open_ noRestart noPark => ?edge⟩
  case entries =>
    intro e listed station
    have open_ := ((hears_iff h _ s).mp hear).2.1
    rw [takeState_ru] at listed
    obtain ⟨d, there, is⟩ := List.mem_map.mp listed
    obtain ⟨sameStation, -, sameHeard, sameAge⟩ := stated_station (station := h.source.toNat) (f := f) (p := p) (a := a) d
    rw [← is] at station ⊢
    have here : d.station = h.source.toNat := sameStation.symm.trans station
    obtain ⟨heard_, age⟩ := heard_entry open_ there here
    rw [sameHeard, sameAge]
    unfold stated
    rw [if_pos here]
    exact ⟨rfl, rfl, heard_, age⟩
  case fed =>
    intro i w k r slot watched station record live
    have inside : k.channel < f.count.toNat := by
      rw [← full]
      exact (List.getElem?_eq_some_iff.mp record).1
    have slot' : (heard h s).ru.slots[i]? = some w := by rw [heard_slots, slot]
    rw [takeState_ru, stateTaken_slot slot', feedSlot_fed (by simpa using watched) station inside record live]
    exact ⟨_, rfl, rfl, rfl, by rw [getPend_setPend, if_pos rfl]⟩
  case unfed =>
    intro i w k slot watched not
    have slot' : (heard h s).ru.slots[i]? = some w := by rw [heard_slots, slot]
    rw [takeState_ru, stateTaken_slot slot', feedSlot_unfed (by simpa using watched) not]
  case only =>
    have reported : OnlyChanges [.lif, .ru, .attention] s (heard h s) := by simp [onlyChanges_iff]
    exact (reported.mono (by simp)).trans takeState_onlyChanges
  case quiet =>
    have open_ := ((hears_iff h _ s).mp hear).2.1
    rw [takeState_of_quiet (quiet.imp_right fun none_ pinned => ?_)]
    · rfl
    · obtain ⟨e, there, station, pin⟩ := (heard_pinned_iff open_).mp pinned
      exact Bool.false_ne_true ((none_ e there station).symm.trans pin)
  case lost =>
    have open_ := ((hears_iff h _ s).mp hear).2.1
    have pinned' := (heard_pinned_iff (h := h) open_).mpr pinned
    have lost := stateTaken_lost (d := s.dateNow) (f := f) (a := a) faulted pinned' fun e there station =>
      (heard_entry open_ there station).1
    obtain ⟨d, least⟩ : ∃ d, (stateTaken h.source.toNat s.dateNow f p a (heard h s)).lostSet.min? = some d :=
      Option.isSome_iff_exists.mp (List.isSome_min?_of_mem lost)
    obtain ⟨member, low⟩ := List.min?_eq_some_iff.mp least
    have raised : takeState h.source.toNat s.dateNow f p a (heard h s) = raiseOwn .peer d _ :=
      (takeState_of_lost faulted pinned').trans (raisePeer_of_least member low)
    have ss : (stateTaken h.source.toNat s.dateNow f p a (heard h s)).ss = s.ss := by simp [stateTaken]
    have station : (stateTaken h.source.toNat s.dateNow f p a (heard h s)).cfg.station = s.cfg.station := by simp [stateTaken]
    refine ⟨stateTaken h.source.toNat s.dateNow f p a (heard h s), d, ?_, raised, lost, member, low, fun absent room => ?_⟩
    · rw [takeState_ru]
      rfl
    · rw [← ss, ← station] at absent
      rw [← ss] at room
      refine ⟨?_, fun moving => ?_⟩
      · rw [raised, ← station]
        exact raiseOwn_room_finds (by rw [ss, open_]) absent room
      · rw [raised]
        exact raiseOwn_room_stops (by decide) (by rw [ss, moving]) absent room
  case faulted =>
    unfold composeState
    rw [faulted]
    rfl
  case silent =>
    unfold composeState
    rcases silent with is | is <;> rw [is]
  case noted =>
    rw [noteReports_chan few hi]
    refine congrArg (fun r => { s.chans.get i with shown := r }) ?_
    have moving : ((s.chans.get i).v != 0) = decide ((s.chans.get i).v ≠ 0) := Bool.eq_iff_iff.mpr (by simp)
    rw [← moving]
    rfl
  case tick =>
    have placed := frameTick_placed (before := flywheelEnd s) (s := flywheelBegun s) (l := l) (order := order) open_ noPark
      noRestart rfl
    exact ⟨_, flywheelEnd s, _, exec_flywheelTick running, cyclesToFrame_reaches _ _, fun k' less => cyclesToFrame_least _ _ less,
      watchCycles_watched _ s, StatePlaced.of_retimed placed⟩
  case edge =>
    have placed := frameTick_placed (before := s) (s := retimed 0 0 true s.attention s) (l := l) (order := order) open_ noPark
      noRestart rfl
    exact ⟨_, exec_referenceEdge running used accepted, StatePlaced.of_retimed placed⟩

end Sys2Proof.Machine
end

section
/-! The claims of a ROLL, pair by pair (R99): what one claim of another station does to the list, to the overflow condition and
to the safety state, and what the claims of a whole message do (R97, R99, R102, R108). -/

namespace Sys2Proof.Machine

open Sys2Proof

/-! ### One entry changed or added -/

theorem findClaim_setDetail_of_ne {c x : Cause} (ne : x ≠ c) (l : List Claim) (o d : Nat) :
    findClaim (setDetail l o c d) o x = findClaim l o x := by
  induction l with
  | nil => rfl
  | cons e l ih =>
    simp only [findClaim, setDetail, List.map_cons, List.find?_cons] at ih ⊢
    by_cases key : e.hasKey o c = true
    · have other : e.hasKey o x = false := by
        rw [Claim.hasKey_iff] at key
        simp [Claim.hasKey, key.2, ne.symm]
      have other' : Claim.hasKey { e with detail := d } o x = false := other
      simp [key, other, other', ih]
    · simp [key, ih]

theorem findClaim_insertClaim_of_ne {e : Claim} {o : Nat} {x : Cause} (other : e.hasKey o x = false) (l : List Claim) :
    findClaim (insertClaim e l) o x = findClaim l o x := by
  induction l with
  | nil => simp [insertClaim, findClaim, other]
  | cons k l ih =>
    simp only [findClaim, insertClaim] at ih ⊢
    split
    next => simp [other]
    next => simp [List.find?_cons, ih]

theorem filter_setDetail (l : List Claim) (o : Nat) (c : Cause) (d : Nat) :
    ((setDetail l o c d).filter fun k => k.origin != o) = l.filter fun k => k.origin != o := by
  induction l with
  | nil => rfl
  | cons e l ih =>
    simp only [setDetail, List.map_cons] at ih ⊢
    by_cases key : e.hasKey o c = true
    · obtain ⟨origin, -⟩ := (Claim.hasKey_iff e o c).1 key
      simp [key, origin, ih]
    · simp [key, ih, List.filter_cons]

theorem filter_insertClaim (e : Claim) (l : List Claim) :
    ((insertClaim e l).filter fun k => k.origin != e.origin) = l.filter fun k => k.origin != e.origin := by
  induction l with
  | nil => simp [insertClaim]
  | cons k l ih =>
    simp only [insertClaim]
    split
    next => simp
    next => simp [List.filter_cons, ih]

/-! ### One claim of another station -/

section one

variable {o d : Nat} {c x : Cause} {s : State}

/-- The list after a claim of another station: a detail replaced, an entry added, or the list as it was. -/
theorem remoteClaim_claims (o : Nat) (c : Cause) (d : Nat) (s : State) :
    ((remoteClaim o c d s).ss.claims = setDetail s.ss.claims o c d ∧ findClaim s.ss.claims o c ≠ none) ∨
    ((remoteClaim o c d s).ss.claims =
        insertClaim { origin := o, cause := c, detail := d, latched := false } s.ss.claims ∧
      findClaim s.ss.claims o c = none ∧ s.ss.claims.length < 32) ∨
    ((remoteClaim o c d s).ss.claims = s.ss.claims ∧ findClaim s.ss.claims o c = none ∧ 32 ≤ s.ss.claims.length) := by
  cases stands : findClaim s.ss.claims o c with
  | some e => exact .inl ⟨by rw [remoteClaim_of_standing stands], by simp⟩
  | none =>
    rcases Nat.lt_or_ge s.ss.claims.length 32 with room | full
    · exact .inr (.inl ⟨remoteClaim_of_room_claims stands room d, rfl, room⟩)
    · exact .inr (.inr ⟨by rw [remoteClaim_of_full stands full, refuseClaim_claims], rfl, full⟩)

theorem remoteClaim_filter : ((remoteClaim o c d s).ss.claims.filter fun k => k.origin != o) =
    s.ss.claims.filter fun k => k.origin != o := by
  rcases remoteClaim_claims o c d s with ⟨claims, -⟩ | ⟨claims, -, -⟩ | ⟨claims, -, -⟩
  · rw [claims, filter_setDetail]
  · rw [claims]
    exact filter_insertClaim { origin := o, cause := c, detail := d, latched := false } _
  · rw [claims]

theorem remoteClaim_length : (remoteClaim o c d s).ss.claims.length ≤ s.ss.claims.length + 1 := by
  rcases remoteClaim_claims o c d s with ⟨claims, -⟩ | ⟨claims, -, -⟩ | ⟨claims, -, -⟩ <;>
    simp [claims, length_setDetail, length_insertClaim]

theorem remoteClaim_finds_other (ne : x ≠ c) :
    findClaim (remoteClaim o c d s).ss.claims o x = findClaim s.ss.claims o x := by
  rcases remoteClaim_claims o c d s with ⟨claims, -⟩ | ⟨claims, -, -⟩ | ⟨claims, -, -⟩
  · rw [claims, findClaim_setDetail_of_ne ne]
  · rw [claims, findClaim_insertClaim_of_ne (by simp [Claim.hasKey, ne.symm])]
  · rw [claims]

/-- The entry of the claim itself: it stands with the detail stated if it stood or has room. -/
theorem remoteClaim_finds (may : findClaim s.ss.claims o c ≠ none ∨ s.ss.claims.length < 32) :
    ∃ k, findClaim (remoteClaim o c d s).ss.claims o c = some k ∧ k.detail = d := by
  rcases remoteClaim_claims o c d s with ⟨claims, stands⟩ | ⟨claims, absent, -⟩ | ⟨-, absent, full⟩
  · obtain ⟨e, found⟩ := Option.ne_none_iff_exists'.1 stands
    exact ⟨_, by rw [claims, findClaim_setDetail, found]; rfl, rfl⟩
  · exact ⟨_, by rw [claims]; exact findClaim_insertClaim _ _ absent, rfl⟩
  · rcases may with stands | room
    · exact absurd absent stands
    · omega

theorem remoteClaim_present (stands : findClaim s.ss.claims o x ≠ none) :
    findClaim (remoteClaim o c d s).ss.claims o x ≠ none := by
  by_cases same : x = c
  · subst same
    obtain ⟨k, found, -⟩ := remoteClaim_finds (d := d) (.inl stands)
    simp [found]
  · rwa [remoteClaim_finds_other same]

/-- No entry of a key of another station becomes latched. -/
theorem remoteClaim_unlatched (clear : ∀ k, findClaim s.ss.claims o x = some k → k.latched = false) (k : Claim)
    (found : findClaim (remoteClaim o c d s).ss.claims o x = some k) : k.latched = false := by
  by_cases same : x = c
  · subst same
    rcases remoteClaim_claims o x d s with ⟨claims, -⟩ | ⟨claims, absent, -⟩ | ⟨claims, -, -⟩
    · rw [claims, findClaim_setDetail, Option.map_eq_some_iff] at found
      obtain ⟨e, stood, rfl⟩ := found
      exact clear e stood
    · rw [claims] at found
      obtain rfl := Option.some.inj ((findClaim_insertClaim _ _ absent).symm.trans found)
      rfl
    · exact clear k (claims ▸ found)
  · exact clear k (remoteClaim_finds_other same ▸ found)

/-- Every entry stays, and stays as it is unless its own detail is stated. -/
theorem remoteClaim_retains {k : Claim} (listed : k ∈ s.ss.claims) : ∃ k' ∈ (remoteClaim o c d s).ss.claims,
    k'.origin = k.origin ∧ k'.cause = k.cause ∧ (c ≠ k.cause → k' = k) := by
  rcases remoteClaim_claims o c d s with ⟨claims, -⟩ | ⟨claims, -, -⟩ | ⟨claims, -, -⟩
  · rw [claims, setDetail]
    refine ⟨_, List.mem_map_of_mem listed, ?_⟩
    by_cases key : k.hasKey o c = true
    · rw [if_pos key]
      exact ⟨rfl, rfl, fun other => absurd ((Claim.hasKey_iff k o c).1 key).2.symm other⟩
    · rw [if_neg key]
      exact ⟨rfl, rfl, fun _ => rfl⟩
  · exact ⟨k, by rw [claims]; exact (mem_insertClaim _ _ _).2 (.inr listed), rfl, rfl, fun _ => rfl⟩
  · exact ⟨k, claims ▸ listed, rfl, rfl, fun _ => rfl⟩

/-- At a full list a key that does not stand stays away. -/
theorem remoteClaim_stays_full (full : 32 ≤ s.ss.claims.length ∧ findClaim s.ss.claims o x = none) :
    32 ≤ (remoteClaim o c d s).ss.claims.length ∧ findClaim (remoteClaim o c d s).ss.claims o x = none := by
  obtain ⟨length, absent⟩ := full
  rcases remoteClaim_claims o c d s with ⟨claims, stands⟩ | ⟨-, -, room⟩ | ⟨claims, -, -⟩
  · have ne : x ≠ c := by
      rintro rfl
      exact stands absent
    exact ⟨by rw [claims, length_setDetail]; exact length, by rw [claims, findClaim_setDetail_of_ne ne]; exact absent⟩
  · omega
  · rw [claims]
    exact ⟨length, absent⟩

/-- The node does not move: it is in STOPPING with the activity IDLE. -/
def Stopped (s : State) : Prop := s.ss.safety = .stopping ∧ s.tpr.activity = .idle

/-- A claim whose key is new stops a moving node, whether it is stored or refused (R102, R108). -/
theorem remoteClaim_stops (absent : findClaim s.ss.claims o c = none) (moving : s.ss.safety.canStop = true) :
    Stopped (remoteClaim o c d s) := by
  rcases Nat.lt_or_ge s.ss.claims.length 32 with room | full
  · exact remoteClaim_of_room_stops absent room moving d
  · rw [remoteClaim_of_full absent full]
    refine ⟨refuseClaim_safety moving, ?_⟩
    rw [refuseClaim_eq, stopIfMoving_of_canStop (s := overflowed s) moving, enterStopping_activity]

theorem remoteClaim_still (still : s.ss.safety.canStop = false) :
    (remoteClaim o c d s).ss.safety = s.ss.safety ∧ (remoteClaim o c d s).tpr = s.tpr := by
  cases stands : findClaim s.ss.claims o c with
  | some e =>
    rw [remoteClaim_of_standing stands]
    exact ⟨rfl, rfl⟩
  | none =>
    rcases Nat.lt_or_ge s.ss.claims.length 32 with room | full
    · rw [remoteClaim_of_room_of_not_canStop stands room still]
      exact ⟨rfl, rfl⟩
    · rw [remoteClaim_of_full stands full, refuseClaim_eq, stopIfMoving_of_not_canStop (s := overflowed s) still]
      exact ⟨rfl, rfl⟩

theorem remoteClaim_stopped (stopped : Stopped s) : Stopped (remoteClaim o c d s) := by
  obtain ⟨safety, activity⟩ := stopped
  obtain ⟨safety', tpr⟩ := remoteClaim_still (o := o) (c := c) (d := d) (s := s) (by rw [safety]; rfl)
  exact ⟨safety'.trans safety, by rw [tpr, activity]⟩

/-- The overflow condition stands with its quiet count at 0 and CLAIM-OVERFLOW raised (R102). -/
def Overflows (s : State) : Prop :=
  s.ss.overflow = true ∧ s.ss.overflowQuiet = 0 ∧ attentionHas s.attention .claimOverflow = true

theorem remoteClaim_overflows (overflows : Overflows s) : Overflows (remoteClaim o c d s) := by
  cases stands : findClaim s.ss.claims o c with
  | some e =>
    rw [remoteClaim_of_standing stands]
    exact overflows
  | none =>
    rcases Nat.lt_or_ge s.ss.claims.length 32 with room | full
    · rw [remoteClaim_of_room stands room]
      obtain ⟨overflow, quiet, raised⟩ := overflows
      exact stopIfMoving_overflow overflow quiet raised
    · rw [remoteClaim_of_full stands full]
      exact refuseClaim_overflow s

/-- A claim leaves the Pace Unit but for its pending ease settings. -/
theorem remoteClaim_pu : (remoteClaim o c d s).pu = { s.pu with easePend := (remoteClaim o c d s).pu.easePend } := by
  cases stands : findClaim s.ss.claims o c with
  | some e => rw [remoteClaim_of_standing stands]
  | none =>
    rcases Nat.lt_or_ge s.ss.claims.length 32 with room | full
    · rw [remoteClaim_of_room stands room]
      exact (stopIfMoving_works (q := False) _).pu
    · rw [remoteClaim_of_full stands full, refuseClaim_eq]
      exact (stopIfMoving_works (q := False) (overflowed s)).pu

theorem remoteClaim_isOpen (open_ : s.ss.safety.isOpen = true) : (remoteClaim o c d s).ss.safety.isOpen = true := by
  cases stands : findClaim s.ss.claims o c with
  | some e =>
    rw [remoteClaim_of_standing stands]
    exact open_
  | none =>
    rcases Nat.lt_or_ge s.ss.claims.length 32 with room | full
    · rw [remoteClaim_of_room stands room]
      exact stopIfMoving_isOpen open_
    · rw [remoteClaim_of_full stands full, refuseClaim_eq]
      exact stopIfMoving_isOpen (s := overflowed s) open_

theorem remoteClaim_isControl (n : Nat) : (remoteClaim o c d s).isControl n = s.isControl n := by
  simp [State.isControl]

end one

/-! ### The claims of a message -/

/-- The claims of the pairs applied in order (R99). -/
def claimed (o : Nat) (pairs : List (Byte × Byte)) (s : State) : State :=
  pairs.foldl (fun u p => takeClaim o p.1.toNat p.2.toNat u) s

/-- Station `o` may state a cause: OPERATOR is for control stations (R97). -/
def MayState (s : State) (o : Nat) (c : Cause) : Prop := c = .operator → s.isControl o = true

section pairs

variable {o : Nat} {pairs : List (Byte × Byte)} {c : Cause} {s : State}

theorem claimed_cons (p : Byte × Byte) : claimed o (p :: pairs) s = claimed o pairs (takeClaim o p.1.toNat p.2.toNat s) := rfl

theorem claimed_append (before after : List (Byte × Byte)) :
    claimed o (before ++ after) s = claimed o after (claimed o before s) := List.foldl_append

theorem admittedCause_iff {code : Nat} : s.admittedCause o code = some c ↔ Cause.ofCode code = some c ∧ MayState s o c := by
  unfold State.admittedCause MayState
  cases Cause.ofCode code with
  | none => simp
  | some x =>
    rw [Option.bind_some]
    split
    next foreign =>
      obtain ⟨operator, other⟩ := foreign
      constructor
      · nofun
      · rintro ⟨same, may⟩
        obtain rfl := Option.some.inj same
        rw [may operator] at other
        exact nomatch other
    next allowed =>
      constructor
      · intro same
        obtain rfl := Option.some.inj same
        exact ⟨rfl, fun operator => by simpa [operator] using allowed⟩
      · exact And.left

/-- A pair applied: its claim, or nothing when its cause is one that the station may not state (R97). -/
theorem takeClaim_eq (o cause d : Nat) (s : State) : takeClaim o cause d s = s ∨
    ∃ c, Cause.ofCode cause = some c ∧ MayState s o c ∧ takeClaim o cause d s = remoteClaim o c d s := by
  cases admitted : s.admittedCause o cause with
  | none => exact .inl (by simp [takeClaim, admitted])
  | some c =>
    obtain ⟨code, may⟩ := admittedCause_iff.1 admitted
    exact .inr ⟨c, code, may, takeClaim_of_admitted code may d⟩

theorem takeClaim_isControl (cause d n : Nat) : (takeClaim o cause d s).isControl n = s.isControl n := by
  simp [State.isControl]

/-- What every claim that the pairs state keeps, the whole message keeps. -/
theorem claimed_keeps {P : State → Prop} (start : P s) (step : ∀ p ∈ pairs, ∀ c, Cause.ofCode p.1.toNat = some c →
    MayState s o c → ∀ u, P u → P (remoteClaim o c p.2.toNat u)) : P (claimed o pairs s) := by
  induction pairs generalizing s with
  | nil => exact start
  | cons p pairs ih =>
    rw [claimed_cons]
    have rest : ∀ q ∈ pairs, ∀ c, Cause.ofCode q.1.toNat = some c →
        MayState (takeClaim o p.1.toNat p.2.toNat s) o c → ∀ u, P u → P (remoteClaim o c q.2.toNat u) :=
      fun q listed c code may => step q (List.mem_cons_of_mem p listed) c code
        (fun operator => by rw [← takeClaim_isControl (s := s) p.1.toNat p.2.toNat o]; exact may operator)
    refine ih ?_ rest
    rcases takeClaim_eq o p.1.toNat p.2.toNat s with none_ | ⟨c, code, may, applied⟩
    · rwa [none_]
    · rw [applied]
      exact step p List.mem_cons_self c code may s start

theorem claimed_isControl (n : Nat) : (claimed o pairs s).isControl n = s.isControl n :=
  claimed_keeps (P := fun u => u.isControl n = s.isControl n) rfl
    fun _ _ _ _ _ _ same => (remoteClaim_isControl n).trans same

theorem claimed_filter : ((claimed o pairs s).ss.claims.filter fun k => k.origin != o) =
    s.ss.claims.filter fun k => k.origin != o :=
  claimed_keeps (P := fun u => (u.ss.claims.filter fun k => k.origin != o) = s.ss.claims.filter fun k => k.origin != o) rfl
    fun _ _ _ _ _ _ same => remoteClaim_filter.trans same

theorem claimed_length : (claimed o pairs s).ss.claims.length ≤ s.ss.claims.length + pairs.length := by
  induction pairs generalizing s with
  | nil => exact Nat.le_refl _
  | cons p pairs ih =>
    rw [claimed_cons, List.length_cons]
    have rest := ih (s := takeClaim o p.1.toNat p.2.toNat s)
    rcases takeClaim_eq o p.1.toNat p.2.toNat s with none_ | ⟨c, -, -, applied⟩
    · rw [none_] at rest ⊢
      omega
    · rw [applied] at rest ⊢
      have one := remoteClaim_length (o := o) (c := c) (d := p.2.toNat) (s := s)
      omega

theorem claimed_present (stands : findClaim s.ss.claims o c ≠ none) : findClaim (claimed o pairs s).ss.claims o c ≠ none :=
  claimed_keeps (P := fun u => findClaim u.ss.claims o c ≠ none) stands fun _ _ _ _ _ _ => remoteClaim_present

theorem claimed_unlatched (clear : ∀ k, findClaim s.ss.claims o c = some k → k.latched = false) (k : Claim)
    (found : findClaim (claimed o pairs s).ss.claims o c = some k) : k.latched = false :=
  claimed_keeps (P := fun u => ∀ k, findClaim u.ss.claims o c = some k → k.latched = false) clear
    (fun _ _ _ _ _ _ => remoteClaim_unlatched) k found

theorem claimed_finds_other (other : ∀ q ∈ pairs, Cause.ofCode q.1.toNat ≠ some c) :
    findClaim (claimed o pairs s).ss.claims o c = findClaim s.ss.claims o c :=
  claimed_keeps (P := fun u => findClaim u.ss.claims o c = findClaim s.ss.claims o c) rfl
    fun q listed x code _ _ same => (remoteClaim_finds_other (by
      rintro rfl
      exact other q listed code)).trans same

/-- The state in which a pair that names an admitted cause leaves its key. -/
theorem claimed_split {before after : List (Byte × Byte)} {p : Byte × Byte} (code : Cause.ofCode p.1.toNat = some c)
    (may : MayState s o c) : claimed o (before ++ p :: after) s =
      claimed o after (remoteClaim o c p.2.toNat (claimed o before s)) := by
  rw [claimed_append, claimed_cons,
    takeClaim_of_admitted code (fun operator => by rw [claimed_isControl]; exact may operator)]

/-- The key of a pair stands after it if it stood or has room. -/
theorem claimed_finds_at {before after : List (Byte × Byte)} {p : Byte × Byte}
    (fits : findClaim s.ss.claims o c ≠ none ∨ s.ss.claims.length + (before ++ p :: after).length ≤ 32) :
    ∃ k, findClaim (remoteClaim o c p.2.toNat (claimed o before s)).ss.claims o c = some k ∧ k.detail = p.2.toNat := by
  refine remoteClaim_finds ?_
  rcases fits with stands | room
  · exact .inl (claimed_present stands)
  · have grown := claimed_length (o := o) (pairs := before) (s := s)
    rw [List.length_append, List.length_cons] at room
    exact .inr (by omega)

/-- The entry of a stated key, with the detail of the last pair that names it (R99). -/
theorem claimed_finds (may : MayState s o c) (named : ∃ p ∈ pairs, Cause.ofCode p.1.toNat = some c)
    (fits : findClaim s.ss.claims o c ≠ none ∨ s.ss.claims.length + pairs.length ≤ 32) :
    ∃ k, findClaim (claimed o pairs s).ss.claims o c = some k ∧
      ∀ before p after, pairs = before ++ p :: after → Cause.ofCode p.1.toNat = some c →
        (∀ q ∈ after, Cause.ofCode q.1.toNat ≠ some c) → k.detail = p.2.toNat := by
  obtain ⟨k, found⟩ : ∃ k, findClaim (claimed o pairs s).ss.claims o c = some k := by
    obtain ⟨p, listed, code⟩ := named
    obtain ⟨before, after, rfl⟩ := List.append_of_mem listed
    obtain ⟨k, found, -⟩ := claimed_finds_at (p := p) fits
    rw [claimed_split code may, ← Option.ne_none_iff_exists']
    exact claimed_present (by simp [found])
  refine ⟨k, found, fun before p after split code last => ?_⟩
  subst split
  obtain ⟨k', found', detail⟩ := claimed_finds_at (p := p) fits
  rw [claimed_split code may, claimed_finds_other last, found'] at found
  rw [← Option.some.inj found, detail]

theorem claimed_stopped (stopped : Stopped s) : Stopped (claimed o pairs s) :=
  claimed_keeps (P := Stopped) stopped fun _ _ _ _ _ _ => remoteClaim_stopped

/-- A stated key that is new stops a moving node (R108). -/
theorem claimed_stops (may : MayState s o c) (named : ∃ p ∈ pairs, Cause.ofCode p.1.toNat = some c)
    (absent : findClaim s.ss.claims o c = none) (moving : s.ss.safety.canStop = true) : Stopped (claimed o pairs s) := by
  induction pairs generalizing s with
  | nil => simp at named
  | cons p pairs ih =>
    rw [claimed_cons]
    obtain here | later := List.exists_mem_cons_iff .. |>.1 named
    · rw [takeClaim_of_admitted here may]
      exact claimed_stopped (remoteClaim_stops absent moving)
    · rcases takeClaim_eq o p.1.toNat p.2.toNat s with none_ | ⟨x, -, -, applied⟩
      · rw [none_]
        exact ih may later absent moving
      · rw [applied]
        cases stands : findClaim s.ss.claims o x with
        | none => exact claimed_stopped (remoteClaim_stops stands moving)
        | some e =>
          have ne : c ≠ x := by
            rintro rfl
            simp [absent] at stands
          refine ih ?_ later ((remoteClaim_finds_other ne).trans absent) ?_
          · exact fun operator => (remoteClaim_isControl o).trans (may operator)
          · rwa [remoteClaim_of_standing stands]

/-- A stated key that is new is refused at a full list (R102). -/
theorem claimed_refuses (may : MayState s o c) (named : ∃ p ∈ pairs, Cause.ofCode p.1.toNat = some c)
    (absent : findClaim s.ss.claims o c = none) (full : 32 ≤ s.ss.claims.length) :
    findClaim (claimed o pairs s).ss.claims o c = none ∧ Overflows (claimed o pairs s) := by
  have stays (few : List (Byte × Byte)) :
      32 ≤ (claimed o few s).ss.claims.length ∧ findClaim (claimed o few s).ss.claims o c = none :=
    claimed_keeps (P := fun u => 32 ≤ u.ss.claims.length ∧ findClaim u.ss.claims o c = none) ⟨full, absent⟩
      fun _ _ _ _ _ _ => remoteClaim_stays_full
  refine ⟨(stays pairs).2, ?_⟩
  obtain ⟨p, listed, code⟩ := named
  obtain ⟨before, after, rfl⟩ := List.append_of_mem listed
  obtain ⟨full', absent'⟩ := stays before
  rw [claimed_split code may, remoteClaim_of_full absent' full']
  exact claimed_keeps (P := Overflows) (refuseClaim_overflow _) fun _ _ _ _ _ _ => remoteClaim_overflows

theorem claimed_still (still : s.ss.safety.canStop = false) : (claimed o pairs s).ss.safety = s.ss.safety :=
  claimed_keeps (P := fun u => u.ss.safety = s.ss.safety) rfl
    fun _ _ _ _ _ u same => (remoteClaim_still (s := u) (by rw [same, still])).1.trans same

/-- When every stated key stands, the details alone change. -/
theorem claimed_of_standing (stand : ∀ p ∈ pairs, ∀ c, Cause.ofCode p.1.toNat = some c → MayState s o c →
    findClaim s.ss.claims o c ≠ none) : claimed o pairs s = { s with ss.claims := (claimed o pairs s).ss.claims } := by
  have kept := claimed_keeps (o := o) (pairs := pairs) (s := s)
    (P := fun u => u = { s with ss.claims := u.ss.claims } ∧
      ∀ x, findClaim s.ss.claims o x ≠ none → findClaim u.ss.claims o x ≠ none)
    ⟨rfl, fun _ => id⟩ fun p listed x code may u same => ?step
  case step =>
    obtain ⟨same, present⟩ := same
    refine ⟨?_, fun y stands => remoteClaim_present (present y stands)⟩
    obtain ⟨e, found⟩ := Option.ne_none_iff_exists'.1 (present x (stand p listed x code may))
    rw [remoteClaim_of_standing found]
    rw [same]
  exact kept.1

/-- An entry stays, and stays as it is unless a pair names its cause. -/
theorem claimed_retains {k : Claim} (listed : k ∈ s.ss.claims) : ∃ k' ∈ (claimed o pairs s).ss.claims,
    k'.origin = k.origin ∧ k'.cause = k.cause ∧ ((∀ p ∈ pairs, Cause.ofCode p.1.toNat ≠ some k.cause) → k' = k) :=
  claimed_keeps (P := fun u => ∃ k' ∈ u.ss.claims,
      k'.origin = k.origin ∧ k'.cause = k.cause ∧ ((∀ p ∈ pairs, Cause.ofCode p.1.toNat ≠ some k.cause) → k' = k))
    ⟨k, listed, rfl, rfl, fun _ => rfl⟩ fun p stated x code _ u ⟨k₁, listed₁, origin₁, cause₁, same₁⟩ => by
      obtain ⟨k₂, listed₂, origin₂, cause₂, same₂⟩ :=
        remoteClaim_retains (o := o) (c := x) (d := p.2.toNat) listed₁
      refine ⟨k₂, listed₂, origin₂.trans origin₁, cause₂.trans cause₁, fun unnamed => ?_⟩
      have other : x ≠ k₁.cause := by
        rintro rfl
        exact unnamed p stated (cause₁ ▸ code)
      rw [same₂ other, same₁ unnamed]

theorem claimed_pu : (claimed o pairs s).pu = { s.pu with easePend := (claimed o pairs s).pu.easePend } :=
  claimed_keeps (P := fun u => u.pu = { s.pu with easePend := u.pu.easePend }) rfl
    fun _ _ _ _ _ _ same => remoteClaim_pu.trans (by rw [same])

theorem claimed_isOpen (open_ : s.ss.safety.isOpen = true) : (claimed o pairs s).ss.safety.isOpen = true :=
  claimed_keeps (P := fun u => u.ss.safety.isOpen = true) open_ fun _ _ _ _ _ _ => remoteClaim_isOpen

theorem claimed_onlyChanges : OnlyChanges [.lif, .chans, .ss, .pu, .ts, .tpr, .attention] s (claimed o pairs s) :=
  claimed_keeps (P := fun u => OnlyChanges [.lif, .chans, .ss, .pu, .ts, .tpr, .attention] s u) (by simp [onlyChanges_iff])
    fun p _ x _ _ u only => only.trans (remoteClaim_onlyChanges o x p.2.toNat u)

end pairs

end Sys2Proof.Machine
end

section
/-! ROLL (R99, R101, R123): what a node takes of a ROLL of another station, and the composition of its own. -/

namespace Sys2Proof.Machine

open Sys2Proof

/-! ### The factor (R123) -/

/-- The parts of the Pace Unit that a PACE sets are the same. -/
def AlikePaced (s t : State) : Prop :=
  t.pu.entries = s.pu.entries ∧ t.pu.floor = s.pu.floor ∧ t.pu.floorPend = s.pu.floorPend ∧ t.pu.floorQuiet = s.pu.floorQuiet

/-- A factor is taken alike by two nodes in open states that agree in these parts. -/
theorem takeFactor_alikePaced {s t : State} (openS : s.ss.safety.isOpen = true) (openT : t.ss.safety.isOpen = true)
    (same : AlikePaced s t) (o v : Nat) (d : FrameNo) : AlikePaced (takeFactor o v d s) (takeFactor o v d t) := by
  have all := same
  obtain ⟨entries, floor, pend, quiet⟩ := same
  by_cases outside : v = 0 ∨ 16 < v
  · rw [takeFactor_of_outside outside, takeFactor_of_outside outside]
    exact all
  obtain ⟨low, high⟩ : 1 ≤ v ∧ v ≤ 16 := by omega
  cases known : s.pu.entries.any fun e => e.origin == o with
  | true =>
    rw [takeFactor_of_known openS low high known, takeFactor_of_known openT low high (entries ▸ known)]
    exact ⟨by rw [entries], floor, pend, quiet⟩
  | false =>
    rcases Nat.lt_or_eq_of_le high with below | rfl
    · rcases Nat.lt_or_ge s.pu.entries.length 32 with room | full
      · rw [takeFactor_of_room openS low (by omega) known room,
          takeFactor_of_room openT low (by omega) (entries ▸ known) (entries ▸ room)]
        exact ⟨by rw [entries], floor, pend, quiet⟩
      · rw [takeFactor_of_full openS low (by omega) known full,
          takeFactor_of_full openT low (by omega) (entries ▸ known) (entries ▸ full)]
        exact ⟨entries, floor, by simp [refuseFactor, pend], quiet⟩
    · rw [takeFactor_of_withdrawal known, takeFactor_of_withdrawal (entries ▸ known)]
      exact all

theorem attentionHas_takeFactor {s : State} {a : Attention} (present : attentionHas s.attention a = true) (o v : Nat)
    (d : FrameNo) : attentionHas (takeFactor o v d s).attention a = true := by
  have refused : attentionHas (refuseFactor v d s).attention a = true := attentionHas_attentionRaise present _
  unfold takeFactor
  repeat' split
  all_goals assumption

theorem takeFactor_onlyChanges (o v : Nat) (d : FrameNo) (s : State) :
    OnlyChanges [.pu, .attention] s (takeFactor o v d s) := by
  simp [onlyChanges_iff]

/-! ### The claims of a ROLL (R99) -/

section claims

variable {o : Nat} {more : Bool} {pairs : List (Byte × Byte)} {c : Cause} {s : State}

theorem mem_rollCauses : c ∈ s.rollCauses o pairs ↔ MayState s o c ∧ ∃ p ∈ pairs, Cause.ofCode p.1.toNat = some c := by
  unfold State.rollCauses
  rw [List.mem_filterMap]
  constructor
  · rintro ⟨p, listed, admitted⟩
    obtain ⟨code, may⟩ := admittedCause_iff.1 admitted
    exact ⟨may, p, listed, code⟩
  · rintro ⟨may, p, listed, code⟩
    exact ⟨p, listed, admittedCause_iff.2 ⟨code, may⟩⟩

/-- A ROLL leaves an entry: MORE is set, the entry is of another station, or the ROLL states its cause. -/
def rollLeaves (o : Nat) (more : Bool) (pairs : List (Byte × Byte)) (s : State) (e : Claim) : Bool :=
  more || (e.origin != o || (s.rollCauses o pairs).contains e.cause)

/-- The claims are applied in order, and the entries of the station that are not stated are removed. -/
theorem takeRoll_eq : takeRoll o more pairs s = { claimed o pairs s with
    ss.claims := (claimed o pairs s).ss.claims.filter (rollLeaves o more pairs s) } := by
  unfold takeRoll rollLeaves
  cases more with
  | true =>
    simp only [Bool.true_or, List.filter_true]
    rfl
  | false => rfl

theorem takeRoll_claims :
    (takeRoll o more pairs s).ss.claims = (claimed o pairs s).ss.claims.filter (rollLeaves o more pairs s) := by
  rw [takeRoll_eq]

theorem takeRoll_safety : (takeRoll o more pairs s).ss.safety = (claimed o pairs s).ss.safety := by rw [takeRoll_eq]

theorem rollLeaves_other {e : Claim} (other : (e.origin != o) = true) : rollLeaves o more pairs s e = true := by
  simp [rollLeaves, other]

theorem rollLeaves_stated {e : Claim} (may : MayState s o e.cause)
    (named : ∃ p ∈ pairs, Cause.ofCode p.1.toNat = some e.cause) : rollLeaves o more pairs s e = true := by
  simp [rollLeaves, mem_rollCauses.2 ⟨may, named⟩]

theorem takeRoll_filter : ((takeRoll o more pairs s).ss.claims.filter fun k => k.origin != o) =
    s.ss.claims.filter fun k => k.origin != o := by
  rw [takeRoll_claims, List.filter_filter, ← claimed_filter (pairs := pairs)]
  refine List.filter_congr fun k _ => ?_
  cases other : k.origin != o with
  | true => rw [rollLeaves_other other, Bool.and_self]
  | false => rfl

/-- The entry of a stated cause is the one that the claims have left. -/
theorem takeRoll_finds (may : MayState s o c) (named : ∃ p ∈ pairs, Cause.ofCode p.1.toNat = some c) :
    findClaim (takeRoll o more pairs s).ss.claims o c = findClaim (claimed o pairs s).ss.claims o c := by
  rw [takeRoll_claims, findClaim, findClaim, List.find?_filter]
  refine congrArg (List.find? · _) (funext fun k => ?_)
  cases key : k.hasKey o c with
  | true =>
    obtain ⟨-, rfl⟩ := (Claim.hasKey_iff k o c).1 key
    simp [rollLeaves_stated may named]
  | false => simp

/-- With MORE clear the entries of the station are those of the stated causes. -/
theorem takeRoll_states {k : Claim} (listed : k ∈ (takeRoll o false pairs s).ss.claims) (origin : k.origin = o) :
    MayState s o k.cause ∧ ∃ p ∈ pairs, Cause.ofCode p.1.toNat = some k.cause := by
  rw [takeRoll_claims, List.mem_filter] at listed
  obtain ⟨-, left⟩ := listed
  exact mem_rollCauses.1 (by simpa [rollLeaves, origin] using left)

/-- An entry of the station that MORE or a stated cause keeps. -/
theorem takeRoll_retains {k : Claim} (listed : k ∈ s.ss.claims)
    (kept : more = true ∨ MayState s o k.cause ∧ ∃ p ∈ pairs, Cause.ofCode p.1.toNat = some k.cause) :
    ∃ k' ∈ (takeRoll o more pairs s).ss.claims, k'.origin = k.origin ∧ k'.cause = k.cause ∧
      ((∀ p ∈ pairs, Cause.ofCode p.1.toNat ≠ some k.cause) → k' = k) := by
  obtain ⟨k', listed', origin, cause, same⟩ := claimed_retains (o := o) (pairs := pairs) listed
  have left : rollLeaves o more pairs s k' = true := by
    rcases kept with set | ⟨may, named⟩
    · simp [rollLeaves, set]
    · exact rollLeaves_stated (cause ▸ may) (cause ▸ named)
  exact ⟨k', by rw [takeRoll_claims]; exact List.mem_filter.2 ⟨listed', left⟩, origin, cause, same⟩

/-- Without pairs and with MORE clear the station has no entry left. -/
theorem takeRoll_empty : (takeRoll o false [] s).ss.claims = s.ss.claims.filter fun k => k.origin != o := by
  rw [takeRoll_claims]
  exact List.filter_congr fun k _ => by simp [rollLeaves, State.rollCauses]

theorem takeRoll_of_standing (stand : ∀ p ∈ pairs, ∀ c, Cause.ofCode p.1.toNat = some c → MayState s o c →
    findClaim s.ss.claims o c ≠ none) :
    takeRoll o more pairs s = { s with ss.claims := (takeRoll o more pairs s).ss.claims } := by
  rw [takeRoll_claims, takeRoll_eq, claimed_of_standing stand]

theorem takeRoll_alikePaced : AlikePaced s (takeRoll o more pairs s) := by
  have kept : (takeRoll o more pairs s).pu = (claimed o pairs s).pu := by rw [takeRoll_eq]
  unfold AlikePaced
  rw [kept, claimed_pu]
  exact ⟨rfl, rfl, rfl, rfl⟩

theorem takeRoll_isOpen (open_ : s.ss.safety.isOpen = true) : (takeRoll o more pairs s).ss.safety.isOpen = true := by
  rw [takeRoll_safety]
  exact claimed_isOpen open_

theorem takeRoll_onlyChanges :
    OnlyChanges [.lif, .chans, .ss, .pu, .ts, .tpr, .attention] s (takeRoll o more pairs s) := by
  rw [takeRoll_eq]
  exact claimed_onlyChanges.trans ((withClaims_onlyChanges _ _).mono (by simp))

end claims

/-! ### The message at a node that hears it -/

section message

variable {h : Header} {more : Bool} {count : BitVec 5} {factor : Byte} {pairs : List (Byte × Byte)} {s : State}

/-- The node after a ROLL that it takes. -/
def rollTaken (h : Header) (more : Bool) (factor : Byte) (pairs : List (Byte × Byte)) (s : State) : State :=
  takeFactor h.source.toNat factor.toNat s.dateNow (takeRoll h.source.toNat more pairs (heard h s))

theorem exec_roll_of_hears (taken : hears h (2 + 2 * count.toNat) s = true) (few : count.toNat ≤ 20)
    (length : pairs.length = count.toNat) :
    exec (.roll h more count factor pairs) s = .next (rollTaken h more factor pairs s) := by
  refine (broadcastKind_of_hears h _ _ s taken).trans (congrArg Host.Outcome.next ((if_pos few).trans ?_))
  rw [heard_dateNow, List.take_of_length_le (by omega)]
  rfl

theorem rollTaken_ss : (rollTaken h more factor pairs s).ss = (takeRoll h.source.toNat more pairs (heard h s)).ss := by
  simp [rollTaken]

theorem rollTaken_tpr : (rollTaken h more factor pairs s).tpr = (claimed h.source.toNat pairs (heard h s)).tpr := by
  simp [rollTaken, takeRoll_eq]

theorem rollTaken_only : OnlyChanges [.lif, .ru, .chans, .ss, .pu, .ts, .tpr, .attention] s
    (rollTaken h more factor pairs s) := by
  have first := heard_onlyChanges h s
  have claims := takeRoll_onlyChanges (o := h.source.toNat) (more := more) (pairs := pairs) (s := heard h s)
  have pace := takeFactor_onlyChanges h.source.toNat factor.toNat s.dateNow (takeRoll h.source.toNat more pairs (heard h s))
  exact (first.mono (by simp)).trans ((claims.mono (by simp)).trans (pace.mono (by simp)))

/-- The factor is taken as that of a PACE (R123). -/
theorem rollTaken_alikePaced {n : Nat} (taken : hears h n s = true) {u : State}
    (pace : exec (.pace { h with length := 1 } factor) s = .next u) : AlikePaced u (rollTaken h more factor pairs s) := by
  have hears' : hears { h with length := 1 } 1 s = true := by
    obtain ⟨received, open_, -⟩ := (hears_iff h n s).1 taken
    refine (hears_iff _ 1 s).2 ⟨?_, open_, rfl⟩
    simp [receives, Config.maxLength] at received ⊢
    tauto
  have same := (exec_pace_of_hears hears' factor).symm.trans pace
  obtain rfl : takeFactor h.source.toNat factor.toNat s.dateNow (heard h s) = u := Host.Outcome.next.inj same
  have open_ := open_of_hears taken
  exact takeFactor_alikePaced open_ (takeRoll_isOpen open_) takeRoll_alikePaced _ _ _

theorem rollTaken_of_standing (stand : ∀ p ∈ pairs, ∀ c, Cause.ofCode p.1.toNat = some c → MayState s h.source.toNat c →
    findClaim s.ss.claims h.source.toNat c ≠ none) :
    (rollTaken h more factor pairs s).ss = { s.ss with claims := (rollTaken h more factor pairs s).ss.claims } ∧
      OnlyChanges [.lif, .ru, .ss, .pu, .attention] s (rollTaken h more factor pairs s) := by
  have claims := takeRoll_of_standing (o := h.source.toNat) (more := more) (pairs := pairs) (s := heard h s)
    (by simpa [MayState] using stand)
  have first := heard_onlyChanges h s
  have pace := takeFactor_onlyChanges h.source.toNat factor.toNat s.dateNow (takeRoll h.source.toNat more pairs (heard h s))
  constructor
  · rw [rollTaken_ss, ← heard_ss h s]
    exact congrArg State.ss claims
  · refine (first.mono (by simp)).trans (OnlyChanges.trans ?_ (pace.mono (by simp)))
    rw [claims]
    exact (withClaims_onlyChanges _ _).mono (by simp)

end message

end Sys2Proof.Machine
end

section
/-! The own ROLL of a node: its composition in the own slot and while one is queued (R101), and what a frame tick leaves of it. -/

namespace Sys2Proof.Machine

open Sys2Proof

/-! ### The queue at the frame tick -/

theorem enqueue_length {q u : List QEntry} {m : Msg} (placed : enqueue q m = some u) : u.length ≤ q.length + 1 := by
  have appended (shorter : (if q.length < Config.queueSize then
      some (q ++ [{ msg := m, succ := none, active := false }]) else none) = some u) : u.length ≤ q.length + 1 := by
    split at shorter
    case isTrue =>
      obtain rfl := Option.some.inj shorter
      simp
    case isFalse => exact nomatch shorter
  cases key : m.body.key with
  | none => exact appended (enqueue_of_no_key key ▸ placed)
  | some k =>
    rw [enqueue_of_key key] at placed
    split at placed
    case isTrue =>
      obtain rfl := Option.some.inj placed
      simp
    case isFalse => exact appended placed

theorem place_ordinary_length (m : Msg) (s : State) :
    (place m s).lif.ordinary.length ≤ s.lif.ordinary.length + 1 := by
  rcases place_ordinary m s with same | placed
  · rw [same]
    exact Nat.le_succ _
  · exact enqueue_length placed

/-- What is composed first at a frame tick is one STATE at most. -/
theorem composeFirst_length (before : State) (order : List TickWork) {s : State} (open_ : s.ss.safety.isOpen = true) :
    (composeFirst before order s).lif.ordinary.length ≤ s.lif.ordinary.length + 1 := by
  unfold composeFirst
  split
  case isTrue => omega
  case isFalse =>
    rw [composeState_of_open before open_]
    exact place_ordinary_length _ s

/-! ### The ROLL composed -/

theorem key_eq_roll_iff (b : Body) : b.key = some .roll ↔ ∃ f ps, b = .roll f ps := by
  cases b <;> simp [Body.key]

theorem rollQueued_iff (l : Lif) : l.rollQueued = true ↔ ∃ e ∈ l.ordinary, ∃ f ps, e.msg.body = .roll f ps := by
  simp only [Lif.rollQueued, List.any_eq_true, QEntry.hasKey, beq_iff_eq, key_eq_roll_iff]

/-- The composition of the own ROLL: in the own slot, and while one stands in the queue (R101). -/
theorem rollComposed (s : State) :
    (s.ft.frame.toNat % 16 = s.cfg.station % 16 → rollCall s = broadcast s.rollBody s) ∧
    (s.ft.frame.toNat % 16 ≠ s.cfg.station % 16 → rollCall s = s) ∧
    ((∃ e ∈ s.lif.ordinary, ∃ f ps, e.msg.body = .roll f ps) → recomposeRoll s = broadcast s.rollBody s) ∧
    ((∀ e ∈ s.lif.ordinary, ∀ f ps, e.msg.body ≠ .roll f ps) → recomposeRoll s = s) := by
  refine ⟨fun slot => if_pos slot, fun other => if_neg other, fun waits => if_pos ((rollQueued_iff _).2 waits),
    fun absent => if_neg fun waits => ?_⟩
  obtain ⟨e, listed, f, ps, body⟩ := (rollQueued_iff _).1 waits
  exact absent e listed f ps body

/-! ### The ROLL of the own slot after the frame tick -/

/-- A queued ROLL is up to date where the queue, the claims, the own factor and the station are the same. -/
theorem RollFresh.of_same {s t : State} (fresh : RollFresh s) (lif : t.lif = s.lif) (ss : t.ss = s.ss) (zu : t.zu = s.zu)
    (cfg : t.cfg = s.cfg) : RollFresh t := by
  have roll : t.ownRoll = s.ownRoll := by simp only [State.ownRoll, State.rollBody, State.ownClaims, ss, zu, cfg]
  unfold RollFresh at fresh ⊢
  rwa [lif, ss, roll]

theorem withLevels_rollFresh {l : LineLevels} {s : State} (fresh : RollFresh s) : RollFresh (withLevels l s) :=
  fresh.of_same rfl rfl rfl rfl

section slot

variable {before s : State} {l : LineLevels} {order : List TickWork}

theorem aligned_rollFresh (open_ : s.ss.safety.isOpen = true) (room : s.lif.ordinary.length < 16)
    (slot : s.ft.frame.toNat % 16 = s.cfg.station % 16) : RollFresh (aligned s) := by
  have counted : Works False s (countOverflow (stationsTurned s)) :=
    (stationsTurned_works s).trans (countOverflow_works ((stationsTurned_works (q := False) s).isOpen open_))
  have called : rollCall (countOverflow (stationsTurned s)) =
      broadcast (countOverflow (stationsTurned s)).rollBody (countOverflow (stationsTurned s)) :=
    if_pos (by simpa [stationsTurned] using slot)
  have fresh : RollFresh (rollCall (countOverflow (stationsTurned s))) := by
    rw [called]
    exact broadcastRoll_fresh_of_room (counted.isOpen open_) (by simpa [stationsTurned] using room)
  have rest : Works False (rollCall (countOverflow (stationsTurned s))) (aligned s) := by
    rw [aligned_eq]
    exact (abortIfDue_works _).trans ((easeOn_works _).trans (liveTurned_works _ _))
  exact rest.fresh fresh

theorem alignFrame_rollFresh (open_ : s.ss.safety.isOpen = true) (room : s.lif.ordinary.length < 16)
    (slot : s.ft.frame.toNat % 16 = s.cfg.station % 16) : RollFresh (alignFrame s) := by
  have fresh : RollFresh (formRanges (paceTick s.ft.frame (advanceBase (aligned s)))) :=
    (aligned_rollFresh open_ room slot).of_same (by simp) (by simp) (by simp) (by simp)
  rw [alignFrame_eq]
  exact (zoneFrameTick_works (q := False) fresh.1).fresh fresh

/-- The ROLL of the own slot states the claims and the factor as they stand after the frame tick (R101). -/
theorem frameTick_rollFresh (open_ : s.ss.safety.isOpen = true) (noPark : s.ru.parkPending = false)
    (noRestart : s.cl.restartPending = false) (room : s.lif.ordinary.length ≤ 14)
    (slot : (s.ft.frame + 1).toNat % 16 = s.cfg.station % 16) : RollFresh (frameTick before l order s) := by
  obtain ⟨-, -, -, -, -, -, -, -, -, -, -, cfg, -⟩ := frameBegun_frame before order s
  have begun : (beginFrame s).ss = s.ss ∧ (beginFrame s).lif = s.lif := by simp
  have length : (frameBegun before order s).lif.ordinary.length ≤ s.lif.ordinary.length + 1 := by
    obtain ⟨loading, -, parked⟩ := working_of_open open_
    rw [frameBegun_lif before order ⟨loading, parked⟩, ← begun.2]
    exact composeFirst_length before order (by rw [begun.1, open_])
  have fresh : RollFresh (alignFrame (frameBegun before order s)) := by
    refine alignFrame_rollFresh (frameBegun_isOpen open_) (by omega) ?_
    rw [frameBegun_ft, cfg]
    exact slot
  have ready : RollFresh (frameReady before l order s) := withLevels_rollFresh fresh
  exact (frameTick_works (q := False) open_ noPark noRestart False.elim).fresh ready

end slot

/-! ### The claims of another station -/

section message

variable {h : Header} {more : Bool} {factor : Byte} {pairs : List (Byte × Byte)} {c : Cause} {s : State}

/-- The entry of a stated cause: with the detail of its last pair, and unlatched when it is new (R99). -/
theorem rollTaken_finds (may : MayState s h.source.toNat c) (named : ∃ p ∈ pairs, Cause.ofCode p.1.toNat = some c)
    (fits : findClaim s.ss.claims h.source.toNat c ≠ none ∨ s.ss.claims.length + pairs.length ≤ 32) :
    ∃ k, findClaim (rollTaken h more factor pairs s).ss.claims h.source.toNat c = some k ∧
      (∀ before p after, pairs = before ++ p :: after → Cause.ofCode p.1.toNat = some c →
        (∀ q ∈ after, Cause.ofCode q.1.toNat ≠ some c) → k.detail = p.2.toNat) ∧
      (findClaim s.ss.claims h.source.toNat c = none → k.latched = false) := by
  have may' : MayState (heard h s) h.source.toNat c := by simpa [MayState] using may
  rw [← heard_ss h s] at fits ⊢
  obtain ⟨k, found, detail⟩ := claimed_finds may' named fits
  refine ⟨k, ?_, detail, fun absent => claimed_unlatched (fun e stood => ?_) k found⟩
  · rw [rollTaken_ss, takeRoll_finds may' named, found]
  · rw [absent] at stood
    exact nomatch stood

/-- A stated cause that is new stops a moving node, and is refused at a full list (R102, R108). -/
theorem rollTaken_of_new (may : MayState s h.source.toNat c) (named : ∃ p ∈ pairs, Cause.ofCode p.1.toNat = some c)
    (absent : findClaim s.ss.claims h.source.toNat c = none) :
    (s.ss.safety.canStop = true → Stopped (rollTaken h more factor pairs s)) ∧
      (32 ≤ s.ss.claims.length → findClaim (rollTaken h more factor pairs s).ss.claims h.source.toNat c = none ∧
        Overflows (rollTaken h more factor pairs s)) := by
  have may' : MayState (heard h s) h.source.toNat c := by simpa [MayState] using may
  rw [← heard_ss h s] at absent ⊢
  constructor
  · intro moving
    obtain ⟨safety, activity⟩ := claimed_stops may' named absent moving
    exact ⟨by rw [rollTaken_ss, takeRoll_safety, safety], by rw [rollTaken_tpr, activity]⟩
  · intro full
    obtain ⟨stays, overflow, quiet, raised⟩ := claimed_refuses may' named absent full
    refine ⟨by rw [rollTaken_ss, takeRoll_finds may' named, stays], ?_⟩
    refine ⟨by rw [rollTaken_ss, takeRoll_eq, overflow], by rw [rollTaken_ss, takeRoll_eq, quiet],
      attentionHas_takeFactor ?_ _ _ _⟩
    rw [takeRoll_eq]
    exact raised

theorem rollTaken_still (still : s.ss.safety.canStop = false) :
    (rollTaken h more factor pairs s).ss.safety = s.ss.safety := by
  rw [← heard_ss h s] at still ⊢
  rw [rollTaken_ss, takeRoll_safety, claimed_still still]

theorem rollTaken_empty : (rollTaken h false factor [] s).ss.claims =
      (s.ss.claims.filter fun k => k.origin != h.source.toNat) ∧
    (rollTaken h false factor [] s).ss.safety = s.ss.safety := by
  rw [rollTaken_ss, takeRoll_empty, takeRoll_safety, ← heard_ss h s]
  exact ⟨rfl, rfl⟩

end message

/-- Settles O26: clause by clause, by induction over the pairs, by the gates of the message, by the two places that compose the
own ROLL, and by what each step of the frame tick leaves of a queued ROLL. -/
theorem rollStatesTheClaimsOfItsStation : Obligations.RollStatesTheClaimsOfItsStation := by
  unfold Obligations.RollStatesTheClaimsOfItsStation
  refine ⟨fun h more count factor pairs s taken few length => ⟨_, exec_roll_of_hears taken few length, ?others,
      fun c => rollTaken_finds, fun c may named absent => ?new, fun stand => rollTaken_of_standing ?standing, rollTaken_still,
      fun clear k listed origin => ?stated, fun k listed origin kept => ?retained, fun empty clear => ?empty,
      fun u pace => rollTaken_alikePaced taken pace, rollTaken_only⟩,
    fun h more count factor pairs s received idle => ?idle, rollComposed,
    fun l order s running open_ noRestart noPark room slot => ?tick⟩
  case others => rw [rollTaken_ss, takeRoll_filter, heard_ss]
  case new =>
    obtain ⟨stops, refuses⟩ := rollTaken_of_new (more := more) (factor := factor) may named absent
    exact ⟨stops, refuses⟩
  case standing => exact fun p listed c code may => stand p listed c code may
  case stated =>
    subst clear
    rw [rollTaken_ss] at listed
    simpa [MayState] using takeRoll_states listed origin
  case retained =>
    rw [rollTaken_ss]
    exact takeRoll_retains (by rwa [heard_ss]) (by simpa [MayState, origin] using kept)
  case empty =>
    subst empty clear
    exact rollTaken_empty
  case idle =>
    rcases idle with many | closed
    · exact broadcastKind_of_idle received _ (if_neg (not_le.2 many))
    · exact broadcastKind_of_closed received closed _ _
  case tick =>
    obtain ⟨-, e, listed, -, carries⟩ := frameTick_rollFresh (before := flywheelEnd s) (s := flywheelBegun s) (l := l)
      (order := order) open_ noPark noRestart room slot
    exact ⟨_, _, exec_flywheelTick running, rfl, e, listed, carries⟩

end Sys2Proof.Machine
end
